-- ==== Sys2Proof/Word.lean ====
section
/-! DEFINITION. The machine word, the byte, and their plainest arithmetic. -/

namespace Sys2Proof

/-- A 64-bit register or memory word (R34, R41). -/
abbrev Word := BitVec 64

/-- A byte of memory (R28). -/
abbrev Byte := BitVec 8

/-- A half vector-register image or a whole one: 512 bits (R34). -/
abbrev VWord := BitVec 512

/-- The word of a natural number, modulo 2^64 (R75: integer arithmetic wraps). -/
abbrev w64 (n : Nat) : Word := BitVec.ofNat 64 n

end Sys2Proof
end

