-- ==== Sys2Proof/Syntax.lean ====
section
/-! DEFINITION. The commands of the block: one constructor of `Instr` for every row of
spec/opcode_table.json, with the operands its rule gives it, and the types of those operands. -/

namespace Sys2Proof

/-- A unit that issues clauses: a furrow engine, a solver lane or the Ditch Rider (R34, R310, R410). -/
inductive Core where
  | eng (e : Fin 256)
  | lane (l : Fin 64)
  | drd
deriving DecidableEq, Repr

/-- A gate of this module, by level (R192). -/
inductive GateId where
  | cluster (c : Fin 16) (i : Fin 256)
  | die (d : Fin 2) (i : Fin 1024)
  | module (i : Fin 512)
deriving DecidableEq, Repr

/-- A check of this module, by level (R192). -/
inductive CheckId where
  | cluster (c : Fin 16) (k : Fin 64)
  | die (d : Fin 2) (k : Fin 1024)
  | module (k : Fin 256)
deriving DecidableEq, Repr

/-- A mover: an engine mover, or a quadrant or hub mover by its ring number (R165). -/
inductive MoverId where
  | engine (e : Fin 256)
  | ring (m : Fin 12)
deriving DecidableEq, Repr

/-- A unit with an EN field (R488, R489). -/
inductive DrainUnit where
  | engine (e : Fin 256)
  | mover (m : Fin 12)
  | edge (x : Fin 2)
  | channel (c : Fin 24)
  | forebay
  | lane (l : Fin 64)
  | loop (n : Fin 192)
  | eth (p : Fin 4)
  | dvoril (p : Fin 2)
  | can (c : Fin 8)
  | journal
  | aes
deriving DecidableEq, Repr

/-- What the partner port announces in the management exchange of link training and at link-up: group,
index, receive window, DET_KEY and whether it has STRICT set (R214, R218, R220, R405). -/
structure DvPartner where
  gid   : BitVec 32
  idx   : BitVec 2
  rxBase  : BitVec 40
  rxLimit : BitVec 40
  key     : Word
  strict  : Bool
deriving DecidableEq, Repr

/-- A frame that arrives on a Dvoril port: FEC codewords corrected in it, and its 32 little-endian words
(R211, R219). -/
structure DvFrame where
  fecFix : Nat
  words  : List Word
deriving DecidableEq, Repr

/-- How the ECC of a CSI-2 packet header was found (R281). -/
inductive EccKind where
  | clean
  | fixed
  | bad
deriving DecidableEq, Repr

/-- A CSI-2 long packet as the receiver delivers it (R281, R282). -/
structure CsiPacket where
  vc    : BitVec 4
  dt    : BitVec 6
  ecc   : EccKind
  crcOk : Bool
  bytes : List Byte
deriving DecidableEq, Repr

/-- An Ethernet frame on the wire, without preamble and frame check sequence (R356, R359). -/
structure EthFrame where
  bytes : List Byte
  fcsOk : Bool
deriving DecidableEq, Repr

/-- A source of a launched Ethernet frame: a transmit queue or a servo slot (R362). -/
inductive EthTxSrc where
  | queue (q : Fin 4)
  | servo (i : Fin 16)
deriving DecidableEq, Repr

/-- A CAN frame on the bus (R373, R374). -/
structure CanFrame where
  id   : BitVec 29
  ide  : Bool
  rtr  : Bool
  fdf  : Bool
  brs  : Bool
  esi  : Bool
  dlc  : BitVec 4
  data : List Byte
deriving DecidableEq, Repr

/-- The errors of a frame that the controller sends (R380). -/
inductive CanFault where
  | ack
  | bit
  | stuff
  | form
deriving DecidableEq, Repr

/-- Why a CAN frame failed: lost arbitration; an error of the frame sent, and whether ISO 11898-1 counts it;
an error of a frame received, counted as 1 or as 8 (R372, R380). -/
inductive CanErr where
  | arbitration
  | own (why : CanFault) (counted : Bool)
  | received (eight : Bool)
deriving DecidableEq, Repr

/-- A safe-state line (R504, R505). -/
inductive SafeLine where
  | okA
  | okB
  | hb
deriving DecidableEq, Repr

/-- An error bucket: a Cistern quadrant's or an HBM stack's (R442). -/
inductive BucketId where
  | cistern (q : Fin 4)
  | hbm (s : Fin 2)
deriving DecidableEq, Repr

/-- The two scrub passes (R449). -/
inductive ScrubId where
  | cistern
  | hbm
deriving DecidableEq, Repr

/-- The PCIe conventional resets (R453, R503). -/
inductive PcieReset where
  | perst
  | hotReset
  | linkLoss
deriving DecidableEq, Repr

/-- Junction sensors (R483). -/
inductive DieSensor where
  | die0
  | die1
  | hub
deriving DecidableEq, Repr

/-- The reset input pins (R503). -/
inductive ResetPin where
  | rst
  | perst
deriving DecidableEq, Repr

/-- The order codes (R3). -/
inductive OrderCode where
  | m128I
  | m128X
  | m064I
deriving DecidableEq, Repr

/-- Where the boot loader puts a component: an address of the map, an offset of the Ditch Rider's private
memory, or a store inside a unit, such as the Watermaster's firmware or the microcode (R409, R463). -/
inductive BootDest where
  | mem (a : BitVec 40)
  | ditchRider (off : Fin 0x40000)
  | inside
deriving DecidableEq, Repr

/-- A manifest component as the boot loader finds it: the measurement register it is extended into, its
destination, its bytes, and its digest (R463). -/
structure BootComponent where
  meas   : Fin 8
  dest   : BootDest
  bytes  : List Byte
  digest : List Byte
deriving DecidableEq, Repr

/-- An image slot in flash as the boot loader finds it (R461, R462). -/
structure BootSlot where
  magicOk  : Bool
  crcOk    : Bool
  seq      : BitVec 32
  svn      : BitVec 8
  digestOk : Bool
  manifestOk : Bool
  manifestDigest : List Byte
  ubuild   : BitVec 16
  debugOk  : Bool
  components : List BootComponent
deriving DecidableEq, Repr

/-- What the boot ROM finds at a start: order code, fuses, the identity key pair it makes, flash, and the
cold-plate sensor (R461-R466, R502). -/
structure BootInput where
  order   : OrderCode
  serial  : Word
  otpSvn  : BitVec 8
  romDigest : List Byte
  pubKey  : List Byte
  slotA   : BootSlot
  slotB   : BootSlot
  tcp     : Int
deriving DecidableEq, Repr

/-- The commands. `stop` is the stop bit of an instruction word (R51); `bad` marks the results whose
residue code or checksum the environment corrupts (R421); `src` is the source id of a register writer
(R9). -/
inductive Instr where
  /-- R76: Scalar instruction that writes ra + rb into rd. -/
  | add (c : Core) (rd : BitVec 5) (ra : BitVec 5) (rb : BitVec 5) (stop : Bool)
  /-- R76: Scalar instruction that writes ra − rb into rd. -/
  | sub (c : Core) (rd : BitVec 5) (ra : BitVec 5) (rb : BitVec 5) (stop : Bool)
  /-- R76: Scalar bitwise AND of two registers. -/
  | and (c : Core) (rd : BitVec 5) (ra : BitVec 5) (rb : BitVec 5) (stop : Bool)
  /-- R76: Scalar bitwise OR of two registers. -/
  | or (c : Core) (rd : BitVec 5) (ra : BitVec 5) (rb : BitVec 5) (stop : Bool)
  /-- R76: Scalar bitwise exclusive OR of two registers. -/
  | xor (c : Core) (rd : BitVec 5) (ra : BitVec 5) (rb : BitVec 5) (stop : Bool)
  /-- R76: Scalar left shift by rb[5:0]. -/
  | shl (c : Core) (rd : BitVec 5) (ra : BitVec 5) (rb : BitVec 5) (stop : Bool)
  /-- R76: Scalar logical right shift by rb[5:0]. -/
  | shr (c : Core) (rd : BitVec 5) (ra : BitVec 5) (rb : BitVec 5) (stop : Bool)
  /-- R76: Scalar arithmetic right shift by rb[5:0]. -/
  | sra (c : Core) (rd : BitVec 5) (ra : BitVec 5) (rb : BitVec 5) (stop : Bool)
  /-- R76: Scalar multiply that keeps the low 64 bits of the product. -/
  | mul (c : Core) (rd : BitVec 5) (ra : BitVec 5) (rb : BitVec 5) (stop : Bool)
  /-- R76: Scalar multiply that keeps the high 64 bits of the signed 128-bit product. -/
  | mulh (c : Core) (rd : BitVec 5) (ra : BitVec 5) (rb : BitVec 5) (stop : Bool)
  /-- R76: Signed set-less-than compare of two registers. -/
  | slt (c : Core) (rd : BitVec 5) (ra : BitVec 5) (rb : BitVec 5) (stop : Bool)
  /-- R76: Unsigned set-less-than compare of two registers. -/
  | sltu (c : Core) (rd : BitVec 5) (ra : BitVec 5) (rb : BitVec 5) (stop : Bool)
  /-- R76: Set-equal compare of two registers. -/
  | seq (c : Core) (rd : BitVec 5) (ra : BitVec 5) (rb : BitVec 5) (stop : Bool)
  /-- R76: Adds a sign-extended 13-bit immediate. -/
  | addi (c : Core) (rd : BitVec 5) (ra : BitVec 5) (imm : BitVec 13) (stop : Bool)
  /-- R76: Subtracts a sign-extended 13-bit immediate. -/
  | subi (c : Core) (rd : BitVec 5) (ra : BitVec 5) (imm : BitVec 13) (stop : Bool)
  /-- R76: Bitwise AND with a sign-extended immediate. -/
  | andi (c : Core) (rd : BitVec 5) (ra : BitVec 5) (imm : BitVec 13) (stop : Bool)
  /-- R76: Bitwise OR with a sign-extended immediate. -/
  | ori (c : Core) (rd : BitVec 5) (ra : BitVec 5) (imm : BitVec 13) (stop : Bool)
  /-- R76: Bitwise exclusive OR with a sign-extended immediate. -/
  | xori (c : Core) (rd : BitVec 5) (ra : BitVec 5) (imm : BitVec 13) (stop : Bool)
  /-- R76: Left shift by an immediate. -/
  | shli (c : Core) (rd : BitVec 5) (ra : BitVec 5) (imm : BitVec 13) (stop : Bool)
  /-- R76: Logical right shift by an immediate. -/
  | shri (c : Core) (rd : BitVec 5) (ra : BitVec 5) (imm : BitVec 13) (stop : Bool)
  /-- R76: Arithmetic right shift by an immediate. -/
  | srai (c : Core) (rd : BitVec 5) (ra : BitVec 5) (imm : BitVec 13) (stop : Bool)
  /-- R76: Signed compare with a sign-extended immediate. -/
  | slti (c : Core) (rd : BitVec 5) (ra : BitVec 5) (imm : BitVec 13) (stop : Bool)
  /-- R76: Loads an aligned 8-byte word into a scalar register, checked for reach and allotment. -/
  | ld (c : Core) (rd : BitVec 5) (ra : BitVec 5) (imm : BitVec 13) (stop : Bool)
  /-- R76: Loads and sign-extends an aligned 4-byte word. -/
  | lw (c : Core) (rd : BitVec 5) (ra : BitVec 5) (imm : BitVec 13) (stop : Bool)
  /-- R76: Stores an 8-byte scalar register to memory with its poison mark. -/
  | st (c : Core) (rs : BitVec 5) (ra : BitVec 5) (imm : BitVec 13) (stop : Bool)
  /-- R76: Stores the low 4 bytes of a scalar register. -/
  | sw (c : Core) (rs : BitVec 5) (ra : BitVec 5) (imm : BitVec 13) (stop : Bool)
  /-- R76: Loads a sign-extended 18-bit immediate. -/
  | li (c : Core) (rd : BitVec 5) (imm : BitVec 18) (stop : Bool)
  /-- R76: Shifts rd left by 18 and ORs in an immediate. -/
  | lsh (c : Core) (rd : BitVec 5) (imm : BitVec 18) (stop : Bool)
  /-- R77: Branches if the register is zero. -/
  | beqz (c : Core) (ra : BitVec 5) (off : BitVec 18) (stop : Bool)
  /-- R77: Branches if the register is non-zero. -/
  | bnez (c : Core) (ra : BitVec 5) (off : BitVec 18) (stop : Bool)
  /-- R77: Branches if the register is negative. -/
  | bltz (c : Core) (ra : BitVec 5) (off : BitVec 18) (stop : Bool)
  /-- R77: Branches if the register is not negative. -/
  | bgez (c : Core) (ra : BitVec 5) (off : BitVec 18) (stop : Bool)
  /-- R77: Writes the return address and branches. -/
  | jal (c : Core) (rd : BitVec 5) (off : BitVec 18) (stop : Bool)
  /-- R77: Branches to the address held in a register. -/
  | jr (c : Core) (ra : BitVec 5) (stop : Bool)
  /-- R78: Reads a special register, subject to mode and strict-mode rules. -/
  | srd (c : Core) (rd : BitVec 5) (num : BitVec 12) (stop : Bool)
  /-- R78: Writes a special register, effective from the next clause. -/
  | swr (c : Core) (num : BitVec 12) (ra : BitVec 5) (stop : Bool)
  /-- R62: Discards every verb in flight and frees all token slots. -/
  | vctlAbort (c : Core) (ra : BitVec 5) (stop : Bool)
  /-- R79: Runtime-mode dispatch that reads and checks a task descriptor and enters task mode. -/
  | disp (c : Core) (ra : BitVec 5) (stop : Bool)
  /-- R69: Ends the task after all verbs and moves complete, writes EXIT and enters runtime mode. -/
  | tend (c : Core) (ra : BitVec 5) (stop : Bool)
  /-- R81: Ends the task's slice, saves the arguments and entry address into the descriptor and enters runtime mode. -/
  | yield (c : Core) (stop : Bool)
  /-- R82: Sends a check-in to a window watchdog. -/
  | stage (c : Core) (ra : BitVec 5) (stop : Bool)
  /-- R84: Vector elementwise add. -/
  | vadd (c : Core) (vd : BitVec 5) (va : BitVec 5) (vb : BitVec 5) (et : BitVec 5) (pg : BitVec 3) (bad : BitVec 64) (stop : Bool)
  /-- R111: Vector elementwise subtract. -/
  | vsub (c : Core) (vd : BitVec 5) (va : BitVec 5) (vb : BitVec 5) (et : BitVec 5) (pg : BitVec 3) (bad : BitVec 64) (stop : Bool)
  /-- R84: Vector elementwise multiply. -/
  | vmul (c : Core) (vd : BitVec 5) (va : BitVec 5) (vb : BitVec 5) (et : BitVec 5) (pg : BitVec 3) (bad : BitVec 64) (stop : Bool)
  /-- R84: Vector elementwise IEEE minimum. -/
  | vmin (c : Core) (vd : BitVec 5) (va : BitVec 5) (vb : BitVec 5) (et : BitVec 5) (pg : BitVec 3) (stop : Bool)
  /-- R84: Vector elementwise IEEE maximum. -/
  | vmax (c : Core) (vd : BitVec 5) (va : BitVec 5) (vb : BitVec 5) (et : BitVec 5) (pg : BitVec 3) (stop : Bool)
  /-- R133: FP32 vector divide on the engine's divide unit. -/
  | vdiv (c : Core) (vd : BitVec 5) (va : BitVec 5) (vb : BitVec 5) (et : BitVec 5) (pg : BitVec 3) (stop : Bool)
  /-- R133: FP32 vector square root on the engine's divide unit. -/
  | vsqrt (c : Core) (vd : BitVec 5) (va : BitVec 5) (et : BitVec 5) (pg : BitVec 3) (stop : Bool)
  /-- R84: FP32 vector fused multiply-add. -/
  | vfmaF32 (c : Core) (vd : BitVec 5) (va : BitVec 5) (vb : BitVec 5) (vc : BitVec 5) (pg : BitVec 3) (bad : BitVec 64) (stop : Bool)
  /-- R84: BF16 vector fused multiply-add. -/
  | vfmaBf16 (c : Core) (vd : BitVec 5) (va : BitVec 5) (vb : BitVec 5) (vc : BitVec 5) (pg : BitVec 3) (bad : BitVec 64) (stop : Bool)
  /-- R84: FP16 vector fused multiply-add. -/
  | vfmaF16 (c : Core) (vd : BitVec 5) (va : BitVec 5) (vb : BitVec 5) (vc : BitVec 5) (pg : BitVec 3) (bad : BitVec 64) (stop : Bool)
  /-- R84: FP64 vector fused multiply-add. -/
  | vfmaF64 (c : Core) (vd : BitVec 5) (va : BitVec 5) (vb : BitVec 5) (vc : BitVec 5) (pg : BitVec 3) (bad : BitVec 64) (stop : Bool)
  /-- R84: Bitwise AND over all 512 bits, predicated per byte lane. -/
  | vand (c : Core) (vd : BitVec 5) (va : BitVec 5) (vb : BitVec 5) (pg : BitVec 3) (stop : Bool)
  /-- R84: Bitwise OR over all 512 bits. -/
  | vor (c : Core) (vd : BitVec 5) (va : BitVec 5) (vb : BitVec 5) (pg : BitVec 3) (stop : Bool)
  /-- R84: Bitwise exclusive OR over all 512 bits. -/
  | vxor (c : Core) (vd : BitVec 5) (va : BitVec 5) (vb : BitVec 5) (pg : BitVec 3) (stop : Bool)
  /-- R84: Vector compare that writes a predicate. -/
  | vcmp (c : Core) (pd : BitVec 3) (va : BitVec 5) (vb : BitVec 5) (cc : BitVec 3) (et : BitVec 5) (bad : BitVec 64) (stop : Bool)
  /-- R84: Predicate AND. -/
  | popAnd (c : Core) (pd : BitVec 3) (pa : BitVec 3) (pb : BitVec 3) (stop : Bool)
  /-- R84: Predicate OR. -/
  | popOr (c : Core) (pd : BitVec 3) (pa : BitVec 3) (pb : BitVec 3) (stop : Bool)
  /-- R84: Predicate exclusive OR. -/
  | popXor (c : Core) (pd : BitVec 3) (pa : BitVec 3) (pb : BitVec 3) (stop : Bool)
  /-- R84: Predicate pa AND NOT pb. -/
  | popAndn (c : Core) (pd : BitVec 3) (pa : BitVec 3) (pb : BitVec 3) (stop : Bool)
  /-- R84: Predicate NOT pa. -/
  | popNot (c : Core) (pd : BitVec 3) (pa : BitVec 3) (stop : Bool)
  /-- R85: Loads 64 bytes into a vector register. -/
  | vld (c : Core) (vd : BitVec 5) (ga : BitVec 5) (pg : BitVec 3) (off : BitVec 10) (stop : Bool)
  /-- R85: Stores the enabled byte lanes of a vector register. -/
  | vst (c : Core) (vs : BitVec 5) (ga : BitVec 5) (pg : BitVec 3) (off : BitVec 10) (stop : Bool)
  /-- R84: Broadcasts a scalar into every element. -/
  | vbcast (c : Core) (vd : BitVec 5) (ga : BitVec 5) (et : BitVec 5) (stop : Bool)
  /-- R84: Extracts one element into a scalar register. -/
  | vget (c : Core) (gd : BitVec 5) (va : BitVec 5) (gi : BitVec 5) (et : BitVec 5) (stop : Bool)
  /-- R85: Converts vector elements between types. -/
  | vcvt (c : Core) (vd : BitVec 5) (va : BitVec 5) (dst : BitVec 5) (src : BitVec 5) (stop : Bool)
  /-- R84: Copies a scalar register into a predicate. -/
  | pmovTo (c : Core) (pd : BitVec 3) (ga : BitVec 5) (stop : Bool)
  /-- R84: Copies a predicate into a scalar register. -/
  | pmovFrom (c : Core) (gd : BitVec 5) (pa : BitVec 3) (stop : Bool)
  /-- R90: Matrix multiply-accumulate verb into an accumulator. -/
  | mma (c : Core) (gt : BitVec 5) (acc : BitVec 3) (na : BitVec 6) (nb : BitVec 6) (stop : Bool)
  /-- R90: Matrix multiply verb that overwrites the accumulator. -/
  | mmaSet (c : Core) (gt : BitVec 5) (acc : BitVec 3) (na : BitVec 6) (nb : BitVec 6) (stop : Bool)
  /-- R258: Dense convolution verb that overwrites the output map. -/
  | conv (c : Core) (gt : BitVec 5) (nd : BitVec 6) (na : BitVec 6) (nb : BitVec 6) (stop : Bool)
  /-- R258: Dense convolution verb that accumulates into the output map. -/
  | convAccumulate (c : Core) (gt : BitVec 5) (nd : BitVec 6) (na : BitVec 6) (nb : BitVec 6) (stop : Bool)
  /-- R262: Depthwise or grouped convolution verb that overwrites the output. -/
  | dwconv (c : Core) (gt : BitVec 5) (nd : BitVec 6) (na : BitVec 6) (nb : BitVec 6) (stop : Bool)
  /-- R262: Depthwise or grouped convolution verb that accumulates into the output. -/
  | dwconvAccumulate (c : Core) (gt : BitVec 5) (nd : BitVec 6) (na : BitVec 6) (nb : BitVec 6) (stop : Bool)
  /-- R238: Forward attention verb over paged keys and values, with optional appends. -/
  | attn (c : Core) (gt : BitVec 5) (nd : BitVec 6) (na : BitVec 6) (nb : BitVec 6) (stop : Bool)
  /-- R249: Attention verb that recomputes probabilities from row statistics. -/
  | attnRecompute (c : Core) (gt : BitVec 5) (nd : BitVec 6) (na : BitVec 6) (nb : BitVec 6) (stop : Bool)
  /-- R253: Softmax verb that computes and writes row statistics. -/
  | smax (c : Core) (gt : BitVec 5) (nd : BitVec 6) (na : BitVec 6) (nb : BitVec 6) (stop : Bool)
  /-- R253: Softmax verb that reads M and LSE from the statistics noun. -/
  | smaxFromStats (c : Core) (gt : BitVec 5) (nd : BitVec 6) (na : BitVec 6) (nb : BitVec 6) (stop : Bool)
  /-- R93: Layer-norm verb. -/
  | normLayer (c : Core) (gt : BitVec 5) (nd : BitVec 6) (na : BitVec 6) (nb : BitVec 6) (stop : Bool)
  /-- R93: RMS-norm verb. -/
  | normRms (c : Core) (gt : BitVec 5) (nd : BitVec 6) (na : BitVec 6) (nb : BitVec 6) (stop : Bool)
  /-- R146: Conversion verb from a source noun into nd's format and scales. -/
  | cvt (c : Core) (gt : BitVec 5) (nd : BitVec 6) (na : BitVec 6) (stop : Bool)
  /-- R143: Conversion verb whose source is an accumulator. -/
  | cvtFromAccumulator (c : Core) (gt : BitVec 5) (nd : BitVec 6) (acc : BitVec 3) (stop : Bool)
  /-- R269: Crop-and-resize verb queued to the cluster sampler. -/
  | crop (c : Core) (gt : BitVec 5) (nd : BitVec 6) (na : BitVec 6) (nb : BitVec 6) (stop : Bool)
  /-- R94: Gather verb that copies indexed slices. -/
  | gath (c : Core) (gt : BitVec 5) (nd : BitVec 6) (na : BitVec 6) (nb : BitVec 6) (stop : Bool)
  /-- R94: Scatter verb that stores slices at indices. -/
  | scatStore (c : Core) (gt : BitVec 5) (nd : BitVec 6) (na : BitVec 6) (nb : BitVec 6) (stop : Bool)
  /-- R94: Scatter verb that adds slices in index order. -/
  | scatAdd (c : Core) (gt : BitVec 5) (nd : BitVec 6) (na : BitVec 6) (nb : BitVec 6) (stop : Bool)
  /-- R94: Scatter verb with atomic element additions. -/
  | scatAtomicAdd (c : Core) (gt : BitVec 5) (nd : BitVec 6) (na : BitVec 6) (nb : BitVec 6) (stop : Bool)
  /-- R95: Reads half an accumulator row into a vector register. -/
  | arv (c : Core) (vd : BitVec 5) (acc : BitVec 3) (gr : BitVec 5) (stop : Bool)
  /-- R95: Writes half an accumulator row from a vector register. -/
  | awv (c : Core) (acc : BitVec 3) (vs : BitVec 5) (gr : BitVec 5) (stop : Bool)
  /-- R95: Zeroes an accumulator and sets its type tag. -/
  | azro (c : Core) (acc : BitVec 3) (t : Bool) (stop : Bool)
  /-- R96: Waits for a verb, returns its status word, ORs its flags and frees the slot. -/
  | waitv (c : Core) (gd : BitVec 5) (gk : BitVec 5) (stop : Bool)
  /-- R98: Copies a noun to a noun through an engine mover or a quadrant mover handoff and signals a gate. -/
  | move (c : Core) (nd : BitVec 6) (na : BitVec 6) (gr : BitVec 5) (stop : Bool)
  /-- R99: Advisory read-ahead of a noun's HBM footprint. -/
  | pref (c : Core) (na : BitVec 6) (stop : Bool)
  /-- R97: Loads a 64-byte noun-table entry from memory. -/
  | nld (c : Core) (nd : BitVec 6) (gr : BitVec 5) (stop : Bool)
  /-- R97: Stores a noun-table entry to memory. -/
  | nst (c : Core) (na : BitVec 6) (gr : BitVec 5) (stop : Bool)
  /-- R97: Reads one word of a noun-table entry. -/
  | nrd (c : Core) (gr : BitVec 5) (na : BitVec 6) (w : BitVec 3) (stop : Bool)
  /-- R97: Writes one word of a noun-table entry. -/
  | nwr (c : Core) (nd : BitVec 6) (w : BitVec 3) (gr : BitVec 5) (stop : Bool)
  /-- R97: Copies a noun entry with its BASE advanced. -/
  | nadd (c : Core) (nd : BitVec 6) (na : BitVec 6) (gr : BitVec 5) (stop : Bool)
  /-- R101: Adds a signed amount to a gate after earlier stores and verbs complete. -/
  | gsig (c : Core) (ga : BitVec 5) (gb : BitVec 5) (stop : Bool)
  /-- R102: Waits on a gate until its value suffices, then takes the amount. -/
  | gwait (c : Core) (ga : BitVec 5) (gb : BitVec 5) (stop : Bool)
  /-- R196: Arrives at a check, counted in a round or held. -/
  | chka (c : Core) (ga : BitVec 5) (stop : Bool)
  /-- R104: Sends a remote signal carrying the engine's data-fence counts. -/
  | post (c : Core) (ga : BitVec 5) (gb : BitVec 5) (stop : Bool)
  /-- R105: Release fence: retires once earlier writes are accepted or performed. -/
  | fenceRel (c : Core) (stop : Bool)
  /-- R105: Acquire fence: retires once writes accepted before the last gwait or chka are performed. -/
  | fenceAcq (c : Core) (stop : Bool)
  /-- R316: Lane waits for and begins the next problem after its descriptor checks. -/
  | snext (l : Fin 64) (gd : BitVec 5) (stop : Bool)
  /-- R310: Lane instruction that runs the primitive named by a 64-byte record. -/
  | prim (l : Fin 64) (gd : BitVec 5) (ga : BitVec 5) (stop : Bool)
  /-- R321: Offers an iterate block for retention if its merit beats KMERIT. -/
  | keep (l : Fin 64) (ga : BitVec 5) (stop : Bool)
  /-- R323: Ends the problem with a code and returns a block or the kept iterate. -/
  | sdone (l : Fin 64) (ga : BitVec 5) (gb : BitVec 5) (stop : Bool)
  /-- R410: Ditch Rider waits for and takes the oldest inbox record. -/
  | dnext (gd : BitVec 5) (stop : Bool)
  /-- R418: Ditch Rider verdict seals a pending ticket's frame. -/
  | dverd (ga : BitVec 5) (gb : BitVec 5) (stop : Bool)
  /-- R410: Ditch Rider reports a detection of a class for a unit. -/
  | dflag (ga : BitVec 5) (gb : BitVec 5) (stop : Bool)
  /-- R412: Restarts the Ditch Rider firmware watchdog. -/
  | dpet (stop : Bool)
  /-- R91: Completion of an MMA: results stand and its token reports completion. -/
  | mmaComplete (e : Fin 256) (slot : Fin 8) (bad : Bool)
  /-- R260: Completion of a conv verb. -/
  | convComplete (e : Fin 256) (slot : Fin 8) (bad : Bool)
  /-- R263: Completion of a dwconv verb. -/
  | dwconvComplete (e : Fin 256) (slot : Fin 8) (bad : Bool)
  /-- R247: Completion of an attn verb once all its sequences have completed or ended. -/
  | attnComplete (e : Fin 256) (slot : Fin 8) (bad : Bool)
  /-- R253: Completion of a smax verb. -/
  | smaxComplete (e : Fin 256) (slot : Fin 8)
  /-- R93: Completion of a norm verb. -/
  | normComplete (e : Fin 256) (slot : Fin 8)
  /-- R153: Completion of a cvt verb, including its statistics record. -/
  | cvtComplete (e : Fin 256) (slot : Fin 8)
  /-- R271: Completion of a crop verb by the sampler. -/
  | cropComplete (e : Fin 256) (slot : Fin 8)
  /-- R94: Completion of a gath or scat verb. -/
  | gathScatComplete (e : Fin 256) (slot : Fin 8)
  /-- R196: A completed round releases one arrival per gate clock and ends its departure. -/
  | checkDepartureRelease (k : CheckId)
  /-- R199: The sluice releases a held post once its counted writes have landed and applies its amount. -/
  | sluiceRelease (n : Nat)
  /-- R205: A gwait or chka that has waited THRESH has the engine's clock gated and its allowance lent. -/
  | engineClockGate (e : Fin 256)
  /-- R521: EN written 1 to a DISABLED engine starts it in runtime mode with EDETAIL 2. -/
  | feEnable (src : BitVec 16) (e : Fin 256)
  /-- R521: EN written 0 puts the engine in DRAINING. -/
  | feDrain (src : BitVec 16) (e : Fin 256)
  /-- R521: Discards in-flight verbs and stops the engine. -/
  | feAbort (src : BitVec 16) (e : Fin 256)
  /-- R186: A write of FE_TQ_PUSH copies a descriptor into the engine's queue or refuses it. -/
  | taskPush (src : BitVec 16) (e : Fin 256) (v : Word)
  /-- R188: A read of FE_TQ_TAKE takes a task from the own queue or by turnout into the running slot. -/
  | taskTake (src : BitVec 16) (e : Fin 256)
  /-- R194: A direct write sets a gate's VALUE, flags and LASTSRC, then the gate serves its waiters. -/
  | gateWrite (src : BitVec 16) (g : GateId) (v : Word)
  /-- R197: A direct write of a check record. -/
  | checkWrite (src : BitVec 16) (k : CheckId) (w : Bool) (v : Word)
  /-- R204: Writing CST_GDBG_SEL selects a gate or check for the debug view. -/
  | gateDebugSelect (src : BitVec 16) (v : Word)
  /-- R204: Reading CST_GDBG[0] captures all eight view words in one gate clock. -/
  | gateDebugCapture (src : BitVec 16)
  /-- R172: Writing TAIL posts descriptors into a mover ring. -/
  | moverRingPost (src : BitVec 16) (m : Fin 12) (v : Word)
  /-- R172: A mover takes the next descriptor from its ring or handoff queue and checks it. -/
  | moverTakeDescriptor (mv : MoverId)
  /-- R170: A copy or fill completes: gate signal, optional CST-MOVE-DONE, CODE written last. -/
  | moverDescriptorComplete (mv : MoverId) (obFail : Bool) (data : List Byte)
  /-- R488: EN written 1 enables a disabled mover. -/
  | moverEnable (src : BitVec 16) (m : Fin 12)
  /-- R173: EN written 0 puts a mover in DRAINING. -/
  | moverDrain (src : BitVec 16) (m : Fin 12)
  /-- R173: Ends a mover's descriptors in progress ABORTED and disables it. -/
  | moverAbort (src : BitVec 16) (m : Fin 12)
  /-- R488: A draining unit whose work is done becomes DISABLED. -/
  | drainComplete (u : DrainUnit)
  /-- R489: A unit's maximum drain time passes and remaining work is treated as aborted. -/
  | drainTimeout (u : DrainUnit)
  /-- R175: A bank grants its oldest presented request and ages advance every fourth grant. -/
  | cisternBankGrant (b : Fin 128)
  /-- R218: EN written 1 starts training of a Dvoril port. -/
  | dvorilLinkEnable (src : BitVec 16) (p : Fin 2)
  /-- R220: Training and management exchange finish, the port is UP and DVL-LINK-UP appended. -/
  | dvorilLinkUp (p : Fin 2) (partner : DvPartner)
  /-- R218: Training fails within 20 ms and the port stays DOWN. -/
  | dvorilTrainingTimeout (p : Fin 2)
  /-- R220: Loss of FEC lock for 1 µs takes the link DOWN. -/
  | dvorilLockLoss (p : Fin 2)
  /-- R220: ABORT takes the link down at once. -/
  | dvorilAbort (src : BitVec 16) (p : Fin 2)
  /-- R221: EN cleared: the port stops sending new frames and drains. -/
  | dvorilDrain (src : BitVec 16) (p : Fin 2)
  /-- R212: The port sends the next frame from the highest non-empty virtual channel with credit. -/
  | dvorilFrameSend (p : Fin 2)
  /-- R219: A frame arrives, is checked for CRC and sequence, and its payload or posts are delivered. -/
  | dvorilFrameReceive (p : Fin 2) (f : DvFrame)
  /-- R213: A bulk payload is performed at its banks and the landed count advances. -/
  | dvorilFrameLanded (p : Fin 2)
  /-- R219: The sender resends from the first unacknowledged frame after a gap. -/
  | dvorilResend (p : Fin 2)
  /-- R216: The partner acknowledges a send's last frame; the mover signals and writes CODE. -/
  | dvorilSendComplete (p : Fin 2)
  /-- R222: Every 10 µs time frames are exchanged and TB_INC is disciplined when DISC is set. -/
  | dvorilTimeExchange (p : Fin 2) (t1 : Nat) (t2 : Nat) (t3 : Nat) (t4 : Nat)
  /-- R247: CST_PW_CTL.RESUME retries every stalled sequence of the cluster. -/
  | pageWalkerResume (src : BitVec 16) (c : Fin 16)
  /-- R247: CST_PW_CTL.CANCEL ends every stalled sequence with KV_EXHAUSTED. -/
  | pageWalkerCancel (src : BitVec 16) (c : Fin 16)
  /-- R231: CST_PW_CTL.FLUSH invalidates the look-aside buffer. -/
  | pageWalkerFlush (src : BitVec 16) (c : Fin 16)
  /-- R274: Writing EDG_RING TAIL posts edge engine jobs. -/
  | edgeRingPost (src : BitVec 16) (x : Fin 2) (v : Word)
  /-- R275: The edge engine takes the next job, checks it and waits on IGATE. -/
  | edgeJobTake (x : Fin 2)
  /-- R276: A job's output is performed, OGATE signalled, EDG-JOB-DONE appended and CODE written. -/
  | edgeJobComplete (x : Fin 2)
  /-- R488: EDG_CTL.EN written 1 enables the edge engine. -/
  | edgeEnable (src : BitVec 16) (x : Fin 2)
  /-- R279: EDG_CTL.EN written 0 drains the edge engine. -/
  | edgeDrain (src : BitVec 16) (x : Fin 2)
  /-- R279: EDG_CTL.ABORT ends the job in progress and disables the engine. -/
  | edgeAbort (src : BitVec 16) (x : Fin 2)
  /-- R423: DRD_DIV_CTL.GO makes the Tailwater engine run the diverse recomputation job next. -/
  | diverseJobGo (src : BitVec 16)
  /-- R287: A frame start packet opens a frame, stamped, accepted into a set or dropped. -/
  | csi2FrameStart (c : Fin 24) (vc : BitVec 4) (fnum : BitVec 16) (ecc : EccKind)
  /-- R282: A long packet lands as the next raw row, or as a bad row. -/
  | csi2RowReceive (c : Fin 24) (pkt : CsiPacket)
  /-- R282: A frame end packet ends the frame and readies its last stripe. -/
  | csi2FrameEnd (c : Fin 24) (vc : BitVec 4) (ecc : EccKind)
  /-- R282: No packet for 100 ms inside a frame ends it TRUNC with TIMEOUT. -/
  | frameTimeout (c : Fin 24)
  /-- R282: Loss of A-PHY lock ends the open frame and appends ING-LINK-DOWN. -/
  | aphyLockLoss (c : Fin 24)
  /-- R290: A pixel pipe finishes a ready stripe and signals RGATE once its rows are performed. -/
  | pipeStripeDone (p : Fin 4)
  /-- R290: End of frame: tiles, frame record, FGATE signal and WR advance, with frozen-frame checks. -/
  | frameDeliver (c : Fin 24)
  /-- R507: A power-over-coax short is detected, power switched off and ING-POC-FAULT appended. -/
  | pocShort (c : Fin 24)
  /-- R507: Current below 10 mA for 20 ms sets POCST open. -/
  | pocOpen (c : Fin 24)
  /-- R288: EN written 1 checks the channel configuration and enables it or appends ING-CFG-REFUSED. -/
  | intakeChannelEnable (src : BitVec 16) (c : Fin 24)
  /-- R295: EN written 0 drains the channel after its frame in progress. -/
  | intakeChannelDrain (src : BitVec 16) (c : Fin 24)
  /-- R295: ABORT discards the frame in progress and disables the channel. -/
  | intakeChannelAbort (src : BitVec 16) (c : Fin 24)
  /-- R293: ING_STEER.GO starts a copy of steering boxes into the pending table. -/
  | steerGo (src : BitVec 16) (c : Fin 24) (v : Word)
  /-- R293: The steering copy ends and BUSY clears. -/
  | steerCopyDone (c : Fin 24)
  /-- R296: ING_FB_CMD push copies a batch descriptor into a FREE slot or refuses it. -/
  | forebayPush (src : BitVec 16) (v : Word)
  /-- R305: ING_FB_CMD release makes a TAKEN slot FREE. -/
  | forebayRelease (src : BitVec 16) (v : Word)
  /-- R305: A read of ING_FB_TAKE takes the oldest batch if READY. -/
  | forebayTake (src : BitVec 16)
  /-- R301: A sample ends with its status; the last makes the batch READY, signals BGATE and appends the event. -/
  | forebaySampleDone (slot : Fin 32) (i : Fin 256) (ns : Nat)
  /-- R303: A sample reaching its time budget is aborted LATE. -/
  | forebaySampleLate (slot : Fin 32) (i : Fin 256) (ns : Nat)
  /-- R303: The batch DEADLINE is reached; unfinished samples end LATE and the batch becomes READY. -/
  | forebayDeadline (slot : Fin 32)
  /-- R488: ING_FB_CTL.EN written 1 enables the Forebay. -/
  | forebayEnable (src : BitVec 16)
  /-- R306: EN written 0 refuses pushes and completes FILLING batches. -/
  | forebayDrain (src : BitVec 16)
  /-- R306: ABORT ends every FILLING batch and frees its slot. -/
  | forebayAbort (src : BitVec 16)
  /-- R315: A write of SLV_DOOR queues a problem offset or is refused. -/
  | solverDoorbell (src : BitVec 16) (l : Fin 64) (v : Word)
  /-- R327: Cholesky factorisation primitive. -/
  | primChol (l : Fin 64) (bad : Bool)
  /-- R327: LDLᵀ factorisation primitive. -/
  | primLdlt (l : Fin 64) (bad : Bool)
  /-- R327: Block-tridiagonal LDLᵀ primitive. -/
  | primBtri (l : Fin 64) (bad : Bool)
  /-- R326: Triangular solve primitive. -/
  | primTrsv (l : Fin 64) (bad : Bool)
  /-- R326: Solve with a BTRI factor. -/
  | primBtsol (l : Fin 64) (bad : Bool)
  /-- R326: Schur update primitive. -/
  | primSchur (l : Fin 64) (bad : Bool)
  /-- R326: Matrix multiply primitive. -/
  | primGemm (l : Fin 64) (bad : Bool)
  /-- R326: Scaled vector update primitive. -/
  | primAxpby (l : Fin 64) (bad : Bool)
  /-- R326: Elementwise operation primitive selected by SUB. -/
  | primElem (l : Fin 64) (bad : Bool)
  /-- R326: Fused dot-product chain primitive. -/
  | primDot (l : Fin 64) (bad : Bool)
  /-- R326: Infinity-norm primitive. -/
  | primNrmi (l : Fin 64) (bad : Bool)
  /-- R326: Step-ratio primitive. -/
  | primRatio (l : Fin 64) (bad : Bool)
  /-- R324: The problem's deadline is reached and the problem is preempted with code DEADLINE. -/
  | solverDeadline (l : Fin 64)
  /-- R324: CLAUSES reaches CBUDGET and the problem is preempted with BYCOUNT. -/
  | solverBudgetReached (l : Fin 64)
  /-- R488: SLV_LANE_CTL.EN written 1 enables a lane or gang. -/
  | solverLaneEnable (src : BitVec 16) (l : Fin 64)
  /-- R330: EN cleared: queued problems cancelled, the running one cancelled at its next keep. -/
  | solverLaneDrain (src : BitVec 16) (l : Fin 64)
  /-- R330: ABORT ends running and queued problems ABORTED. -/
  | solverLaneAbort (src : BitVec 16) (l : Fin 64)
  /-- R330: 100 µs after DRAINING began the running problem ends CANCELLED. -/
  | solverDrainTimeout (l : Fin 64)
  /-- R337: The Timebase reaches a loop instant and the engine releases it. -/
  | servoInstantRelease (n : Fin 192)
  /-- R340: 1 µs after an instant the loop selects its inputs and judges freshness. -/
  | servoInputSelect (n : Fin 192)
  /-- R334: A loop evaluation runs its stages, integrator and limits and writes its output. -/
  | servoEvaluate (n : Fin 192) (bad : Bool)
  /-- R343: A loop waiting in strict mode for a KIND 4 input evaluates once the input is fresh. -/
  | servoStrictInputFresh (n : Fin 192)
  /-- R345: EN written 1 checks the slot configuration and enables the loop or appends SRV-CFG-REFUSED. -/
  | servoLoopEnable (src : BitVec 16) (n : Fin 192)
  /-- R346: EN written 0: the loop takes no further instant. -/
  | servoLoopDrain (src : BitVec 16) (n : Fin 192)
  /-- R346: ABORT discards the pending evaluation. -/
  | servoLoopAbort (src : BitVec 16) (n : Fin 192)
  /-- R347: Writing COEF2 makes the stage's three coefficient words take effect together. -/
  | servoCoefCommit (src : BitVec 16) (n : Fin 192) (st : Fin 8) (v : Word)
  /-- R340: An SPI port runs its periodic transaction and latches the sample with its stamp. -/
  | spiTransaction (p : Fin 4) (data : List Byte)
  /-- R348: SRV_INJ_CTL.GO starts a test-signal injection. -/
  | injectGo (src : BitVec 16) (v : Word)
  /-- R348: SRV_INJ_CTL.STOP ends the injection after the current evaluation. -/
  | injectStop (src : BitVec 16)
  /-- R349: SRV_CAP_CTL.GO starts or arms a response capture. -/
  | captureGo (src : BitVec 16) (v : Word)
  /-- R349: SRV_CAP_CTL.STOP ends the capture after the current sample. -/
  | captureStop (src : BitVec 16)
  /-- R349: All samples are performed, T0 set and SRV-CAP-DONE appended. -/
  | captureDone
  /-- R351: A write of TB_INC sets the increment or is ignored and refused. -/
  | tbIncWrite (src : BitVec 16) (v : Word)
  /-- R350: TB_ADJ.GO requests a signed adjustment of the Timebase. -/
  | tbAdjust (src : BitVec 16) (v : Word)
  /-- R351: TB_LOADSEC.GO requests a load of the Timebase. -/
  | tbLoad (src : BitVec 16) (v : Word)
  /-- R352: At the tick of effect pending loads and adjustments are applied and TB-STEP appended. -/
  | tbStep
  /-- R355: Reading TB_NOW0 returns NS and the compact stamp and latches SEC for the reader. -/
  | tbNowRead (src : BitVec 16)
  /-- R359: A received frame is filtered, classified to a servo slot or queue and its descriptor written. -/
  | ethFrameReceive (p : Fin 4) (f : EthFrame) (ago : Nat)
  /-- R363: Writing a transmit queue TAIL posts frames. -/
  | ethTxqPost (src : BitVec 16) (p : Fin 4) (q : Fin 4) (v : Word)
  /-- R362: A pending launch time is reached and its frame becomes ready. -/
  | ethLaunchTimeReached (p : Fin 4) (t : EthTxSrc)
  /-- R362: The port starts the highest-priority ready frame. -/
  | ethFrameTransmit (p : Fin 4)
  /-- R363: A frame ends; CODE and stamp are written and a timestamp queue entry added. -/
  | ethTxComplete (p : Fin 4)
  /-- R365: Reading ETH_TXTS returns and removes the oldest transmit timestamp. -/
  | ethTxtsPop (src : BitVec 16) (p : Fin 4)
  /-- R367: The link goes down and ETH-LINK-DOWN is appended. -/
  | ethLinkDown (p : Fin 4)
  /-- R367: The link comes up and ETH-LINK-UP is appended. -/
  | ethLinkUp (p : Fin 4) (polrev : Bool)
  /-- R488: ETH_CTL.EN written 1 enables the port. -/
  | ethEnable (src : BitVec 16) (p : Fin 4)
  /-- R368: EN cleared: the frame on the wire completes and waiting frames end ABORTED. -/
  | ethDrain (src : BitVec 16) (p : Fin 4)
  /-- R368: ABORT cuts the frame on the wire and aborts all queued frames. -/
  | ethAbort (src : BitVec 16) (p : Fin 4)
  /-- R374: A valid frame is matched to an RX mailbox, latched for the Servo Engine and journalled. -/
  | canFrameReceive (c : Fin 8) (f : CanFrame) (ago : Nat)
  /-- R376: QUEUE copies the TX template into the launch buffer, replaces or holds a request, or is refused. -/
  | canMbxQueue (src : BitVec 16) (c : Fin 8) (n : Fin 128)
  /-- R381: CANCEL ends a pending buffer not on the wire and discards a held request. -/
  | canMbxCancel (src : BitVec 16) (c : Fin 8) (n : Fin 128)
  /-- R374: LOCK written 0 moves a held shadow frame into the mailbox. -/
  | canMbxUnlock (src : BitVec 16) (c : Fin 8) (n : Fin 128)
  /-- R377: A launch time is reached and the buffer becomes ready. -/
  | canLaunchTimeReached (c : Fin 8) (n : Fin 128)
  /-- R378: The controller offers the winning ready buffer and its SOF starts. -/
  | canFrameStart (c : Fin 8)
  /-- R383: A frame ends SENT or SENT_LATE with its stamp, CNT advanced and any held request entered. -/
  | canFrameEnd (c : Fin 8)
  /-- R380: A frame loses arbitration or meets an error and is retried or ends ONESHOT_FAILED. -/
  | canFrameError (c : Fin 8) (why : CanErr)
  /-- R380: EXP µs pass without a successful start and the frame ends EXPIRED. -/
  | canFrameExpire (c : Fin 8) (n : Fin 128)
  /-- R372: CB_CTL.RECOVER begins bus-off recovery. -/
  | canRecover (src : BitVec 16) (c : Fin 8)
  /-- R372: 128 occurrences of 11 recessive bits end recovery and CB-BUS-ON is appended. -/
  | canBusOn (c : Fin 8)
  /-- R384: The transceiver detects a bus fault and appends CB-BUS-FAULT. -/
  | canBusFault (c : Fin 8) (fault : BitVec 4)
  /-- R384: A dominant drive longer than 4 ms is forced recessive. -/
  | canDominantTimeout (c : Fin 8)
  /-- R384: CB_PHY.CLR leaves bus fault if the condition is gone. -/
  | canPhyClr (src : BitVec 16) (c : Fin 8) (gone : Bool)
  /-- R385: CB_PHY.MEAS requests a termination measurement. -/
  | canTermMeasure (src : BitVec 16) (c : Fin 8)
  /-- R385: The MPER period elapses and a termination measurement is requested. -/
  | canTermMeasurePeriodic (c : Fin 8)
  /-- R385: A measurement run at bus idle finishes and writes RTERM and TERM. -/
  | canTermMeasureDone (c : Fin 8) (ohms : Nat)
  /-- R386: A recessive-to-dominant edge from another node is checked for swapped lines. -/
  | canPolarityCheck (c : Fin 8) (swapped : Bool)
  /-- R383: Reading CB_TXTS returns and removes the oldest transmit timestamp. -/
  | canTxtsPop (src : BitVec 16) (c : Fin 8)
  /-- R370: CB_CTL.EN written 1 checks bit timing and enables the controller or appends CB-CFG-REFUSED. -/
  | canEnable (src : BitVec 16) (c : Fin 8)
  /-- R388: EN written 0: the frame on the wire completes, other buffers end ABORTED. -/
  | canDrain (src : BitVec 16) (c : Fin 8)
  /-- R388: ABORT drives recessive at once and ends every buffer ABORTED. -/
  | canAbort (src : BitVec 16) (c : Fin 8)
  /-- R397: A held input's 20 µs hold ends and its record is written in stamp order. -/
  | journalRecordWrite
  /-- R398: A record's last piece is performed in HBM and WR advances. -/
  | journalRecordLanded
  /-- R398: Space frees after drops and the LOST record is written. -/
  | journalLostRecord
  /-- R395: A write of JNL_MARK makes a MARK record. -/
  | journalMark (src : BitVec 16) (v : Word)
  /-- R395: JNL_CTL.EN written 1 starts recording or replay. -/
  | journalEnable (src : BitVec 16) (v : Word)
  /-- R399: EN cleared: held inputs are written, then a SEAL record. -/
  | journalDrain (src : BitVec 16)
  /-- R399: ABORT writes a SEAL at once, dropping held inputs. -/
  | journalAbort (src : BitVec 16)
  /-- R401: A write of JNL_FEED.LEN starts a copy from the feed area into the ring. -/
  | journalFeed (src : BitVec 16) (v : Word)
  /-- R401: The feed copy is performed; WR and FOFF advance and BUSY clears. -/
  | journalFeedDone
  /-- R402: At STAMP + DELTA the next replay record's input is presented through its unit. -/
  | replayPresentRecord (rows : List Byte)
  /-- R394: A write that changes DET_CTL.STRICT starts reaching each island. -/
  | strictWrite (src : BitVec 16) (v : Word)
  /-- R394: Every island has applied the new strict value and STRICTNOW updates. -/
  | strictnowApplied
  /-- R390: DET_KEY is recomputed after an input changes and a KEY record written if it changed. -/
  | detKeyRecompute
  /-- R404: An epoch's digest is sent on D1 once its frames are final or its time limit comes. -/
  | lockstepDigestSend
  /-- R405: The partner's digest arrives and is compared, appending DET-LS-MISMATCH on difference. -/
  | lockstepDigestReceive (k : Nat) (digest : List Byte)
  /-- R405: No digest by 2 × EPER after the epoch end appends DET-LS-MISSING. -/
  | lockstepDigestMissing (k : Nat)
  /-- R412: No dpet within FWWD gives a detection of class 1. -/
  | fwWatchdogExpire
  /-- R409: The Ditch Rider comparator finds a mismatch, a detection of class 0. -/
  | drdLockstepMismatch
  /-- R413: A detection reaches the Ditch Rider and takes its counted reaction. -/
  | detection (k : Fin 26) (sid : BitVec 16)
  /-- R432: A Ditch Rider write of DRD_ISO isolates the named unit. -/
  | drdIsoWrite (src : BitVec 16) (v : Word)
  /-- R413: Every LEAK ms a class's COUNT loses 1. -/
  | detectionLeak (k : Fin 26)
  /-- R420: A check-in reaches island 32 and is judged against the watchdog window. -/
  | watchdogCheckin (w : Fin 64) (sid : BitVec 16)
  /-- R419: No check-in by t + MAX is a class 2 detection. -/
  | watchdogMiss (w : Fin 64)
  /-- R431: DRD_SAFE.FORCE enters safe state as a class 24 detection. -/
  | safeForce (src : BitVec 16)
  /-- R431: DRD_CTL.ARM starts the firmware watchdog and permits SAFE_OK. -/
  | drdArm (src : BitVec 16)
  /-- R431: SAFE_HB toggles every 100 µs while SAFE_OK is active. -/
  | safeHeartbeat
  /-- R505: A safe line reads back differently for 1 µs, a class 22 detection. -/
  | safeLineReadbackFault (line : SafeLine)
  /-- R425: At each cold and warm start the checkers are fed injected faults and DRD_INJ written. -/
  | startupInjection (rows : BitVec 10)
  /-- R427: A write of DRD_ST_IDLE declares or revokes a target's idle window. -/
  | selftestIdleDeclare (src : BitVec 16) (v : Word)
  /-- R427: A self-test slice starts inside an idle window of its target. -/
  | selftestSliceStart (sid : BitVec 16)
  /-- R426: A slice completes; a failure is a class 14 detection. -/
  | selftestSliceDone (sid : BitVec 16) (ok : Bool)
  /-- R427: A slice in progress at a window boundary or on new work is aborted. -/
  | selftestSliceAbort (sid : BitVec 16)
  /-- R427: No pass within STDL appends SELFTEST-STARVED. -/
  | selftestStarved (sid : BitVec 16)
  /-- R428: At a window's latest start without PASS the Ditch Rider sets URGENT. -/
  | goldenUrgent
  /-- R428: A golden window ending without PASS is a class 17 detection. -/
  | goldenWindowEnd
  /-- R435: The scrub engine finishes copying a faulty bank into HBM and fallback becomes active. -/
  | bankFallbackCopyDone
  /-- R442: Every LEAK ms a bucket's LEVEL and bank UE counts lose 1. -/
  | eccBucketLeak (b : BucketId)
  /-- R449: GO starts a Cistern or HBM scrub pass or refuses it. -/
  | scrubGo (src : BitVec 16) (h : ScrubId)
  /-- R452: GO with RESUME continues an aborted pass from PROG. -/
  | scrubResume (src : BitVec 16) (h : ScrubId)
  /-- R452: ABORT stops the pass at a code-word boundary. -/
  | scrubAbort (src : BitVec 16) (h : ScrubId)
  /-- R450: The pass reads, corrects and writes back one code word. -/
  | scrubCodeWord (h : ScrubId)
  /-- R456: A host write through window B to a physical address. -/
  | hostWindowBWrite (f : Fin 4) (off : BitVec 40) (data : List Byte) (ep : Bool)
  /-- R448: A host read through window B, completed with EP on poison. -/
  | hostWindowBRead (f : Fin 4) (off : BitVec 40) (len : Nat)
  /-- R455: A host 4- or 8-byte access through window A to the control space. -/
  | hostWindowAAccess (f : Fin 4) (off : BitVec 40) (size : Nat) (wr : Option Word)
  /-- R458: A doorbell sets a ring's TAIL after prior window B writes and signals its gate, or is refused. -/
  | hostDoorbell (f : Fin 4) (r : Fin 64) (v : BitVec 16)
  /-- R459: A write of HST_IRQ sends an MSI-X vector or sets its pending bit. -/
  | hostIrq (src : BitVec 16) (v : Word)
  /-- R460: A Function Level Reset disables the function's rings and window B and appends HST-FLR. -/
  | hostFlr (f : Fin 4)
  /-- R453: PERST#, Hot Reset or host link loss causes a warm reset. -/
  | pcieConventionalReset (k : PcieReset)
  /-- R464: Power-good rises and the boot ROM boots the module to READY. -/
  | powerGood (b : BootInput)
  /-- R502: While the cold plate is out of range the boot ROM rereads TCP every 100 ms. -/
  | tcpRecheck (tcp : Int) (b : BootInput)
  /-- R466: SEC_ATT.GO starts an attestation report. -/
  | attestGo (src : BitVec 16) (v : Word)
  /-- R467: The signed report is complete; DONE set and GATE signalled. -/
  | attestDone
  /-- R463: A write of SEC_EXTEND word 3 extends SEC_MEAS[7]. -/
  | measurementExtend (src : BitVec 16) (v : Word)
  /-- R462: SEC_BOOT.SVNLOCK raises the OTP SVN to the running image's SVN. -/
  | svnLock (src : BitVec 16)
  /-- R468: Writing SEC_AES_RING TAIL posts decryption jobs. -/
  | aesRingPost (src : BitVec 16) (v : Word)
  /-- R469: A decryption job ends DONE or AUTHFAIL after its tag comparison: the job of ring index `idx`, DONE if `ok`. -/
  | aesJobComplete (idx : Fin 16) (ok : Bool)
  /-- R488: SEC_AES_RING.ABORT discards the running job and disables the unit. -/
  | aesAbort (src : BitVec 16)
  /-- R470: A write of SEC_KEY loads a 256-bit key slot. -/
  | aesKeyWrite (src : BitVec 16) (k : Fin 8) (w : BitVec 2) (v : Word)
  /-- R471: SEC_FWC_CTL.GO starts a firmware commit to the other slot. -/
  | fwCommitGo (src : BitVec 16)
  /-- R471: The commit ends with its CODE and SEC-FWC-DONE. -/
  | fwCommitDone (verified : Bool) (readback : Bool)
  /-- R472: ABORT stops the commit at a flash operation boundary. -/
  | fwCommitAbort (src : BitVec 16)
  /-- R475: A 128-byte line of entries is performed in HBM and leaves staging. -/
  | changeLogLinePerformed
  /-- R486: WTM_RST.WARM quiesces the module and reboots it. -/
  | warmReset (src : BitVec 16)
  /-- R484: WTM_RST.COLD resets everything. -/
  | coldReset (src : BitVec 16)
  /-- R485: WTM_RST.ISL resets one island or is refused. -/
  | islandReset (src : BitVec 16) (isl : BitVec 6)
  /-- R485: An island leaves reset and WTM-ISL-RESET is appended. -/
  | islandResetExit (isl : Fin 36)
  /-- R484: WTM_RST.ENG resets one engine's architectural state. -/
  | engineReset (src : BitVec 16) (e : Fin 256)
  /-- R484: RST_N asserted causes a warm reset. -/
  | resetPin
  /-- R501: PG falls and the module takes a cold reset. -/
  | powerLoss
  /-- R508: Reversed input blocks power and drives REV_N low. -/
  | vinReversed (on : Bool)
  /-- R18: An entry arriving at a gated island asks the Watermaster to restore its clock. -/
  | islandClockRestore (isl : Fin 36)
  /-- R478: Every 10 µs the Watermaster re-evaluates each island's clock step. -/
  | wtmReevaluate (isl : Fin 36) (mw : Nat) (mwUp : Nat)
  /-- R479: An adjustable island moves one clock and voltage step. -/
  | islandClockStep (isl : Fin 36) (up : Bool)
  /-- R482: Borrowers are lowered, the allowance returned and the lender raised. -/
  | powerRecallComplete (isl : Fin 36)
  /-- R480: Package power above CAP lowers borrowers and appends WTM-CAP. -/
  | powerCapExcursion (mw : Nat) (isls : List Nat)
  /-- R499: Input power above 320 W lowers islands and appends WTM-INPUT. -/
  | inputPowerExcursion (mw : Nat) (isls : List Nat)
  /-- R483: A junction above THR lowers the die's islands stepwise and appends WTM-THROTTLE. -/
  | thermalThrottle (die : DieSensor) (tj : Int)
  /-- R502: The cold plate leaves its range and WTM-PLATE-RANGE is appended. -/
  | plateRangeExcursion (tcp : Int)
  /-- R500: An open sense line sets SENSEF. -/
  | senseOpen
  /-- R506: A selected edge on a GPIO pin appends WTM-GPIO. -/
  | gpioEdge (pin : Fin 16) (level : Bool)
  /-- R514: A write of DBG_MARK appends DBG-MARK. -/
  | debugMark (src : BitVec 16) (v : Word)
  /-- R512: A write to a register that has no row of its own, performed in arrival order. -/
  | registerWrite (src : BitVec 16) (addr : BitVec 40) (size : Nat) (v : Word)
  /-- R350: At every tick of the 400 MHz timebase clock the Timebase adds TB_INC to its total. -/
  | timebaseTick
  /-- R164: An HBM pseudo-channel grants a presented request from its presentation slots, or gives an idle cycle to the scrub engine. -/
  | hbmPseudoChannelGrant (st : Fin 2) (pc : Fin 64) (arr : List (BitVec 2))
  /-- R161: A Basin sub-bank serves one 64-byte access per cluster clock, owner first, then the oldest sibling, with the 32-clock priority rule. -/
  | basinSubbankGrant (e : Fin 256) (o : Fin 1572864) (owner : Bool) (sibs : List (BitVec 4))
  /-- R316: A lane that has waited 2 µs in snext has its clock gated; when all 32 lanes of an island wait, the island lends its allowance. -/
  | laneClockGate (l : Fin 64)
  /-- R280: An A-PHY receiver gains lock on its camera link and sets ING_CH_LINK.LOCK and GEARNOW. -/
  | aphyLock (c : Fin 24) (gear : BitVec 2)
  /-- R503: RST_N or PERST_N going high ends the held warm reset, the boot runs, and the endpoint becomes ready 100 ms after PERST_N. -/
  | warmResetRelease (pin : ResetPin) (b : BootInput)
  /-- R457: A host configuration request sets endpoint state such as Bus Master Enable and MSI-X Enable. -/
  | pcieConfigurationRequest (f : Fin 4) (bme : Bool) (msixEn : Bool)
  /-- R459: A host write to a function's MSI-X table through window C unmasks a vector and sends its pending message. -/
  | msixTableWrite (f : Fin 4) (vec : BitVec 8) (masked : Bool) (addr : Word) (data : BitVec 32)
  /-- R10: A read of a register with RC fields returns them and then clears them; for CLG_STAT.LOST it re-arms CLG-LOST. -/
  | registerReadClear (src : BitVec 16) (addr : BitVec 40) (size : Nat)
  /-- R506: A push-pull GPIO that reads back different from OUT for 10 µs, or holds its current limit, sets the sticky FLT bit. -/
  | gpioFlt (pin : Fin 16) (limit : Bool)
deriving DecidableEq, Repr

end Sys2Proof
end

