-- ==== Sys2Proof/Machine/Tab.lean ====
section
/-! DEFINITION. Sparse tables: a rising list of key and value pairs in which no entry equals what an
unlisted key reads as, so that equal tables are equal lists. -/

namespace Sys2Proof.Machine

/-- A sparse table with natural-number keys. -/
abbrev Tab (α : Type) := List (Nat × α)

/-- The value at key `k`; an unlisted key reads as `d k`. -/
def tget (d : Nat → α) : Tab α → Nat → α
  | [], k => d k
  | (j, v) :: r, k => if j = k then v else tget d r k

/-- Writes `v` at key `k`, keeping the keys rising; writing what an unlisted key reads as removes the
entry. -/
def tput [DecidableEq α] (d : Nat → α) : Tab α → Nat → α → Tab α
  | [], k, v => if v = d k then [] else [(k, v)]
  | (j, w) :: r, k, v =>
    if j = k then (if v = d k then tput d r k v else (k, v) :: r)
    else if j < k ∨ v = d k then (j, w) :: tput d r k v
    else (k, v) :: (j, w) :: r

/-- Removes every entry with a key from `lo` to `hi`. -/
def tclear (lo hi : Nat) (t : Tab α) : Tab α :=
  t.filter fun e => decide (e.1 < lo) || decide (hi < e.1)

/-- Keys strictly rising and above `lo`, and no entry equal to the default: the canonical form. -/
def twfFrom [DecidableEq α] (d : Nat → α) : Nat → Tab α → Bool
  | _, [] => true
  | lo, (k, v) :: r => decide (lo ≤ k) && decide (v ≠ d k) && twfFrom d (k + 1) r

/-- The canonical form of a sparse table. -/
def twf [DecidableEq α] (d : Nat → α) (t : Tab α) : Bool := twfFrom d 0 t

/-- Inserts a key into a strictly rising list of keys. -/
def sinsert : List Nat → Nat → List Nat
  | [], k => [k]
  | j :: r, k => if j < k then j :: sinsert r k else if j = k then j :: r else k :: j :: r

/-- Removes a key from a list of keys. -/
def serase (l : List Nat) (k : Nat) : List Nat := l.filter fun j => decide (j ≠ k)

/-- The list is strictly rising from `lo`. -/
def sortedFrom : Nat → List Nat → Bool
  | _, [] => true
  | lo, k :: r => decide (lo ≤ k) && sortedFrom (k + 1) r

/-- Updates the element at an index of a list; an index beyond the end changes nothing. -/
def lmod (f : α → α) : List α → Nat → List α
  | [], _ => []
  | a :: r, 0 => f a :: r
  | a :: r, n + 1 => a :: lmod f r n

/-- The numbers `lo`, `lo + 1`, …, `n` of them. -/
def upFrom (lo : Nat) : Nat → List Nat
  | 0 => []
  | n + 1 => lo :: upFrom (lo + 1) n

/-- Applies a state transformer for every element of a list, first element first. -/
def forL (l : List α) (f : α → σ → σ) (s : σ) : σ := l.foldl (fun s a => f a s) s

end Sys2Proof.Machine
end

