-- ==== Sys2Proof/Machine/Encoder.lean ====
section
/-! DEFINITION. Instruction words: class, stop bit and encoding of the commands that are instructions (R51, R71,
R310, R410). The word is what EDETAIL holds of an ILLEGAL or STRICT fault (R63). -/

namespace Sys2Proof.Machine

/-- The instruction classes (R51). -/
inductive Cls where
  | s | v | m | x
deriving DecidableEq, Repr

/-- Bits [30:29] of an instruction word. -/
def Cls.bits : Cls → Nat
  | .s => 0
  | .v => 1
  | .m => 2
  | .x => 3

/-- An instruction as a clause holds it: its core, its class, bits [28:0] of its word, its stop bit. -/
structure InstrInfo where
  core : Core
  cls  : Cls
  body : Nat
  stop : Bool
deriving DecidableEq, Repr

/-- The 32-bit instruction word (R51). -/
def InstrInfo.word (i : InstrInfo) : Nat := i.body + i.cls.bits * 2 ^ 29 + if i.stop then 2 ^ 31 else 0

/-! ## The operand layouts of R71 -/

def sr3 (op : Nat) (a b c : BitVec 5) : Nat := op * 2 ^ 23 + a.toNat * 2 ^ 18 + b.toNat * 2 ^ 13 + c.toNat * 2 ^ 8

def sri (op : Nat) (a b : BitVec 5) (imm : BitVec 13) : Nat :=
  op * 2 ^ 23 + a.toNat * 2 ^ 18 + b.toNat * 2 ^ 13 + imm.toNat

def sli (op : Nat) (a : BitVec 5) (imm : BitVec 18) : Nat := op * 2 ^ 23 + a.toNat * 2 ^ 18 + imm.toNat

def ssr (op : Nat) (a : BitVec 5) (n : BitVec 12) : Nat := op * 2 ^ 23 + a.toNat * 2 ^ 18 + n.toNat * 2 ^ 6

def vr3 (op : Nat) (d a b : BitVec 5) (pg : BitVec 3) (et : BitVec 5) : Nat :=
  sr3 op d a b + pg.toNat * 2 ^ 5 + et.toNat

def vr4 (op : Nat) (d a b c : BitVec 5) (pg : BitVec 3) : Nat := sr3 op d a b + c.toNat * 2 ^ 3 + pg.toNat

def vmw (op : Nat) (d a : BitVec 5) (pg : BitVec 3) (off : BitVec 10) : Nat :=
  op * 2 ^ 23 + d.toNat * 2 ^ 18 + a.toNat * 2 ^ 13 + pg.toNat * 2 ^ 10 + off.toNat

def pmv (g : BitVec 5) (p : BitVec 3) (dir : Nat) : Nat := 0x1D * 2 ^ 23 + g.toNat * 2 ^ 18 + p.toNat * 2 ^ 15 + dir

def mvw (vop vm : Nat) (gt : BitVec 5) (nd na nb : BitVec 6) : Nat :=
  vop * 2 ^ 25 + vm * 2 ^ 23 + gt.toNat * 2 ^ 18 + nd.toNat * 2 ^ 12 + na.toNat * 2 ^ 6 + nb.toNat

def arw (vm : Nat) (v : BitVec 5) (acc : BitVec 3) (gr : BitVec 5) (t : Bool) : Nat :=
  0xD * 2 ^ 25 + vm * 2 ^ 23 + v.toNat * 2 ^ 18 + acc.toNat * 2 ^ 15 + gr.toNat * 2 ^ 10 + if t then 1 else 0

def wvw (gd gk : BitVec 5) : Nat := 0xE * 2 ^ 25 + gd.toNat * 2 ^ 18 + gk.toNat * 2 ^ 13

def xnw (op : Nat) (gr : BitVec 5) (nd na : BitVec 6) (w : BitVec 3) : Nat :=
  op * 2 ^ 23 + gr.toNat * 2 ^ 18 + nd.toNat * 2 ^ 12 + na.toNat * 2 ^ 6 + w.toNat

/-- The instruction that a command delivers to a core, if it delivers one. -/
def instrInfo : Instr → Option InstrInfo
  | .add c rd ra rb stop => some ⟨c, .s, sr3 0x00 rd ra rb, stop⟩
  | .sub c rd ra rb stop => some ⟨c, .s, sr3 0x01 rd ra rb, stop⟩
  | .and c rd ra rb stop => some ⟨c, .s, sr3 0x02 rd ra rb, stop⟩
  | .or c rd ra rb stop => some ⟨c, .s, sr3 0x03 rd ra rb, stop⟩
  | .xor c rd ra rb stop => some ⟨c, .s, sr3 0x04 rd ra rb, stop⟩
  | .shl c rd ra rb stop => some ⟨c, .s, sr3 0x05 rd ra rb, stop⟩
  | .shr c rd ra rb stop => some ⟨c, .s, sr3 0x06 rd ra rb, stop⟩
  | .sra c rd ra rb stop => some ⟨c, .s, sr3 0x07 rd ra rb, stop⟩
  | .mul c rd ra rb stop => some ⟨c, .s, sr3 0x08 rd ra rb, stop⟩
  | .mulh c rd ra rb stop => some ⟨c, .s, sr3 0x09 rd ra rb, stop⟩
  | .slt c rd ra rb stop => some ⟨c, .s, sr3 0x0a rd ra rb, stop⟩
  | .sltu c rd ra rb stop => some ⟨c, .s, sr3 0x0b rd ra rb, stop⟩
  | .seq c rd ra rb stop => some ⟨c, .s, sr3 0x0c rd ra rb, stop⟩
  | .addi c rd ra imm stop => some ⟨c, .s, sri 0x10 rd ra imm, stop⟩
  | .subi c rd ra imm stop => some ⟨c, .s, sri 0x11 rd ra imm, stop⟩
  | .andi c rd ra imm stop => some ⟨c, .s, sri 0x12 rd ra imm, stop⟩
  | .ori c rd ra imm stop => some ⟨c, .s, sri 0x13 rd ra imm, stop⟩
  | .xori c rd ra imm stop => some ⟨c, .s, sri 0x14 rd ra imm, stop⟩
  | .shli c rd ra imm stop => some ⟨c, .s, sri 0x15 rd ra imm, stop⟩
  | .shri c rd ra imm stop => some ⟨c, .s, sri 0x16 rd ra imm, stop⟩
  | .srai c rd ra imm stop => some ⟨c, .s, sri 0x17 rd ra imm, stop⟩
  | .slti c rd ra imm stop => some ⟨c, .s, sri 0x18 rd ra imm, stop⟩
  | .ld c rd ra imm stop => some ⟨c, .s, sri 0x1a rd ra imm, stop⟩
  | .lw c rd ra imm stop => some ⟨c, .s, sri 0x1b rd ra imm, stop⟩
  | .st c rs ra imm stop => some ⟨c, .s, sri 0x1c rs ra imm, stop⟩
  | .sw c rs ra imm stop => some ⟨c, .s, sri 0x1d rs ra imm, stop⟩
  | .li c rd imm stop => some ⟨c, .s, sli 0x20 rd imm, stop⟩
  | .lsh c rd imm stop => some ⟨c, .s, sli 0x21 rd imm, stop⟩
  | .beqz c ra off stop => some ⟨c, .s, sli 0x28 ra off, stop⟩
  | .bnez c ra off stop => some ⟨c, .s, sli 0x29 ra off, stop⟩
  | .bltz c ra off stop => some ⟨c, .s, sli 0x2a ra off, stop⟩
  | .bgez c ra off stop => some ⟨c, .s, sli 0x2b ra off, stop⟩
  | .jal c rd off stop => some ⟨c, .s, sli 0x2C rd off, stop⟩
  | .jr c ra stop => some ⟨c, .s, sli 0x2D ra 0, stop⟩
  | .srd c rd num stop => some ⟨c, .s, ssr 0x30 rd num, stop⟩
  | .swr c num ra stop => some ⟨c, .s, ssr 0x31 ra num, stop⟩
  | .vctlAbort c ra stop => some ⟨c, .s, ssr 0x31 ra 0x025, stop⟩
  | .disp c ra stop => some ⟨c, .s, ssr 0x38 ra 0, stop⟩
  | .tend c ra stop => some ⟨c, .s, ssr 0x39 ra 0, stop⟩
  | .yield c stop => some ⟨c, .s, ssr 0x3A 0 0, stop⟩
  | .stage c ra stop => some ⟨c, .s, ssr 0x3B ra 0, stop⟩
  | .snext l gd stop => some ⟨.lane l, .s, sr3 0x3E gd 0 0, stop⟩
  | .prim l gd ga stop => some ⟨.lane l, .s, sr3 0x3C gd ga 0, stop⟩
  | .keep l ga stop => some ⟨.lane l, .s, sr3 0x3D 0 ga 0, stop⟩
  | .sdone l ga gb stop => some ⟨.lane l, .s, sr3 0x3F 0 ga gb, stop⟩
  | .dnext gd stop => some ⟨.drd, .s, sr3 0x3C gd 0 0, stop⟩
  | .dverd ga gb stop => some ⟨.drd, .s, sr3 0x3D 0 ga gb, stop⟩
  | .dflag ga gb stop => some ⟨.drd, .s, sr3 0x3E 0 ga gb, stop⟩
  | .dpet stop => some ⟨.drd, .s, sr3 0x3F 0 0 0, stop⟩
  | .vadd c vd va vb et pg _ stop => some ⟨c, .v, vr3 0x00 vd va vb pg et, stop⟩
  | .vsub c vd va vb et pg _ stop => some ⟨c, .v, vr3 0x01 vd va vb pg et, stop⟩
  | .vmul c vd va vb et pg _ stop => some ⟨c, .v, vr3 0x02 vd va vb pg et, stop⟩
  | .vmin c vd va vb et pg stop => some ⟨c, .v, vr3 0x03 vd va vb pg et, stop⟩
  | .vmax c vd va vb et pg stop => some ⟨c, .v, vr3 0x04 vd va vb pg et, stop⟩
  | .vdiv c vd va vb et pg stop => some ⟨c, .v, vr3 0x05 vd va vb pg et, stop⟩
  | .vsqrt c vd va et pg stop => some ⟨c, .v, vr3 0x06 vd va 0 pg et, stop⟩
  | .vfmaF32 c vd va vb vc pg _ stop => some ⟨c, .v, vr4 0x08 vd va vb vc pg, stop⟩
  | .vfmaBf16 c vd va vb vc pg _ stop => some ⟨c, .v, vr4 0x09 vd va vb vc pg, stop⟩
  | .vfmaF16 c vd va vb vc pg _ stop => some ⟨c, .v, vr4 0x0a vd va vb vc pg, stop⟩
  | .vfmaF64 c vd va vb vc pg _ stop => some ⟨c, .v, vr4 0x0b vd va vb vc pg, stop⟩
  | .vand c vd va vb pg stop => some ⟨c, .v, vr3 0x10 vd va vb pg 0, stop⟩
  | .vor c vd va vb pg stop => some ⟨c, .v, vr3 0x11 vd va vb pg 0, stop⟩
  | .vxor c vd va vb pg stop => some ⟨c, .v, vr3 0x12 vd va vb pg 0, stop⟩
  | .vcmp c pd va vb cc et _ stop => some ⟨c, .v, vr3 0x14 (pd.setWidth 5) va vb cc et, stop⟩
  | .popAnd c pd pa pb stop => some ⟨c, .v, vr3 0x15 (pd.setWidth 5) (pa.setWidth 5) (pb.setWidth 5) 0 0, stop⟩
  | .popOr c pd pa pb stop => some ⟨c, .v, vr3 0x15 (pd.setWidth 5) (pa.setWidth 5) (pb.setWidth 5) 0 1, stop⟩
  | .popXor c pd pa pb stop => some ⟨c, .v, vr3 0x15 (pd.setWidth 5) (pa.setWidth 5) (pb.setWidth 5) 0 2, stop⟩
  | .popAndn c pd pa pb stop => some ⟨c, .v, vr3 0x15 (pd.setWidth 5) (pa.setWidth 5) (pb.setWidth 5) 0 3, stop⟩
  | .popNot c pd pa stop => some ⟨c, .v, vr3 0x15 (pd.setWidth 5) (pa.setWidth 5) 0 0 4, stop⟩
  | .vld c vd ga pg off stop => some ⟨c, .v, vmw 0x18 vd ga pg off, stop⟩
  | .vst c vs ga pg off stop => some ⟨c, .v, vmw 0x19 vs ga pg off, stop⟩
  | .vbcast c vd ga et stop => some ⟨c, .v, vr3 0x1A vd ga 0 0 et, stop⟩
  | .vget c gd va gi et stop => some ⟨c, .v, vr3 0x1B gd va gi 0 et, stop⟩
  | .vcvt c vd va dst src stop => some ⟨c, .v, vr3 0x1C vd va src 0 dst, stop⟩
  | .pmovTo c pd ga stop => some ⟨c, .v, pmv ga pd 0, stop⟩
  | .pmovFrom c gd pa stop => some ⟨c, .v, pmv gd pa 1, stop⟩
  | .mma c gt acc na nb stop => some ⟨c, .m, mvw 0x0 0 gt (acc.setWidth 6) na nb, stop⟩
  | .mmaSet c gt acc na nb stop => some ⟨c, .m, mvw 0x0 1 gt (acc.setWidth 6) na nb, stop⟩
  | .conv c gt nd na nb stop => some ⟨c, .m, mvw 0x1 0 gt nd na nb, stop⟩
  | .convAccumulate c gt nd na nb stop => some ⟨c, .m, mvw 0x1 1 gt nd na nb, stop⟩
  | .dwconv c gt nd na nb stop => some ⟨c, .m, mvw 0x2 0 gt nd na nb, stop⟩
  | .dwconvAccumulate c gt nd na nb stop => some ⟨c, .m, mvw 0x2 1 gt nd na nb, stop⟩
  | .attn c gt nd na nb stop => some ⟨c, .m, mvw 0x3 0 gt nd na nb, stop⟩
  | .attnRecompute c gt nd na nb stop => some ⟨c, .m, mvw 0x3 1 gt nd na nb, stop⟩
  | .smax c gt nd na nb stop => some ⟨c, .m, mvw 0x4 0 gt nd na nb, stop⟩
  | .smaxFromStats c gt nd na nb stop => some ⟨c, .m, mvw 0x4 1 gt nd na nb, stop⟩
  | .normLayer c gt nd na nb stop => some ⟨c, .m, mvw 0x5 0 gt nd na nb, stop⟩
  | .normRms c gt nd na nb stop => some ⟨c, .m, mvw 0x5 1 gt nd na nb, stop⟩
  | .crop c gt nd na nb stop => some ⟨c, .m, mvw 0x7 0 gt nd na nb, stop⟩
  | .gath c gt nd na nb stop => some ⟨c, .m, mvw 0x8 0 gt nd na nb, stop⟩
  | .scatStore c gt nd na nb stop => some ⟨c, .m, mvw 0x9 0 gt nd na nb, stop⟩
  | .scatAdd c gt nd na nb stop => some ⟨c, .m, mvw 0x9 1 gt nd na nb, stop⟩
  | .scatAtomicAdd c gt nd na nb stop => some ⟨c, .m, mvw 0x9 2 gt nd na nb, stop⟩
  | .cvt c gt nd na stop => some ⟨c, .m, mvw 0x6 0 gt nd na 0, stop⟩
  | .cvtFromAccumulator c gt nd acc stop => some ⟨c, .m, mvw 0x6 1 gt nd (acc.setWidth 6) 0, stop⟩
  | .arv c vd acc gr stop => some ⟨c, .m, arw 0 vd acc gr false, stop⟩
  | .awv c acc vs gr stop => some ⟨c, .m, arw 1 vs acc gr false, stop⟩
  | .azro c acc t stop => some ⟨c, .m, arw 2 0 acc 0 t, stop⟩
  | .waitv c gd gk stop => some ⟨c, .m, wvw gd gk, stop⟩
  | .move c nd na gr stop => some ⟨c, .x, xnw 0x00 gr nd na 0, stop⟩
  | .pref c na stop => some ⟨c, .x, xnw 0x01 0 0 na 0, stop⟩
  | .nld c nd gr stop => some ⟨c, .x, xnw 0x08 gr nd 0 0, stop⟩
  | .nst c na gr stop => some ⟨c, .x, xnw 0x09 gr 0 na 0, stop⟩
  | .nrd c gr na w stop => some ⟨c, .x, xnw 0x0A gr 0 na w, stop⟩
  | .nwr c nd w gr stop => some ⟨c, .x, xnw 0x0B gr nd 0 w, stop⟩
  | .nadd c nd na gr stop => some ⟨c, .x, xnw 0x0C gr nd na 0, stop⟩
  | .gsig c ga gb stop => some ⟨c, .x, sr3 0x10 ga gb 0, stop⟩
  | .gwait c ga gb stop => some ⟨c, .x, sr3 0x11 ga gb 0, stop⟩
  | .post c ga gb stop => some ⟨c, .x, sr3 0x13 ga gb 0, stop⟩
  | .chka c ga stop => some ⟨c, .x, sr3 0x12 ga 0 0, stop⟩
  | .fenceRel c stop => some ⟨c, .x, 0x18 * 2 ^ 23, stop⟩
  | .fenceAcq c stop => some ⟨c, .x, 0x18 * 2 ^ 23 + 1, stop⟩
  | .mmaComplete _ _ _
  | .convComplete _ _ _
  | .dwconvComplete _ _ _
  | .attnComplete _ _ _
  | .smaxComplete _ _
  | .normComplete _ _
  | .cvtComplete _ _
  | .cropComplete _ _
  | .gathScatComplete _ _
  | .checkDepartureRelease _
  | .sluiceRelease _
  | .engineClockGate _
  | .feEnable _ _
  | .feDrain _ _
  | .feAbort _ _
  | .taskPush _ _ _
  | .taskTake _ _
  | .gateWrite _ _ _
  | .checkWrite _ _ _ _
  | .gateDebugSelect _ _
  | .gateDebugCapture _
  | .moverRingPost _ _ _
  | .moverTakeDescriptor _
  | .moverDescriptorComplete _ _ _
  | .moverEnable _ _
  | .moverDrain _ _
  | .moverAbort _ _
  | .drainComplete _
  | .drainTimeout _
  | .cisternBankGrant _
  | .dvorilLinkEnable _ _
  | .dvorilLinkUp _ _
  | .dvorilTrainingTimeout _
  | .dvorilLockLoss _
  | .dvorilAbort _ _
  | .dvorilDrain _ _
  | .dvorilFrameSend _
  | .dvorilFrameReceive _ _
  | .dvorilFrameLanded _
  | .dvorilResend _
  | .dvorilSendComplete _
  | .dvorilTimeExchange _ _ _ _ _
  | .pageWalkerResume _ _
  | .pageWalkerCancel _ _
  | .pageWalkerFlush _ _
  | .edgeRingPost _ _ _
  | .edgeJobTake _
  | .edgeJobComplete _
  | .edgeEnable _ _
  | .edgeDrain _ _
  | .edgeAbort _ _
  | .diverseJobGo _
  | .csi2FrameStart _ _ _ _
  | .csi2RowReceive _ _
  | .csi2FrameEnd _ _ _
  | .frameTimeout _
  | .aphyLockLoss _
  | .pipeStripeDone _
  | .frameDeliver _
  | .pocShort _
  | .pocOpen _
  | .intakeChannelEnable _ _
  | .intakeChannelDrain _ _
  | .intakeChannelAbort _ _
  | .steerGo _ _ _
  | .steerCopyDone _
  | .forebayPush _ _
  | .forebayRelease _ _
  | .forebayTake _
  | .forebaySampleDone _ _ _
  | .forebaySampleLate _ _ _
  | .forebayDeadline _
  | .forebayEnable _
  | .forebayDrain _
  | .forebayAbort _
  | .solverDoorbell _ _ _
  | .primChol _ _
  | .primLdlt _ _
  | .primBtri _ _
  | .primTrsv _ _
  | .primBtsol _ _
  | .primSchur _ _
  | .primGemm _ _
  | .primAxpby _ _
  | .primElem _ _
  | .primDot _ _
  | .primNrmi _ _
  | .primRatio _ _
  | .solverDeadline _
  | .solverBudgetReached _
  | .solverLaneEnable _ _
  | .solverLaneDrain _ _
  | .solverLaneAbort _ _
  | .solverDrainTimeout _
  | .servoInstantRelease _
  | .servoInputSelect _
  | .servoEvaluate _ _
  | .servoStrictInputFresh _
  | .servoLoopEnable _ _
  | .servoLoopDrain _ _
  | .servoLoopAbort _ _
  | .servoCoefCommit _ _ _ _
  | .spiTransaction _ _
  | .injectGo _ _
  | .injectStop _
  | .captureGo _ _
  | .captureStop _
  | .captureDone
  | .tbIncWrite _ _
  | .tbAdjust _ _
  | .tbLoad _ _
  | .tbStep
  | .tbNowRead _
  | .ethFrameReceive _ _ _
  | .ethTxqPost _ _ _ _
  | .ethLaunchTimeReached _ _
  | .ethFrameTransmit _
  | .ethTxComplete _
  | .ethTxtsPop _ _
  | .ethLinkDown _
  | .ethLinkUp _ _
  | .ethEnable _ _
  | .ethDrain _ _
  | .ethAbort _ _
  | .canFrameReceive _ _ _
  | .canMbxQueue _ _ _
  | .canMbxCancel _ _ _
  | .canMbxUnlock _ _ _
  | .canLaunchTimeReached _ _
  | .canFrameStart _
  | .canFrameEnd _
  | .canFrameError _ _
  | .canFrameExpire _ _
  | .canRecover _ _
  | .canBusOn _
  | .canBusFault _ _
  | .canDominantTimeout _
  | .canPhyClr _ _ _
  | .canTermMeasure _ _
  | .canTermMeasurePeriodic _
  | .canTermMeasureDone _ _
  | .canPolarityCheck _ _
  | .canTxtsPop _ _
  | .canEnable _ _
  | .canDrain _ _
  | .canAbort _ _
  | .journalRecordWrite
  | .journalRecordLanded
  | .journalLostRecord
  | .journalMark _ _
  | .journalEnable _ _
  | .journalDrain _
  | .journalAbort _
  | .journalFeed _ _
  | .journalFeedDone
  | .replayPresentRecord _
  | .strictWrite _ _
  | .strictnowApplied
  | .detKeyRecompute
  | .lockstepDigestSend
  | .lockstepDigestReceive _ _
  | .lockstepDigestMissing _
  | .fwWatchdogExpire
  | .drdLockstepMismatch
  | .detection _ _
  | .drdIsoWrite _ _
  | .detectionLeak _
  | .watchdogCheckin _ _
  | .watchdogMiss _
  | .safeForce _
  | .drdArm _
  | .safeHeartbeat
  | .safeLineReadbackFault _
  | .startupInjection _
  | .selftestIdleDeclare _ _
  | .selftestSliceStart _
  | .selftestSliceDone _ _
  | .selftestSliceAbort _
  | .selftestStarved _
  | .goldenUrgent
  | .goldenWindowEnd
  | .bankFallbackCopyDone
  | .eccBucketLeak _
  | .scrubGo _ _
  | .scrubResume _ _
  | .scrubAbort _ _
  | .scrubCodeWord _
  | .hostWindowBWrite _ _ _ _
  | .hostWindowBRead _ _ _
  | .hostWindowAAccess _ _ _ _
  | .hostDoorbell _ _ _
  | .hostIrq _ _
  | .hostFlr _
  | .pcieConventionalReset _
  | .powerGood _
  | .tcpRecheck _ _
  | .attestGo _ _
  | .attestDone
  | .measurementExtend _ _
  | .svnLock _
  | .aesRingPost _ _
  | .aesJobComplete _ _
  | .aesAbort _
  | .aesKeyWrite _ _ _ _
  | .fwCommitGo _
  | .fwCommitDone _ _
  | .fwCommitAbort _
  | .changeLogLinePerformed
  | .warmReset _
  | .coldReset _
  | .islandReset _ _
  | .islandResetExit _
  | .engineReset _ _
  | .resetPin
  | .powerLoss
  | .vinReversed _
  | .islandClockRestore _
  | .wtmReevaluate _ _ _
  | .islandClockStep _ _
  | .powerRecallComplete _
  | .powerCapExcursion _ _
  | .inputPowerExcursion _ _
  | .thermalThrottle _ _
  | .plateRangeExcursion _
  | .senseOpen
  | .gpioEdge _ _
  | .debugMark _ _
  | .registerWrite _ _ _ _
  | .timebaseTick
  | .hbmPseudoChannelGrant _ _ _
  | .basinSubbankGrant _ _ _ _
  | .laneClockGate _
  | .aphyLock _ _
  | .warmResetRelease _ _
  | .pcieConfigurationRequest _ _ _
  | .msixTableWrite _ _ _ _ _
  | .registerReadClear _ _ _
  | .gpioFlt _ _ => none

/-- The first clause of a stream of instructions: up to its first stop bit (R51). -/
def firstClause : List Instr → List Instr
  | [] => []
  | i :: r => if ((instrInfo i).map InstrInfo.stop).getD true then [i] else i :: firstClause r

/-- The clause that a waiting core holds names one of these instructions. -/
def clauseHas (p : Instr → Bool) (l : List Instr) : Bool := (firstClause l).any p

end Sys2Proof.Machine
end

