-- ==== Sys2Proof/Machine/Aes.lean ====
section
/-! DEFINITION. AES-256 and its Galois/Counter Mode decryption with a 96-bit IV and no additional data, over
bytes (R468, R469; FIPS 197 and NIST SP 800-38D). -/

namespace Sys2Proof.Machine

/-! ## The field of 256 elements -/

/-- Multiplication by x. -/
def aesX2 (a : Nat) : Nat := if 128 ≤ a then ((2 * a) ^^^ 0x11B) % 256 else 2 * a

/-- Multiplication. -/
def aesMul (a b : Nat) : Nat :=
  ((upFrom 0 8).foldl (fun (p : Nat × Nat) i => (if b.testBit i then p.1 ^^^ p.2 else p.1, aesX2 p.2)) (0, a)).1

/-- The inverse, 0 for 0: the 254th power. -/
def aesInv (a : Nat) : Nat :=
  ((upFrom 0 7).foldl (fun (p : Nat × Nat) _ => let q := aesMul p.2 p.2; (aesMul p.1 q, q)) (1, a)).1

/-- Rotation of a byte to the left. -/
def rotByte (a n : Nat) : Nat := (a * 2 ^ n) % 256 + a * 2 ^ n / 256

/-- SubBytes on one byte. -/
def aesSub (a : Nat) : Nat :=
  let b := aesInv a
  b ^^^ rotByte b 1 ^^^ rotByte b 2 ^^^ rotByte b 3 ^^^ rotByte b 4 ^^^ 0x63

/-! ## The cipher -/

/-- Exclusive OR of two blocks. -/
def xorL (a b : List Nat) : List Nat := (a.zip b).map fun p => p.1 ^^^ p.2

/-- The next word of the key schedule: word i from words i - 8 and i - 1, which head the list newest first. -/
def keyWord (i rcon : Nat) (ws : List (List Nat)) : List Nat :=
  let t := ws.getD 0 []
  let t := if i % 8 = 0 then xorL ((t.drop 1 ++ t.take 1).map aesSub) [rcon, 0, 0, 0]
    else if i % 8 = 4 then t.map aesSub else t
  xorL (ws.getD 7 []) t

/-- The 60 words of the key schedule, in order. -/
def keySchedule (key : List Nat) : List (List Nat) :=
  let first := (upFrom 0 8).map fun i => (key.drop (4 * i)).take 4
  ((upFrom 8 52).foldl (fun (p : List (List Nat) × Nat) i =>
    (keyWord i p.2 p.1 :: p.1, if i % 8 = 0 then aesX2 p.2 else p.2)) (first.reverse, 1)).1.reverse

/-- ShiftRows on a block held column by column. -/
def shiftRows (b : List Nat) : List Nat :=
  (upFrom 0 16).map fun i => b.getD (i % 4 + 4 * ((i / 4 + i % 4) % 4)) 0

/-- MixColumns on one column. -/
def mixColumn (c : List Nat) : List Nat :=
  (upFrom 0 4).map fun i =>
    aesMul (c.getD i 0) 2 ^^^ aesMul (c.getD ((i + 1) % 4) 0) 3 ^^^ c.getD ((i + 2) % 4) 0 ^^^ c.getD ((i + 3) % 4) 0

/-- The round key of round r. -/
def roundKey (ks : List (List Nat)) (r : Nat) : List Nat := ((ks.drop (4 * r)).take 4).flatMap id

/-- One round. -/
def aesRound (ks : List (List Nat)) (r : Nat) (b : List Nat) : List Nat :=
  let b := shiftRows (b.map aesSub)
  let b := if r = 14 then b else (upFrom 0 4).flatMap fun c => mixColumn ((b.drop (4 * c)).take 4)
  xorL b (roundKey ks r)

/-- The cipher on one block. -/
def aesBlock (ks : List (List Nat)) (b : List Nat) : List Nat :=
  (upFrom 1 14).foldl (fun b r => aesRound ks r b) (xorL b (roundKey ks 0))

/-! ## Galois/Counter Mode -/

/-- A block as a number, first byte most significant. -/
def blockNum (b : List Nat) : Nat := b.foldl (fun n x => n * 256 + x) 0

/-- A number as a block. -/
def numBlock (n : Nat) : List Nat := (upFrom 0 16).map fun i => n / 256 ^ (15 - i) % 256

/-- Multiplication in the field of GHASH. -/
def ghMul (x y : Nat) : Nat :=
  ((upFrom 0 128).foldl (fun (p : Nat × Nat) i =>
    (if x.testBit (127 - i) then p.1 ^^^ p.2 else p.1,
     if p.2 % 2 = 1 then (p.2 / 2) ^^^ (0xE1 * 2 ^ 120) else p.2 / 2)) (0, y)).1

/-- The bytes cut into blocks of 16, the last padded with zeros; `fuel` bounds the blocks. -/
def gcmBlocks : Nat → List Nat → List (List Nat)
  | 0, _ => []
  | _ + 1, [] => []
  | n + 1, l => (let b := l.take 16; b ++ List.replicate (16 - b.length) 0) :: gcmBlocks n (l.drop 16)

/-- GHASH carried on over further ciphertext. -/
def ghashRun (h y : Nat) (c : List Nat) : Nat :=
  (gcmBlocks c.length c).foldl (fun y b => ghMul (y ^^^ blockNum b) h) y

/-- The counter block of a count. -/
def counterBlock (iv : List Nat) (n : Nat) : List Nat := iv.take 12 ++ (numBlock (n % 2 ^ 32)).drop 12

/-- The key stream of a number of blocks from block `from` of the data on. -/
def gcmStream (ks : List (List Nat)) (iv : List Nat) (from_ blocks : Nat) : List Nat :=
  (upFrom (2 + from_) blocks).flatMap fun n => aesBlock ks (counterBlock iv n)

/-- The key of GHASH. -/
def gcmKey (ks : List (List Nat)) : Nat := blockNum (aesBlock ks (List.replicate 16 0))

/-- The plaintext of a piece of ciphertext that begins at byte pos of the data, a multiple of 16. -/
def gcmPiece (ks : List (List Nat)) (iv : List Nat) (pos : Nat) (c : List Nat) : List Nat :=
  xorL c (gcmStream ks iv (pos / 16) ((c.length + 15) / 16))

/-- The tag of n bytes of ciphertext whose GHASH so far is y. -/
def gcmTag (ks : List (List Nat)) (iv : List Nat) (y n : Nat) : List Nat :=
  xorL (numBlock (ghMul (y ^^^ (8 * n)) (gcmKey ks))) (aesBlock ks (counterBlock iv 1))

end Sys2Proof.Machine
end

