-- ==== Sys2Proof/Machine/Float.lean ====
section
/-! DEFINITION. Number formats and exact-then-round arithmetic (chapter "Number formats and arithmetic
behaviour", R106-R131). Every operation computes the exact result and rounds it once. -/

namespace Sys2Proof.Machine

/-- The floating-point formats of R106. -/
inductive FFmt where
  | f64 | f32 | f16 | bf16 | e4m3 | e5m2
deriving DecidableEq, Repr

/-- Exponent bits (R106). -/
def FFmt.ebits : FFmt → Nat
  | .f64 => 11 | .f32 => 8 | .f16 => 5 | .bf16 => 8 | .e4m3 => 4 | .e5m2 => 5

/-- Fraction bits (R106). -/
def FFmt.fbits : FFmt → Nat
  | .f64 => 52 | .f32 => 23 | .f16 => 10 | .bf16 => 7 | .e4m3 => 3 | .e5m2 => 2

/-- Exponent bias (R106). -/
def FFmt.bias (f : FFmt) : Nat := 2 ^ (f.ebits - 1) - 1

/-- Width in bits. -/
def FFmt.width (f : FFmt) : Nat := 1 + f.ebits + f.fbits

/-- The FP8 formats (R107, R121). -/
def FFmt.isFp8 : FFmt → Bool
  | .e4m3 | .e5m2 => true
  | _ => false

/-- Exponent of the largest finite value (R106). -/
def FFmt.emax : FFmt → Nat
  | .e4m3 => 8
  | f => 2 ^ f.ebits - 2 - f.bias

/-- Positive canonical NaN (R106). -/
def FFmt.canonNaN : FFmt → Nat
  | .e4m3 => 0x7F
  | .e5m2 => 0x7E
  | f => (2 ^ f.ebits - 1) * 2 ^ f.fbits + 2 ^ (f.fbits - 1)

/-- Positive infinity; E4M3 has none and uses its NaN (R106, R121). -/
def FFmt.infBits : FFmt → Nat
  | .e4m3 => 0x7F
  | f => (2 ^ f.ebits - 1) * 2 ^ f.fbits

/-- Largest finite value (R106). -/
def FFmt.maxBits : FFmt → Nat
  | .e4m3 => 0x7E
  | f => (2 ^ f.ebits - 1) * 2 ^ f.fbits - 1

/-- A sign bit at the top of a format's width. -/
def FFmt.signBits (f : FFmt) (s : Bool) : Nat := if s then 2 ^ (f.width - 1) else 0

/-- A decoded value: a NaN with its sign, its signalling mark and its fraction left-aligned to 52 bits;
an infinity; or the exact number (-1)^s * m * 2^e. -/
inductive FVal where
  | nan (s : Bool) (sig : Bool) (frac : Nat)
  | inf (s : Bool)
  | fin (s : Bool) (m : Nat) (e : Int)
deriving DecidableEq, Repr

/-- Exception flags in the bit order of FFLAGS: NX, UF, OF, DZ, NV (R38). -/
abbrev Flags := BitVec 5

def flNX : Flags := 1
def flUF : Flags := 2
def flOF : Flags := 4
def flDZ : Flags := 8
def flNV : Flags := 16

/-- `fl` when the condition holds, no flag otherwise. -/
def flagIf (c : Bool) (fl : Flags) : Flags := if c then fl else 0

/-- FMODE: rounding attribute 0-4, flush to zero, canonical NaN (R38, R112). -/
structure RMode where
  rm   : Nat
  ftz  : Bool
  cnan : Bool
deriving DecidableEq, Repr

/-- Round to nearest even with no option set: the matrix unit's mode (R112, R130). -/
def rne : RMode := ⟨0, false, false⟩

/-- FMODE as the special register holds it (R38). -/
def RMode.ofWord (w : Word) : RMode :=
  ⟨(w.extractLsb' 0 3).toNat, w.getLsbD 3, w.getLsbD 4⟩

/-- Decodes the bits of a format (R106, R107). -/
def fDecode (f : FFmt) (x : Nat) : FVal :=
  let s := x.testBit (f.width - 1)
  let ex := x / 2 ^ f.fbits % 2 ^ f.ebits
  let fr := x % 2 ^ f.fbits
  let special : Bool := match f with
    | .e4m3 => decide (ex = 15 ∧ fr = 7)
    | _ => decide (ex = 2 ^ f.ebits - 1)
  if special then
    if f.isFp8 then
      if f = .e5m2 ∧ fr = 0 then .inf s else .nan s false (2 ^ 51)
    else if fr = 0 then .inf s
    else .nan s (! fr.testBit (f.fbits - 1)) (fr * 2 ^ (52 - f.fbits))
  else if ex = 0 then .fin s fr (1 - (f.bias : Int) - f.fbits)
  else .fin s (fr + 2 ^ f.fbits) ((ex : Int) - f.bias - f.fbits)

/-- Rounds m / 2^shift, with `st` a non-zero tail below m, to an integer by attribute `rm` for sign `s`;
answers the integer and whether it is inexact (R112). -/
def rndShift (rm : Nat) (s : Bool) (m shift : Nat) (st : Bool) : Nat × Bool :=
  let q := m >>> shift
  let r := 4 * (m % 2 ^ shift) + (if st then 1 else 0)
  let h := 2 ^ (shift + 1)
  let ix := decide (r ≠ 0)
  let up := match rm with
    | 0 => decide (h < r) || (decide (r = h) && decide (q % 2 = 1))
    | 1 => false
    | 2 => ! s && ix
    | 3 => s && ix
    | _ => decide (h ≤ r)
  (if up then q + 1 else q, ix)

/-- Rounds m * 2^e to a multiple of 2^q. -/
def rndAt (rm : Nat) (s : Bool) (m : Nat) (e q : Int) (st : Bool) : Nat × Bool :=
  if q ≤ e then rndShift rm s (m <<< (e - q).toNat) 0 st
  else rndShift rm s m (q - e).toNat st

/-- The overflow result of an attribute: infinity, or the largest finite value; `sat` saturates an FP8
destination (R114, R121, R127). -/
def overflowBits (f : FFmt) (rm : Nat) (s sat : Bool) : Nat :=
  let toInf := match rm with
    | 0 => true
    | 1 => false
    | 2 => ! s
    | 3 => s
    | _ => true
  f.signBits s + (if toInf && ! (sat && f.isFp8) then f.infBits else f.maxBits)

/-- Rounds the exact number (-1)^s * (m + tail) * 2^e to format `f`, with the flags of R114 (tininess
after rounding). -/
def roundFin (f : FFmt) (rm : Nat) (sat s : Bool) (m : Nat) (e : Int) (st : Bool) : Nat × Flags :=
  if m = 0 then (f.signBits s, 0)
  else
    let top : Int := e + m.log2
    let emin : Int := 1 - (f.bias : Int)
    let qn : Int := top - f.fbits
    let q : Int := max qn (emin - f.fbits)
    let r := rndAt rm s m e q st
    let u := rndAt rm s m e qn st
    let p := 2 ^ (f.fbits + 1)
    let tiny := decide ((if u.1 = p then top + 1 else top) < emin)
    let top' : Int := if r.1 = p then top + 1 else top
    let big := decide (q = qn) && (decide ((f.emax : Int) < top') ||
      (decide (f = .e4m3) && decide (top' = f.emax) && decide (r.1 = p - 1)))
    if big then (overflowBits f rm s sat, flOF ||| flNX)
    else
      let bits := if r.1 < 2 ^ f.fbits then r.1
        else (q + f.fbits + f.bias).toNat * 2 ^ f.fbits + (r.1 - 2 ^ f.fbits)
      (f.signBits s + bits, flagIf r.2 flNX ||| flagIf (tiny && r.2) flUF)

/-- Flush-to-zero of a rounded result (R119): a subnormal becomes zero of its sign with UF and NX. -/
def ftzResult (f : FFmt) (md : RMode) (r : Nat × Flags) : Nat × Flags :=
  let fr := r.1 % 2 ^ f.fbits
  let ex := r.1 / 2 ^ f.fbits % 2 ^ f.ebits
  if md.ftz && ! f.isFp8 && decide (ex = 0) && decide (fr ≠ 0)
  then (f.signBits (r.1.testBit (f.width - 1)), r.2 ||| flUF ||| flNX) else r

/-- Flush-to-zero of an operand (R119). -/
def ftzOperand (f : FFmt) (md : RMode) (v : FVal) : FVal :=
  match v with
  | .fin s m e => if md.ftz && ! f.isFp8 && decide (m < 2 ^ f.fbits) then .fin s 0 e else .fin s m e
  | v => v

/-- An operand as an operation under FMODE reads it (R119). -/
def fOperand (f : FFmt) (md : RMode) (x : Nat) : FVal := ftzOperand f md (fDecode f x)

def FVal.isNaN : FVal → Bool
  | .nan .. => true
  | _ => false

def FVal.isSig : FVal → Bool
  | .nan _ sig _ => sig
  | _ => false

def FVal.sign : FVal → Bool
  | .nan s _ _ | .inf s | .fin s _ _ => s

def FVal.isZero : FVal → Bool
  | .fin _ 0 _ => true
  | _ => false

def FVal.isInf : FVal → Bool
  | .inf _ => true
  | _ => false

def FVal.neg : FVal → FVal
  | .nan s g p => .nan (! s) g p
  | .inf s => .inf (! s)
  | .fin s m e => .fin (! s) m e

/-- The bits of a quieted NaN in format `f`: sign and high-order fraction kept; FP8 and FMODE.CNAN give
the canonical NaN (R115, R117, R118). -/
def nanBits (f : FFmt) (md : RMode) (s : Bool) (frac : Nat) : Nat :=
  if md.cnan then f.canonNaN
  else if f.isFp8 then f.signBits s + f.canonNaN
  else f.signBits s + (2 ^ f.ebits - 1) * 2 ^ f.fbits + (frac ||| 2 ^ 51) / 2 ^ (52 - f.fbits)

/-- The result of an operation with a NaN operand: the first NaN, quieted; NV for a signalling one
(R115). `none` when no operand is a NaN. -/
def nanResult (f : FFmt) (md : RMode) (vs : List FVal) : Option (Nat × Flags) :=
  match vs.find? FVal.isNaN with
  | some (.nan s _ frac) => some (nanBits f md s frac, flagIf (vs.any FVal.isSig) flNV)
  | _ => none

/-- The canonical NaN with NV: the result of an invalid operation (R116). -/
def invalidResult (f : FFmt) : Nat × Flags := (f.canonNaN, flNV)

/-- Exact sum of two finite numbers; an exact zero of opposite signs takes `zs` (R113). -/
def finAdd (zs : Bool) (s₁ : Bool) (m₁ : Nat) (e₁ : Int) (s₂ : Bool) (m₂ : Nat) (e₂ : Int) : FVal :=
  let e := min e₁ e₂
  let a := m₁ <<< (e₁ - e).toNat
  let b := m₂ <<< (e₂ - e).toNat
  if s₁ = s₂ then .fin s₁ (a + b) e
  else if a = b then .fin zs 0 e
  else if b < a then .fin s₁ (a - b) e
  else .fin s₂ (b - a) e

/-- Exact sum of two values that are not NaN; `none` for infinities of opposite signs (R116). -/
def exAdd (zs : Bool) : FVal → FVal → Option FVal
  | .inf s, .inf t => if s = t then some (.inf s) else none
  | .inf s, _ => some (.inf s)
  | _, .inf t => some (.inf t)
  | .fin s₁ m₁ e₁, .fin s₂ m₂ e₂ => some (finAdd zs s₁ m₁ e₁ s₂ m₂ e₂)
  | v, _ => some v

/-- Exact product of two values that are not NaN; `none` for zero times infinity (R116). -/
def exMul : FVal → FVal → Option FVal
  | .inf s, v => if v.isZero then none else some (.inf (s != v.sign))
  | v, .inf t => if v.isZero then none else some (.inf (v.sign != t))
  | .fin s₁ m₁ e₁, .fin s₂ m₂ e₂ => some (.fin (s₁ != s₂) (m₁ * m₂) (e₁ + e₂))
  | v, _ => some v

/-- Under FMODE.CNAN the NaN that stands for an infinity of E4M3 is the positive one (R117, R121). -/
def canonE4m3 (f : FFmt) (md : RMode) (r : Nat × Flags) : Nat × Flags :=
  if md.cnan && decide (f = .e4m3) && decide (r.1 % 2 ^ 7 = f.infBits) then (f.canonNaN, r.2) else r

/-- Rounds an exact value under FMODE. -/
def roundV (f : FFmt) (md : RMode) (sat : Bool) : FVal → Nat × Flags
  | .fin s m e => canonE4m3 f md (ftzResult f md (roundFin f md.rm sat s m e false))
  | .inf s => canonE4m3 f md (if f.isFp8 && sat then f.signBits s + f.maxBits else f.signBits s + f.infBits, 0)
  | .nan s _ frac => (nanBits f md s frac, 0)

/-- Rounds the value of an operation, or answers the invalid result. -/
def roundOr (f : FFmt) (md : RMode) : Option FVal → Nat × Flags
  | some v => roundV f md false v
  | none => invalidResult f

/-- Addition (R110, R113). -/
def fAdd (f : FFmt) (md : RMode) (x y : Nat) : Nat × Flags :=
  let a := fOperand f md x
  let b := fOperand f md y
  (nanResult f md [a, b]).getD (roundOr f md (exAdd (decide (md.rm = 3)) a b))

/-- Flips the sign bit, of a NaN too (R111). -/
def fNegBits (f : FFmt) (x : Nat) : Nat := x ^^^ 2 ^ (f.width - 1)

/-- Subtraction is addition of the operand with its sign bit inverted (R111). -/
def fSub (f : FFmt) (md : RMode) (x y : Nat) : Nat × Flags := fAdd f md x (fNegBits f y)

/-- Multiplication (R110, R113). -/
def fMul (f : FFmt) (md : RMode) (x y : Nat) : Nat × Flags :=
  let a := fOperand f md x
  let b := fOperand f md y
  (nanResult f md [a, b]).getD (roundOr f md (exMul a b))

/-- A product and a sum of exact values, rounded once; 0 × ∞ is invalid whatever is added (R110, R113-R116). -/
def fmaOf (f : FFmt) (md : RMode) (a b c : FVal) : Nat × Flags :=
  let p := if a.isNaN || b.isNaN then some a else exMul a b
  match nanResult f md [a, b, c] with
  | some (r, fl) => (r, fl ||| flagIf p.isNone flNV)
  | none =>
    match p with
    | none => invalidResult f
    | some v => roundOr f md (exAdd (decide (md.rm = 3)) v c)

/-- Fused multiply-add with one rounding (R110, R113, R115, R116). -/
def fFma (f : FFmt) (md : RMode) (x y z : Nat) : Nat × Flags :=
  fmaOf f md (fOperand f md x) (fOperand f md y) (fOperand f md z)

/-- Division (R113, R114, R116). -/
def fDiv (f : FFmt) (md : RMode) (x y : Nat) : Nat × Flags :=
  let a := fOperand f md x
  let b := fOperand f md y
  let s := a.sign != b.sign
  match nanResult f md [a, b] with
  | some r => r
  | none =>
    match a, b with
    | .inf _, .inf _ => invalidResult f
    | .inf _, _ => (f.signBits s + f.infBits, 0)
    | _, .inf _ => (f.signBits s, 0)
    | .fin _ m₁ e₁, .fin _ m₂ e₂ =>
      if m₂ = 0 then (if m₁ = 0 then invalidResult f else (f.signBits s + f.infBits, flDZ))
      else
        let k := m₂.log2 + f.fbits + 4
        let n := m₁ <<< k
        ftzResult f md (roundFin f md.rm false s (n / m₂) (e₁ - e₂ - k) (decide (n % m₂ ≠ 0)))
    | _, _ => invalidResult f

/-- The integer square root, one bit a step from bit `k - 1` down. -/
def isqrtFrom (n : Nat) : Nat → Nat → Nat
  | 0, r => r
  | k + 1, r => if (r + 2 ^ k) * (r + 2 ^ k) ≤ n then isqrtFrom n k (r + 2 ^ k) else isqrtFrom n k r

/-- The integer square root, rounded down. -/
def isqrt (n : Nat) : Nat := isqrtFrom n (n.log2 / 2 + 1) 0

/-- Square root (R113, R116). -/
def fSqrt (f : FFmt) (md : RMode) (x : Nat) : Nat × Flags :=
  let a := fOperand f md x
  match nanResult f md [a] with
  | some r => r
  | none =>
    match a with
    | .fin s m e =>
      if m = 0 then (f.signBits s, 0)
      else if s then invalidResult f
      else
        let k := 2 * (f.fbits + 4) + (if (e % 2 : Int) = 0 then 0 else 1)
        let n := m <<< k
        let r := isqrt n
        ftzResult f md (roundFin f md.rm false false r ((e - k) / 2) (decide (r * r ≠ n)))
    | .inf s => if s then invalidResult f else (f.infBits, 0)
    | .nan .. => invalidResult f

/-- Order of two finite or infinite values, with -0 equal to +0. -/
def fOrd : FVal → FVal → Ordering
  | .inf s, .inf t => if s = t then .eq else if s then .lt else .gt
  | .inf s, _ => if s then .lt else .gt
  | _, .inf t => if t then .gt else .lt
  | .fin s₁ m₁ e₁, .fin s₂ m₂ e₂ =>
    let e := min e₁ e₂
    let a : Int := (m₁ <<< (e₁ - e).toNat : Nat)
    let b : Int := (m₂ <<< (e₂ - e).toNat : Nat)
    let a := if s₁ then -a else a
    let b := if s₂ then -b else b
    if a < b then .lt else if a = b then .eq else .gt
  | _, _ => .eq

/-- The first value is below the second, -0 below +0 (R84). -/
def fBelow (a b : FVal) : Bool :=
  match fOrd a b with
  | .lt => true
  | .gt => false
  | .eq => a.sign && ! b.sign

/-- IEEE 754-2019 minimum or maximum (R84, R115). -/
def fMinMax (isMax : Bool) (f : FFmt) (md : RMode) (x y : Nat) : Nat × Flags :=
  let a := fOperand f md x
  let b := fOperand f md y
  (nanResult f md [a, b]).getD
    (roundV f md false (if (if isMax then fBelow a b else fBelow b a) then b else a))

/-- The comparison of condition `cc`, with NV for any signalling NaN and, for the ordered conditions,
any NaN (R84). -/
def fCmp (f : FFmt) (md : RMode) (cc : Nat) (x y : Nat) : Bool × Flags :=
  let a := fOperand f md x
  let b := fOperand f md y
  let un := a.isNaN || b.isNaN
  let nv := a.isSig || b.isSig || (un && (decide (2 ≤ cc) && decide (cc ≤ 5)))
  let o := fOrd a b
  let r := match cc with
    | 0 => ! un && decide (o = .eq)
    | 1 => un || decide (o ≠ .eq)
    | 2 => ! un && decide (o = .lt)
    | 3 => ! un && decide (o ≠ .gt)
    | 4 => ! un && decide (o = .gt)
    | 5 => ! un && decide (o ≠ .lt)
    | _ => un
  (r, flagIf nv flNV)

/-- Floating-point to floating-point conversion (R118, R121). -/
def fCvt (src dst : FFmt) (md : RMode) (sat : Bool) (x : Nat) : Nat × Flags :=
  match fOperand src md x with
  | .nan s sig frac =>
    (if src.isFp8 && ! md.cnan then dst.signBits s + dst.canonNaN else nanBits dst md s frac,
      flagIf sig flNV)
  | v => roundV dst md sat v

/-- The range of an integer type of `w` bits. -/
def intMin (w : Nat) (sgn : Bool) : Int := if sgn then -(2 ^ (w - 1) : Int) else 0
def intMax (w : Nat) (sgn : Bool) : Int := if sgn then 2 ^ (w - 1) - 1 else 2 ^ w - 1

/-- The low `w` bits of an integer. -/
def intBits (w : Nat) (i : Int) : Nat := (i % (2 ^ w : Int)).toNat

/-- The integer that `w` bits hold. -/
def bitsInt (w : Nat) (sgn : Bool) (x : Nat) : Int :=
  let y := x % 2 ^ w
  if sgn && y.testBit (w - 1) then (y : Int) - 2 ^ w else y

/-- Floating-point to integer conversion (R122). -/
def fToInt (src : FFmt) (md : RMode) (w : Nat) (sgn : Bool) (x : Nat) : Nat × Flags :=
  match fOperand src md x with
  | .nan .. => (0, flNV)
  | .inf s => (intBits w (if s then intMin w sgn else intMax w sgn), flNV)
  | .fin s m e =>
    let r := rndAt md.rm s m e 0 false
    let i : Int := if s then -(r.1 : Int) else r.1
    if i < intMin w sgn then (intBits w (intMin w sgn), flNV)
    else if intMax w sgn < i then (intBits w (intMax w sgn), flNV)
    else (intBits w i, flagIf r.2 flNX)

/-- Integer to floating-point conversion (R123). -/
def fFromInt (dst : FFmt) (md : RMode) (i : Int) : Nat × Flags :=
  ftzResult dst md (roundFin dst md.rm false (decide (i < 0)) i.natAbs 0 false)

/-- A value of the matrix unit rounded to FP32, to nearest even, subnormals kept; it never raises UF
(R130). -/
def mRound (v : FVal) : FVal × Flags :=
  match v with
  | .fin .. =>
    let r := roundV .f32 rne false v
    (fDecode .f32 r.1, r.2 &&& ~~~flUF)
  | v => (v, 0)

/-- The matrix unit's NaN: the canonical FP32 NaN, no payload kept (R131). -/
def mNaN : FVal := .nan false false (2 ^ 51)

/-- A rounded sum of the matrix unit (R130, R131). -/
def mAdd (a b : FVal) : FVal × Flags :=
  if a.isNaN || b.isNaN then (mNaN, 0)
  else match exAdd false a b with
    | some v => mRound v
    | none => (mNaN, flNV)

/-- An exact product of the matrix unit, not rounded (R130, R131). -/
def mMulExact (a b : FVal) : FVal × Flags :=
  if a.isNaN || b.isNaN then (mNaN, flagIf (a.isSig || b.isSig) flNV)
  else match exMul a b with
    | some v => (v, 0)
    | none => (mNaN, flNV)

/-- A rounded product of the matrix unit (the scaling of a block sum, R90, R130). -/
def mMul (a b : FVal) : FVal × Flags :=
  let p := mMulExact a b
  let r := mRound p.1
  (r.1, p.2 ||| r.2)

/-- A NaN scale is the matrix unit's NaN and raises no flag: R131 names signalling inputs only. -/
def mScale (v : FVal) : FVal := if v.isNaN then mNaN else v

/-- The canonical NaN of an invalid product on its way to a conversion, which raises its NV (R115, R116). -/
def badProduct : FVal := .nan false true (2 ^ 51)

/-- An exact product outside the matrix unit: the first NaN operand as it stands (R115; assumption log 19). -/
def exProd (a b : FVal) : FVal := if a.isNaN then a else if b.isNaN then b else (exMul a b).getD badProduct

/-- The FP32 bits of a matrix-unit value. -/
def mBits (v : FVal) : Nat :=
  match v with
  | .nan .. => FFmt.f32.canonNaN
  | v => (roundV .f32 rne false v).1

end Sys2Proof.Machine
end

