-- ==== Sys2Proof/Config.lean ====
section
/-! DEFINITION. What the spec leaves to the environment or to a fixed routine it does not give: opaque
constants with no body, so that nothing can be proved about their values. -/

namespace Sys2Proof

/-- A free 64-bit value for the n-th open choice: the value of anything the spec leaves open, such as
whether the line being written at an abort is complete or poisoned (R62), the free-running noise source
(R150) or a cycle count (R38). Assumption log 5. -/
opaque Config.freeWord : Nat → Word

/-- The exponential routine of the score unit on an FP32 encoding: which of the two neighbours of the exact value it
gives, and its result where R241 gives none. Assumption log 6. -/
opaque Config.expRoutine : BitVec 32 → BitVec 32

/-- The logarithm routine of the score unit on an FP32 encoding: which of the two neighbours of the exact value it
gives, and its result where R241 gives none. Assumption log 6. -/
opaque Config.lnRoutine : BitVec 32 → BitVec 32

/-- The sine routine of the Servo Engine's injector: which of the two neighbours of the exact value it gives (R348).
Assumption log 6. -/
opaque Config.sineRoutine : BitVec 32 → BitVec 32

/-- An SLH-DSA-SHA2-128f signature under the identity key, as the bytes of FIPS 205 (R466). Assumption
log 6. -/
opaque Config.slhSign : Nat → List Byte → List Byte

end Sys2Proof
end

