-- ==== Sys2Proof/Machine/RegDir.lean ====
section
/-! DEFINITION. The control-space register directory: every register the spec names, with its block
class, offset, instances, fields, access codes, reset values, change-log mark and reset domain (R10-R13,
R510 and the register tables of each chapter). -/

namespace Sys2Proof.Machine

/-- The access codes of R10. -/
inductive Acc where
  | ro | rw | w1c | w1s | wo | rc
deriving DecidableEq, Repr

/-- The reset domains of R12. -/
inductive Dom where
  | engine | island | warm | cold
deriving DecidableEq, Repr

/-- Every control-space register; a register of several words has one name for each word. -/
inductive RegName where
  | FE_CTL
  | FE_STAT
  | FE_IDLE
  | FE_TQ
  | FE_TQ_PUSH
  | FE_TQ_TAKE
  | FE_TQ_RUN
  | FE_ECC
  | FE_GRID
  | FE_CVTS
  | EDG_CTL
  | EDG_RING
  | CST_MVR_CTL
  | CST_MVR_PTR
  | CST_EVQ
  | CST_ARB_STAT
  | CST_GDBG_SEL
  | CST_GDBG
  | CST_SLUICE
  | CST_CLEVQ
  | CST_PW_STAT
  | CST_PW_CTL
  | CST_BANKFB
  | CST_ECC_BKT
  | CST_ECC_CNT
  | CST_ECC_MISS
  | CST_ECC_LOG0
  | CST_ECC_LOG1
  | CST_SCRUB_CTL
  | CST_SCRUB_BASE
  | CST_SCRUB_LEN
  | CST_SCRUB_PROG
  | CST_SCRUB_CNT
  | CST_SCRUB_FIRST
  | CST_SCRUB_LAST
  | CST_SCRUB_DUR
  | CST_HECC
  | CST_CGATE
  | CST_CCHK0
  | CST_CCHK1
  | CST_MGATE
  | CST_MCHK0
  | CST_MCHK1
  | HBM_ECC_BKT
  | HBM_ECC_CNT
  | HBM_ECC_MISS
  | HBM_ECC_LOG0
  | HBM_ECC_LOG1
  | HBM_SCRUB_CTL
  | HBM_SCRUB_BASE
  | HBM_SCRUB_LEN
  | HBM_SCRUB_PROG
  | HBM_SCRUB_CNT
  | HBM_SCRUB_FIRST
  | HBM_SCRUB_LAST
  | HBM_SCRUB_DUR
  | ING_CH_CTL
  | ING_CH_GEOM
  | ING_CH_BL
  | ING_CH_CCM
  | ING_CH_BASE
  | ING_CH_PTR
  | ING_CH_GATE
  | ING_CH_STAT
  | ING_CH_LINK
  | ING_STEER
  | ING_CH_FRZ
  | ING_FB_CTL
  | ING_FB_BASE
  | ING_FB_CMD
  | ING_FB_TAKE
  | ING_FB_STAT
  | ING_TOK_TRIE
  | SLV_CTL
  | SLV_LANE_CTL
  | SLV_LANE_STAT
  | SLV_DOOR
  | SLV_LANE_CNT
  | SRV_CTL
  | SRV_INJ_CTL
  | SRV_INJ_P
  | SRV_INJ_PRBS
  | SRV_INJ_SWP
  | SRV_CAP_CTL
  | SRV_CAP_BASE
  | SRV_CAP_STAT
  | SRV_CAP_SEL
  | SRV_SPI
  | SRV_SPI_TX
  | SRV_LP_CTL
  | SRV_LP_TIME
  | SRV_LP_LOFF
  | SRV_LP_IN
  | SRV_LP_SPB
  | SRV_LP_FFB
  | SRV_LP_OUT
  | SRV_LP_GATE
  | SRV_LP_MODE
  | SRV_LP_SP
  | SRV_LP_GAIN
  | SRV_LP_FF
  | SRV_LP_LIM
  | SRV_LP_RATE
  | SRV_LP_CNT
  | SRV_LP_VAL
  | SRV_LP_COEF0
  | SRV_LP_COEF1
  | SRV_LP_COEF2
  | SRV_LP_STATE0
  | SRV_LP_STATE1
  | CB_CTL
  | CB_NBT
  | CB_DBT
  | CB_STAT
  | CB_TXTS
  | CB_PHY
  | CB_CNT
  | CB_SAFE
  | CB_MBX_CTL
  | CB_MBX_ID
  | CB_MBX_MASK
  | CB_MBX_LT
  | CB_MBX_CMD
  | CB_MBX_STAT
  | CB_MBX_RXID
  | CB_MBX_DATA
  | ETH_CTL
  | ETH_MAC
  | ETH_LAT
  | ETH_LINK
  | ETH_RXCLS
  | ETH_TXQ0
  | ETH_TXQ1
  | ETH_RXQ0
  | ETH_RXQ1
  | ETH_RXQ2
  | ETH_TXTS
  | ETH_STAT
  | ETH_RXSV0
  | ETH_RXSV1
  | ETH_SVSTAT
  | ETH_TXSVC
  | ETH_TXSV
  | DVL_GRP
  | DVL_CTL
  | DVL_STAT
  | DVL_RXWIN0
  | DVL_RXWIN1
  | DVL_ERR
  | DRD_CTL
  | DRD_SAFE
  | DRD_STAT
  | DRD_ISO
  | DRD_REACT
  | DRD_WD0
  | DRD_WD1
  | DRD_WD_CHK
  | DRD_GS0
  | DRD_GS1
  | DRD_GS2
  | DRD_GS3
  | DRD_GS4
  | DRD_GS5
  | DRD_GS6
  | DRD_GS7
  | DRD_SLV0
  | DRD_SLV1
  | DRD_SLV_EN
  | DRD_DIVJ
  | DRD_DIV_CTL
  | DRD_ST_CTL
  | DRD_ST_IDLE
  | DRD_SW0
  | DRD_SW1
  | DRD_GOLD_GSTART
  | DRD_GOLD_GWIN
  | DRD_GOLD_BUD
  | DRD_GOLD_CHUNK
  | DRD_GOLD_URGENT
  | DRD_GOLD_PASS
  | DRD_INJ
  | WTM_CTL
  | WTM_STAT
  | WTM_THERM
  | WTM_RST
  | WTM_RSTREC
  | WTM_ISL
  | WTM_MOD
  | WTM_GPIO_CFG
  | HST_WINB
  | HST_OBW
  | HST_IRQ
  | HST_EVQIRQ
  | HST_RING0
  | HST_RING1
  | HST_RING2
  | HST_STAT
  | DBG_CTL
  | DBG_MARK
  | DBG_SCRATCH
  | SEC_BOOT
  | SEC_ID
  | SEC_MEAS
  | SEC_EXTEND
  | SEC_ATT
  | SEC_ATT_GATE
  | SEC_ATT_NONCE
  | SEC_AES_RING
  | SEC_AES_STG
  | SEC_KEY
  | SEC_FWC
  | SEC_FWC_CTL
  | CLG_CTL
  | CLG_RING
  | CLG_PTR
  | CLG_SEQ
  | CLG_HEAD
  | CLG_STAT
  | TB_INC
  | TB_NOW0
  | TB_NOW1
  | TB_ADJ
  | TB_LOADNS
  | TB_LOADSEC
  | TB_STAT
  | JNL_CTL
  | JNL_RING
  | JNL_PTR_WR
  | JNL_PTR_RD
  | JNL_STAT
  | JNL_MARK
  | JNL_HOST
  | JNL_HOSTF
  | JNL_STG
  | JNL_FEED
  | DET_CTL
  | DET_KEY
  | DET_ARITH
  | DET_STAT
  | DET_LS
  | DET_LS_START
deriving DecidableEq, Repr

/-- A named field of a register: its bits are [hi:lo]. -/
structure Fld where
  reg : RegName
  hi  : Nat
  lo  : Nat
deriving DecidableEq, Repr

/-- A field's row of a register table: bits [hi:lo], access code, reset value. -/
structure FieldRow where
  hi    : Nat
  lo    : Nat
  acc   : Acc
  reset : Nat
deriving DecidableEq, Repr

/-- A register's key line and field table: block class, offset in the block, instances as stride and
count (outermost first), logged or not, reset domain, fields. -/
structure RegInfo where
  cls    : Nat
  off    : Nat
  dims   : List (Nat × Nat)
  logged : Bool
  dom    : Dom
  fields : List FieldRow
deriving DecidableEq, Repr

def FE_CTL.EN : Fld := ⟨.FE_CTL, 0, 0⟩
def FE_CTL.ABORT : Fld := ⟨.FE_CTL, 1, 1⟩
def FE_STAT.STATE : Fld := ⟨.FE_STAT, 1, 0⟩
def FE_STAT.MODE : Fld := ⟨.FE_STAT, 2, 2⟩
def FE_STAT.WAITING : Fld := ⟨.FE_STAT, 3, 3⟩
def FE_STAT.TOKBUSY : Fld := ⟨.FE_STAT, 11, 4⟩
def FE_STAT.LASTCAUSE : Fld := ⟨.FE_STAT, 19, 12⟩
def FE_STAT.LASTEPC : Fld := ⟨.FE_STAT, 63, 24⟩
def FE_IDLE.THRESH : Fld := ⟨.FE_IDLE, 15, 0⟩
def FE_IDLE.NOGATE : Fld := ⟨.FE_IDLE, 16, 16⟩
def FE_TQ.HEAD : Fld := ⟨.FE_TQ, 5, 0⟩
def FE_TQ.TAIL : Fld := ⟨.FE_TQ, 13, 8⟩
def FE_TQ.COUNT : Fld := ⟨.FE_TQ, 22, 16⟩
def FE_TQ.TAILF : Fld := ⟨.FE_TQ, 26, 24⟩
def FE_TQ_PUSH.ADDR : Fld := ⟨.FE_TQ_PUSH, 39, 0⟩
def FE_TQ_TAKE.VICTIM : Fld := ⟨.FE_TQ_TAKE, 7, 0⟩
def FE_TQ_TAKE.KIND : Fld := ⟨.FE_TQ_TAKE, 9, 8⟩
def FE_TQ_TAKE.FOUND : Fld := ⟨.FE_TQ_TAKE, 10, 10⟩
def FE_TQ_RUN.RUN : Fld := ⟨.FE_TQ_RUN, 39, 0⟩
def FE_ECC.CE : Fld := ⟨.FE_ECC, 15, 0⟩
def FE_ECC.UE : Fld := ⟨.FE_ECC, 31, 16⟩
def FE_ECC.OFFS : Fld := ⟨.FE_ECC, 52, 32⟩
def FE_ECC.WASUE : Fld := ⟨.FE_ECC, 53, 53⟩
def FE_GRID.LVL0 : Fld := ⟨.FE_GRID, 15, 0⟩
def FE_GRID.LVL1 : Fld := ⟨.FE_GRID, 31, 16⟩
def FE_GRID.LVL2 : Fld := ⟨.FE_GRID, 47, 32⟩
def FE_GRID.LVL3 : Fld := ⟨.FE_GRID, 63, 48⟩
def FE_CVTS.WORD : Fld := ⟨.FE_CVTS, 63, 0⟩
def EDG_CTL.EN : Fld := ⟨.EDG_CTL, 0, 0⟩
def EDG_CTL.ABORT : Fld := ⟨.EDG_CTL, 1, 1⟩
def EDG_RING.TAIL : Fld := ⟨.EDG_RING, 6, 0⟩
def EDG_RING.HEAD : Fld := ⟨.EDG_RING, 14, 8⟩
def EDG_RING.STATE : Fld := ⟨.EDG_RING, 17, 16⟩
def EDG_RING.BUSY : Fld := ⟨.EDG_RING, 18, 18⟩
def EDG_RING.WAITING : Fld := ⟨.EDG_RING, 19, 19⟩
def EDG_RING.DONE : Fld := ⟨.EDG_RING, 63, 32⟩
def CST_MVR_CTL.EN : Fld := ⟨.CST_MVR_CTL, 0, 0⟩
def CST_MVR_CTL.ABORT : Fld := ⟨.CST_MVR_CTL, 1, 1⟩
def CST_MVR_PTR.TAIL : Fld := ⟨.CST_MVR_PTR, 6, 0⟩
def CST_MVR_PTR.HEAD : Fld := ⟨.CST_MVR_PTR, 14, 8⟩
def CST_MVR_PTR.STATE : Fld := ⟨.CST_MVR_PTR, 17, 16⟩
def CST_MVR_PTR.BUSY : Fld := ⟨.CST_MVR_PTR, 20, 18⟩
def CST_EVQ.WR : Fld := ⟨.CST_EVQ, 11, 0⟩
def CST_EVQ.RD : Fld := ⟨.CST_EVQ, 27, 16⟩
def CST_EVQ.LOST : Fld := ⟨.CST_EVQ, 63, 32⟩
def CST_ARB_STAT.MAXWAIT : Fld := ⟨.CST_ARB_STAT, 7, 0⟩
def CST_ARB_STAT.GRANTS : Fld := ⟨.CST_ARB_STAT, 63, 32⟩
def CST_GDBG_SEL.HANDLE : Fld := ⟨.CST_GDBG_SEL, 20, 0⟩
def CST_GDBG.WORD : Fld := ⟨.CST_GDBG, 63, 0⟩
def CST_SLUICE.OCC : Fld := ⟨.CST_SLUICE, 6, 0⟩
def CST_SLUICE.PEAK : Fld := ⟨.CST_SLUICE, 14, 8⟩
def CST_SLUICE.LONGEST : Fld := ⟨.CST_SLUICE, 63, 32⟩
def CST_CLEVQ.EVQ : Fld := ⟨.CST_CLEVQ, 2, 0⟩
def CST_PW_STAT.HITS : Fld := ⟨.CST_PW_STAT, 23, 0⟩
def CST_PW_STAT.MISSES : Fld := ⟨.CST_PW_STAT, 47, 24⟩
def CST_PW_STAT.STALLED : Fld := ⟨.CST_PW_STAT, 55, 48⟩
def CST_PW_CTL.RESUME : Fld := ⟨.CST_PW_CTL, 0, 0⟩
def CST_PW_CTL.CANCEL : Fld := ⟨.CST_PW_CTL, 1, 1⟩
def CST_PW_CTL.FLUSH : Fld := ⟨.CST_PW_CTL, 2, 2⟩
def CST_BANKFB.BASE : Fld := ⟨.CST_BANKFB, 39, 0⟩
def CST_BANKFB.BANK : Fld := ⟨.CST_BANKFB, 46, 40⟩
def CST_BANKFB.STATE : Fld := ⟨.CST_BANKFB, 49, 48⟩
def CST_ECC_BKT.DEPTH : Fld := ⟨.CST_ECC_BKT, 15, 0⟩
def CST_ECC_BKT.LEAK : Fld := ⟨.CST_ECC_BKT, 31, 16⟩
def CST_ECC_BKT.LEVEL : Fld := ⟨.CST_ECC_BKT, 47, 32⟩
def CST_ECC_BKT.OVF : Fld := ⟨.CST_ECC_BKT, 48, 48⟩
def CST_ECC_BKT.BANKUE : Fld := ⟨.CST_ECC_BKT, 63, 56⟩
def CST_ECC_CNT.CE : Fld := ⟨.CST_ECC_CNT, 31, 0⟩
def CST_ECC_CNT.UE : Fld := ⟨.CST_ECC_CNT, 63, 32⟩
def CST_ECC_MISS.MISSED : Fld := ⟨.CST_ECC_MISS, 15, 0⟩
def CST_ECC_LOG0.ADDR : Fld := ⟨.CST_ECC_LOG0, 39, 0⟩
def CST_ECC_LOG0.UE : Fld := ⟨.CST_ECC_LOG0, 40, 40⟩
def CST_ECC_LOG0.VALID : Fld := ⟨.CST_ECC_LOG0, 41, 41⟩
def CST_ECC_LOG0.REPEAT : Fld := ⟨.CST_ECC_LOG0, 63, 48⟩
def CST_ECC_LOG1.STAMP : Fld := ⟨.CST_ECC_LOG1, 31, 0⟩
def CST_ECC_LOG1.SRC : Fld := ⟨.CST_ECC_LOG1, 47, 32⟩
def CST_SCRUB_CTL.GO : Fld := ⟨.CST_SCRUB_CTL, 0, 0⟩
def CST_SCRUB_CTL.RESUME : Fld := ⟨.CST_SCRUB_CTL, 1, 1⟩
def CST_SCRUB_CTL.ABORT : Fld := ⟨.CST_SCRUB_CTL, 2, 2⟩
def CST_SCRUB_CTL.BUSY : Fld := ⟨.CST_SCRUB_CTL, 3, 3⟩
def CST_SCRUB_CTL.EVT : Fld := ⟨.CST_SCRUB_CTL, 4, 4⟩
def CST_SCRUB_CTL.EVQ : Fld := ⟨.CST_SCRUB_CTL, 7, 5⟩
def CST_SCRUB_CTL.STATUS : Fld := ⟨.CST_SCRUB_CTL, 9, 8⟩
def CST_SCRUB_BASE.BASE : Fld := ⟨.CST_SCRUB_BASE, 39, 0⟩
def CST_SCRUB_LEN.LEN : Fld := ⟨.CST_SCRUB_LEN, 39, 0⟩
def CST_SCRUB_PROG.PROG : Fld := ⟨.CST_SCRUB_PROG, 39, 0⟩
def CST_SCRUB_CNT.CORR : Fld := ⟨.CST_SCRUB_CNT, 31, 0⟩
def CST_SCRUB_CNT.UNCORR : Fld := ⟨.CST_SCRUB_CNT, 63, 32⟩
def CST_SCRUB_FIRST.ADDR : Fld := ⟨.CST_SCRUB_FIRST, 39, 0⟩
def CST_SCRUB_LAST.ADDR : Fld := ⟨.CST_SCRUB_LAST, 39, 0⟩
def CST_SCRUB_DUR.DUR : Fld := ⟨.CST_SCRUB_DUR, 31, 0⟩
def CST_SCRUB_DUR.PSN : Fld := ⟨.CST_SCRUB_DUR, 63, 32⟩
def CST_HECC.CE : Fld := ⟨.CST_HECC, 15, 0⟩
def CST_HECC.UE : Fld := ⟨.CST_HECC, 31, 16⟩
def CST_HECC.OFFS : Fld := ⟨.CST_HECC, 52, 32⟩
def CST_HECC.WASUE : Fld := ⟨.CST_HECC, 53, 53⟩
def CST_CGATE.VALUE : Fld := ⟨.CST_CGATE, 31, 0⟩
def CST_CGATE.WAITERS : Fld := ⟨.CST_CGATE, 40, 32⟩
def CST_CGATE.OVF : Fld := ⟨.CST_CGATE, 41, 41⟩
def CST_CGATE.DIRTY : Fld := ⟨.CST_CGATE, 42, 42⟩
def CST_CGATE.LASTSRC : Fld := ⟨.CST_CGATE, 63, 48⟩
def CST_CCHK0.PART : Fld := ⟨.CST_CCHK0, 8, 0⟩
def CST_CCHK0.CNT0 : Fld := ⟨.CST_CCHK0, 24, 16⟩
def CST_CCHK0.CNT1 : Fld := ⟨.CST_CCHK0, 40, 32⟩
def CST_CCHK0.DIRTY : Fld := ⟨.CST_CCHK0, 41, 41⟩
def CST_CCHK1.ROUND : Fld := ⟨.CST_CCHK1, 31, 0⟩
def CST_CCHK1.DEP : Fld := ⟨.CST_CCHK1, 32, 32⟩
def CST_CCHK1.LEFT : Fld := ⟨.CST_CCHK1, 41, 33⟩
def CST_CCHK1.HELD : Fld := ⟨.CST_CCHK1, 49, 42⟩
def CST_CCHK1.EARLY : Fld := ⟨.CST_CCHK1, 63, 50⟩
def CST_MGATE.VALUE : Fld := ⟨.CST_MGATE, 31, 0⟩
def CST_MGATE.WAITERS : Fld := ⟨.CST_MGATE, 40, 32⟩
def CST_MGATE.OVF : Fld := ⟨.CST_MGATE, 41, 41⟩
def CST_MGATE.DIRTY : Fld := ⟨.CST_MGATE, 42, 42⟩
def CST_MGATE.LASTSRC : Fld := ⟨.CST_MGATE, 63, 48⟩
def CST_MCHK0.PART : Fld := ⟨.CST_MCHK0, 8, 0⟩
def CST_MCHK0.CNT0 : Fld := ⟨.CST_MCHK0, 24, 16⟩
def CST_MCHK0.CNT1 : Fld := ⟨.CST_MCHK0, 40, 32⟩
def CST_MCHK0.DIRTY : Fld := ⟨.CST_MCHK0, 41, 41⟩
def CST_MCHK1.ROUND : Fld := ⟨.CST_MCHK1, 31, 0⟩
def CST_MCHK1.DEP : Fld := ⟨.CST_MCHK1, 32, 32⟩
def CST_MCHK1.LEFT : Fld := ⟨.CST_MCHK1, 41, 33⟩
def CST_MCHK1.HELD : Fld := ⟨.CST_MCHK1, 49, 42⟩
def CST_MCHK1.EARLY : Fld := ⟨.CST_MCHK1, 63, 50⟩
def HBM_ECC_BKT.DEPTH : Fld := ⟨.HBM_ECC_BKT, 15, 0⟩
def HBM_ECC_BKT.LEAK : Fld := ⟨.HBM_ECC_BKT, 31, 16⟩
def HBM_ECC_BKT.LEVEL : Fld := ⟨.HBM_ECC_BKT, 47, 32⟩
def HBM_ECC_BKT.OVF : Fld := ⟨.HBM_ECC_BKT, 48, 48⟩
def HBM_ECC_CNT.CE : Fld := ⟨.HBM_ECC_CNT, 31, 0⟩
def HBM_ECC_CNT.UE : Fld := ⟨.HBM_ECC_CNT, 63, 32⟩
def HBM_ECC_MISS.MISSED : Fld := ⟨.HBM_ECC_MISS, 15, 0⟩
def HBM_ECC_LOG0.ADDR : Fld := ⟨.HBM_ECC_LOG0, 39, 0⟩
def HBM_ECC_LOG0.UE : Fld := ⟨.HBM_ECC_LOG0, 40, 40⟩
def HBM_ECC_LOG0.VALID : Fld := ⟨.HBM_ECC_LOG0, 41, 41⟩
def HBM_ECC_LOG0.REPEAT : Fld := ⟨.HBM_ECC_LOG0, 63, 48⟩
def HBM_ECC_LOG1.STAMP : Fld := ⟨.HBM_ECC_LOG1, 31, 0⟩
def HBM_ECC_LOG1.SRC : Fld := ⟨.HBM_ECC_LOG1, 47, 32⟩
def HBM_SCRUB_CTL.GO : Fld := ⟨.HBM_SCRUB_CTL, 0, 0⟩
def HBM_SCRUB_CTL.RESUME : Fld := ⟨.HBM_SCRUB_CTL, 1, 1⟩
def HBM_SCRUB_CTL.ABORT : Fld := ⟨.HBM_SCRUB_CTL, 2, 2⟩
def HBM_SCRUB_CTL.BUSY : Fld := ⟨.HBM_SCRUB_CTL, 3, 3⟩
def HBM_SCRUB_CTL.EVT : Fld := ⟨.HBM_SCRUB_CTL, 4, 4⟩
def HBM_SCRUB_CTL.EVQ : Fld := ⟨.HBM_SCRUB_CTL, 7, 5⟩
def HBM_SCRUB_CTL.STATUS : Fld := ⟨.HBM_SCRUB_CTL, 9, 8⟩
def HBM_SCRUB_BASE.BASE : Fld := ⟨.HBM_SCRUB_BASE, 39, 0⟩
def HBM_SCRUB_LEN.LEN : Fld := ⟨.HBM_SCRUB_LEN, 39, 0⟩
def HBM_SCRUB_PROG.PROG : Fld := ⟨.HBM_SCRUB_PROG, 39, 0⟩
def HBM_SCRUB_CNT.CORR : Fld := ⟨.HBM_SCRUB_CNT, 31, 0⟩
def HBM_SCRUB_CNT.UNCORR : Fld := ⟨.HBM_SCRUB_CNT, 63, 32⟩
def HBM_SCRUB_FIRST.ADDR : Fld := ⟨.HBM_SCRUB_FIRST, 39, 0⟩
def HBM_SCRUB_LAST.ADDR : Fld := ⟨.HBM_SCRUB_LAST, 39, 0⟩
def HBM_SCRUB_DUR.DUR : Fld := ⟨.HBM_SCRUB_DUR, 31, 0⟩
def HBM_SCRUB_DUR.PSN : Fld := ⟨.HBM_SCRUB_DUR, 63, 32⟩
def ING_CH_CTL.EN : Fld := ⟨.ING_CH_CTL, 0, 0⟩
def ING_CH_CTL.ABORT : Fld := ⟨.ING_CH_CTL, 1, 1⟩
def ING_CH_CTL.GEAR : Fld := ⟨.ING_CH_CTL, 3, 2⟩
def ING_CH_CTL.POC : Fld := ⟨.ING_CH_CTL, 4, 4⟩
def ING_CH_CTL.PIPE : Fld := ⟨.ING_CH_CTL, 6, 5⟩
def ING_CH_CTL.VC : Fld := ⟨.ING_CH_CTL, 10, 7⟩
def ING_CH_CTL.DT : Fld := ⟨.ING_CH_CTL, 16, 11⟩
def ING_CH_CTL.CFA : Fld := ⟨.ING_CH_CTL, 19, 17⟩
def ING_CH_CTL.OFMT : Fld := ⟨.ING_CH_CTL, 21, 20⟩
def ING_CH_CTL.NLVL : Fld := ⟨.ING_CH_CTL, 24, 22⟩
def ING_CH_CTL.F15 : Fld := ⟨.ING_CH_CTL, 29, 25⟩
def ING_CH_CTL.FULLFROM : Fld := ⟨.ING_CH_CTL, 32, 30⟩
def ING_CH_CTL.RGL : Fld := ⟨.ING_CH_CTL, 35, 33⟩
def ING_CH_CTL.STRIPE : Fld := ⟨.ING_CH_CTL, 41, 36⟩
def ING_CH_CTL.NB : Fld := ⟨.ING_CH_CTL, 44, 42⟩
def ING_CH_GEOM.W0 : Fld := ⟨.ING_CH_GEOM, 15, 0⟩
def ING_CH_GEOM.H0 : Fld := ⟨.ING_CH_GEOM, 31, 16⟩
def ING_CH_GEOM.MARGIN : Fld := ⟨.ING_CH_GEOM, 39, 32⟩
def ING_CH_GEOM.BSTRIDE : Fld := ⟨.ING_CH_GEOM, 63, 40⟩
def ING_CH_BL.BL0 : Fld := ⟨.ING_CH_BL, 15, 0⟩
def ING_CH_BL.BL1 : Fld := ⟨.ING_CH_BL, 31, 16⟩
def ING_CH_BL.BL2 : Fld := ⟨.ING_CH_BL, 47, 32⟩
def ING_CH_BL.BL3 : Fld := ⟨.ING_CH_BL, 63, 48⟩
def ING_CH_CCM.V0 : Fld := ⟨.ING_CH_CCM, 15, 0⟩
def ING_CH_CCM.V1 : Fld := ⟨.ING_CH_CCM, 31, 16⟩
def ING_CH_CCM.V2 : Fld := ⟨.ING_CH_CCM, 47, 32⟩
def ING_CH_CCM.V3 : Fld := ⟨.ING_CH_CCM, 63, 48⟩
def ING_CH_BASE.BASE : Fld := ⟨.ING_CH_BASE, 39, 0⟩
def ING_CH_PTR.WR : Fld := ⟨.ING_CH_PTR, 7, 0⟩
def ING_CH_PTR.RD : Fld := ⟨.ING_CH_PTR, 15, 8⟩
def ING_CH_PTR.STATE : Fld := ⟨.ING_CH_PTR, 17, 16⟩
def ING_CH_PTR.HELD : Fld := ⟨.ING_CH_PTR, 19, 18⟩
def ING_CH_GATE.RGATE : Fld := ⟨.ING_CH_GATE, 20, 0⟩
def ING_CH_GATE.FGATE : Fld := ⟨.ING_CH_GATE, 41, 21⟩
def ING_CH_GATE.RGEN : Fld := ⟨.ING_CH_GATE, 42, 42⟩
def ING_CH_GATE.FGEN : Fld := ⟨.ING_CH_GATE, 43, 43⟩
def ING_CH_STAT.DROPPED : Fld := ⟨.ING_CH_STAT, 15, 0⟩
def ING_CH_STAT.BADROWS : Fld := ⟨.ING_CH_STAT, 31, 16⟩
def ING_CH_STAT.ECCFIX : Fld := ⟨.ING_CH_STAT, 47, 32⟩
def ING_CH_STAT.ECCBAD : Fld := ⟨.ING_CH_STAT, 63, 48⟩
def ING_CH_LINK.LOCK : Fld := ⟨.ING_CH_LINK, 0, 0⟩
def ING_CH_LINK.GEARNOW : Fld := ⟨.ING_CH_LINK, 2, 1⟩
def ING_CH_LINK.POCST : Fld := ⟨.ING_CH_LINK, 4, 3⟩
def ING_CH_LINK.OTHER : Fld := ⟨.ING_CH_LINK, 31, 16⟩
def ING_STEER.ADDR : Fld := ⟨.ING_STEER, 39, 0⟩
def ING_STEER.N : Fld := ⟨.ING_STEER, 46, 40⟩
def ING_STEER.BUSY : Fld := ⟨.ING_STEER, 47, 47⟩
def ING_STEER.GO : Fld := ⟨.ING_STEER, 48, 48⟩
def ING_CH_FRZ.EN : Fld := ⟨.ING_CH_FRZ, 0, 0⟩
def ING_CH_FRZ.N : Fld := ⟨.ING_CH_FRZ, 4, 1⟩
def ING_FB_CTL.EN : Fld := ⟨.ING_FB_CTL, 0, 0⟩
def ING_FB_CTL.ABORT : Fld := ⟨.ING_FB_CTL, 1, 1⟩
def ING_FB_CTL.LOW : Fld := ⟨.ING_FB_CTL, 7, 2⟩
def ING_FB_CTL.BMUL : Fld := ⟨.ING_FB_CTL, 15, 8⟩
def ING_FB_CTL.FLOOR : Fld := ⟨.ING_FB_CTL, 31, 16⟩
def ING_FB_CTL.EVQ : Fld := ⟨.ING_FB_CTL, 34, 32⟩
def ING_FB_CTL.STATE : Fld := ⟨.ING_FB_CTL, 36, 35⟩
def ING_FB_BASE.BASE : Fld := ⟨.ING_FB_BASE, 39, 0⟩
def ING_FB_BASE.SLOTSZ : Fld := ⟨.ING_FB_BASE, 63, 40⟩
def ING_FB_CMD.ADDR : Fld := ⟨.ING_FB_CMD, 39, 0⟩
def ING_FB_CMD.SLOT : Fld := ⟨.ING_FB_CMD, 44, 40⟩
def ING_FB_CMD.OP : Fld := ⟨.ING_FB_CMD, 46, 45⟩
def ING_FB_TAKE.SLOT : Fld := ⟨.ING_FB_TAKE, 4, 0⟩
def ING_FB_TAKE.FOUND : Fld := ⟨.ING_FB_TAKE, 5, 5⟩
def ING_FB_STAT.READY : Fld := ⟨.ING_FB_STAT, 5, 0⟩
def ING_FB_STAT.FILLING : Fld := ⟨.ING_FB_STAT, 11, 6⟩
def ING_FB_STAT.TAKEN : Fld := ⟨.ING_FB_STAT, 17, 12⟩
def ING_FB_STAT.ALM : Fld := ⟨.ING_FB_STAT, 18, 18⟩
def ING_FB_STAT.REFUSED : Fld := ⟨.ING_FB_STAT, 47, 32⟩
def ING_FB_STAT.LATE : Fld := ⟨.ING_FB_STAT, 63, 48⟩
def ING_TOK_TRIE.BASE : Fld := ⟨.ING_TOK_TRIE, 39, 0⟩
def ING_TOK_TRIE.NNODES : Fld := ⟨.ING_TOK_TRIE, 61, 40⟩
def SLV_CTL.EVQ : Fld := ⟨.SLV_CTL, 2, 0⟩
def SLV_LANE_CTL.EN : Fld := ⟨.SLV_LANE_CTL, 0, 0⟩
def SLV_LANE_CTL.ABORT : Fld := ⟨.SLV_LANE_CTL, 1, 1⟩
def SLV_LANE_CTL.GSZ : Fld := ⟨.SLV_LANE_CTL, 3, 2⟩
def SLV_LANE_CTL.ENTRY : Fld := ⟨.SLV_LANE_CTL, 53, 32⟩
def SLV_LANE_STAT.STATE : Fld := ⟨.SLV_LANE_STAT, 1, 0⟩
def SLV_LANE_STAT.MEMBER : Fld := ⟨.SLV_LANE_STAT, 2, 2⟩
def SLV_LANE_STAT.WAITING : Fld := ⟨.SLV_LANE_STAT, 3, 3⟩
def SLV_LANE_STAT.BUSY : Fld := ⟨.SLV_LANE_STAT, 4, 4⟩
def SLV_LANE_STAT.FIFO : Fld := ⟨.SLV_LANE_STAT, 8, 5⟩
def SLV_LANE_STAT.LASTCODE : Fld := ⟨.SLV_LANE_STAT, 23, 16⟩
def SLV_DOOR.OFF : Fld := ⟨.SLV_DOOR, 21, 0⟩
def SLV_LANE_CNT.DONE : Fld := ⟨.SLV_LANE_CNT, 31, 0⟩
def SLV_LANE_CNT.DLINE : Fld := ⟨.SLV_LANE_CNT, 47, 32⟩
def SLV_LANE_CNT.REFUSED : Fld := ⟨.SLV_LANE_CNT, 63, 48⟩
def SRV_CTL.EVQ : Fld := ⟨.SRV_CTL, 2, 0⟩
def SRV_INJ_CTL.GO : Fld := ⟨.SRV_INJ_CTL, 0, 0⟩
def SRV_INJ_CTL.STOP : Fld := ⟨.SRV_INJ_CTL, 1, 1⟩
def SRV_INJ_CTL.BUSY : Fld := ⟨.SRV_INJ_CTL, 2, 2⟩
def SRV_INJ_CTL.LOOP : Fld := ⟨.SRV_INJ_CTL, 10, 3⟩
def SRV_INJ_CTL.POINT : Fld := ⟨.SRV_INJ_CTL, 12, 11⟩
def SRV_INJ_CTL.WAVE : Fld := ⟨.SRV_INJ_CTL, 15, 13⟩
def SRV_INJ_CTL.ORDER : Fld := ⟨.SRV_INJ_CTL, 20, 16⟩
def SRV_INJ_CTL.NSAMP : Fld := ⟨.SRV_INJ_CTL, 63, 32⟩
def SRV_INJ_P.AMP : Fld := ⟨.SRV_INJ_P, 31, 0⟩
def SRV_INJ_P.INC0 : Fld := ⟨.SRV_INJ_P, 63, 32⟩
def SRV_INJ_PRBS.SEED : Fld := ⟨.SRV_INJ_PRBS, 30, 0⟩
def SRV_INJ_PRBS.TAPS : Fld := ⟨.SRV_INJ_PRBS, 62, 32⟩
def SRV_INJ_SWP.INC1 : Fld := ⟨.SRV_INJ_SWP, 31, 0⟩
def SRV_INJ_SWP.DWELL : Fld := ⟨.SRV_INJ_SWP, 47, 32⟩
def SRV_INJ_SWP.NSTEP : Fld := ⟨.SRV_INJ_SWP, 63, 48⟩
def SRV_CAP_CTL.GO : Fld := ⟨.SRV_CAP_CTL, 0, 0⟩
def SRV_CAP_CTL.STOP : Fld := ⟨.SRV_CAP_CTL, 1, 1⟩
def SRV_CAP_CTL.BUSY : Fld := ⟨.SRV_CAP_CTL, 2, 2⟩
def SRV_CAP_CTL.SYNC : Fld := ⟨.SRV_CAP_CTL, 3, 3⟩
def SRV_CAP_CTL.LOOP : Fld := ⟨.SRV_CAP_CTL, 11, 4⟩
def SRV_CAP_CTL.NCHM1 : Fld := ⟨.SRV_CAP_CTL, 15, 12⟩
def SRV_CAP_CTL.DEC : Fld := ⟨.SRV_CAP_CTL, 31, 16⟩
def SRV_CAP_CTL.NSAMP : Fld := ⟨.SRV_CAP_CTL, 48, 32⟩
def SRV_CAP_BASE.BASE : Fld := ⟨.SRV_CAP_BASE, 39, 0⟩
def SRV_CAP_STAT.T0 : Fld := ⟨.SRV_CAP_STAT, 31, 0⟩
def SRV_CAP_STAT.COUNT : Fld := ⟨.SRV_CAP_STAT, 48, 32⟩
def SRV_CAP_SEL.LOOP : Fld := ⟨.SRV_CAP_SEL, 7, 0⟩
def SRV_CAP_SEL.SIG : Fld := ⟨.SRV_CAP_SEL, 10, 8⟩
def SRV_SPI.EN : Fld := ⟨.SRV_SPI, 0, 0⟩
def SRV_SPI.MODE : Fld := ⟨.SRV_SPI, 2, 1⟩
def SRV_SPI.DIV : Fld := ⟨.SRV_SPI, 10, 3⟩
def SRV_SPI.TXLEN : Fld := ⟨.SRV_SPI, 14, 11⟩
def SRV_SPI.RXLEN : Fld := ⟨.SRV_SPI, 20, 15⟩
def SRV_SPI.SPER : Fld := ⟨.SRV_SPI, 63, 32⟩
def SRV_SPI_TX.TX : Fld := ⟨.SRV_SPI_TX, 63, 0⟩
def SRV_LP_CTL.EN : Fld := ⟨.SRV_LP_CTL, 0, 0⟩
def SRV_LP_CTL.ABORT : Fld := ⟨.SRV_LP_CTL, 1, 1⟩
def SRV_LP_CTL.NSTAGE : Fld := ⟨.SRV_LP_CTL, 5, 2⟩
def SRV_LP_CTL.PARENT : Fld := ⟨.SRV_LP_CTL, 13, 6⟩
def SRV_LP_CTL.FFM : Fld := ⟨.SRV_LP_CTL, 15, 14⟩
def SRV_LP_CTL.AW : Fld := ⟨.SRV_LP_CTL, 17, 16⟩
def SRV_LP_CTL.STALEPOL : Fld := ⟨.SRV_LP_CTL, 19, 18⟩
def SRV_LP_CTL.SAFEPOL : Fld := ⟨.SRV_LP_CTL, 20, 20⟩
def SRV_LP_CTL.NSTALE : Fld := ⟨.SRV_LP_CTL, 24, 21⟩
def SRV_LP_CTL.STATE : Fld := ⟨.SRV_LP_CTL, 26, 25⟩
def SRV_LP_TIME.PER : Fld := ⟨.SRV_LP_TIME, 31, 0⟩
def SRV_LP_TIME.START : Fld := ⟨.SRV_LP_TIME, 63, 32⟩
def SRV_LP_LOFF.LOFF : Fld := ⟨.SRV_LP_LOFF, 31, 0⟩
def SRV_LP_IN.B : Fld := ⟨.SRV_LP_IN, 63, 0⟩
def SRV_LP_SPB.B : Fld := ⟨.SRV_LP_SPB, 63, 0⟩
def SRV_LP_FFB.B : Fld := ⟨.SRV_LP_FFB, 63, 0⟩
def SRV_LP_OUT.B : Fld := ⟨.SRV_LP_OUT, 63, 0⟩
def SRV_LP_GATE.EGATE : Fld := ⟨.SRV_LP_GATE, 20, 0⟩
def SRV_LP_GATE.EGEN : Fld := ⟨.SRV_LP_GATE, 21, 21⟩
def SRV_LP_GATE.EAMT : Fld := ⟨.SRV_LP_GATE, 63, 32⟩
def SRV_LP_MODE.MODE : Fld := ⟨.SRV_LP_MODE, 0, 0⟩
def SRV_LP_MODE.MODENOW : Fld := ⟨.SRV_LP_MODE, 1, 1⟩
def SRV_LP_SP.SP : Fld := ⟨.SRV_LP_SP, 31, 0⟩
def SRV_LP_SP.MANUAL : Fld := ⟨.SRV_LP_SP, 63, 32⟩
def SRV_LP_GAIN.KI : Fld := ⟨.SRV_LP_GAIN, 31, 0⟩
def SRV_LP_GAIN.KB : Fld := ⟨.SRV_LP_GAIN, 63, 32⟩
def SRV_LP_FF.KA : Fld := ⟨.SRV_LP_FF, 31, 0⟩
def SRV_LP_FF.VNOM : Fld := ⟨.SRV_LP_FF, 63, 32⟩
def SRV_LP_LIM.UMIN : Fld := ⟨.SRV_LP_LIM, 31, 0⟩
def SRV_LP_LIM.UMAX : Fld := ⟨.SRV_LP_LIM, 63, 32⟩
def SRV_LP_RATE.RMAX : Fld := ⟨.SRV_LP_RATE, 31, 0⟩
def SRV_LP_RATE.SAFEVAL : Fld := ⟨.SRV_LP_RATE, 63, 32⟩
def SRV_LP_CNT.STALE : Fld := ⟨.SRV_LP_CNT, 15, 0⟩
def SRV_LP_CNT.OVR : Fld := ⟨.SRV_LP_CNT, 31, 16⟩
def SRV_LP_CNT.SAT : Fld := ⟨.SRV_LP_CNT, 47, 32⟩
def SRV_LP_CNT.LATE : Fld := ⟨.SRV_LP_CNT, 63, 48⟩
def SRV_LP_VAL.I : Fld := ⟨.SRV_LP_VAL, 31, 0⟩
def SRV_LP_VAL.U : Fld := ⟨.SRV_LP_VAL, 63, 32⟩
def SRV_LP_COEF0.B0 : Fld := ⟨.SRV_LP_COEF0, 23, 0⟩
def SRV_LP_COEF0.B1 : Fld := ⟨.SRV_LP_COEF0, 47, 24⟩
def SRV_LP_COEF0.CE : Fld := ⟨.SRV_LP_COEF0, 55, 48⟩
def SRV_LP_COEF1.B2 : Fld := ⟨.SRV_LP_COEF1, 23, 0⟩
def SRV_LP_COEF1.A1 : Fld := ⟨.SRV_LP_COEF1, 47, 24⟩
def SRV_LP_COEF2.A2 : Fld := ⟨.SRV_LP_COEF2, 23, 0⟩
def SRV_LP_STATE0.X1 : Fld := ⟨.SRV_LP_STATE0, 23, 0⟩
def SRV_LP_STATE0.X2 : Fld := ⟨.SRV_LP_STATE0, 47, 24⟩
def SRV_LP_STATE0.SE : Fld := ⟨.SRV_LP_STATE0, 55, 48⟩
def SRV_LP_STATE1.Y1 : Fld := ⟨.SRV_LP_STATE1, 23, 0⟩
def SRV_LP_STATE1.Y2 : Fld := ⟨.SRV_LP_STATE1, 47, 24⟩
def CB_CTL.EN : Fld := ⟨.CB_CTL, 0, 0⟩
def CB_CTL.ABORT : Fld := ⟨.CB_CTL, 1, 1⟩
def CB_CTL.MODE : Fld := ⟨.CB_CTL, 3, 2⟩
def CB_CTL.FDEN : Fld := ⟨.CB_CTL, 4, 4⟩
def CB_CTL.BRSEN : Fld := ⟨.CB_CTL, 5, 5⟩
def CB_CTL.PEX : Fld := ⟨.CB_CTL, 6, 6⟩
def CB_CTL.AUTOREC : Fld := ⟨.CB_CTL, 7, 7⟩
def CB_CTL.RECOVER : Fld := ⟨.CB_CTL, 8, 8⟩
def CB_CTL.EVQ : Fld := ⟨.CB_CTL, 11, 9⟩
def CB_CTL.STATE : Fld := ⟨.CB_CTL, 13, 12⟩
def CB_NBT.NBRP : Fld := ⟨.CB_NBT, 7, 0⟩
def CB_NBT.NTSEG1 : Fld := ⟨.CB_NBT, 15, 8⟩
def CB_NBT.NTSEG2 : Fld := ⟨.CB_NBT, 22, 16⟩
def CB_NBT.NSJW : Fld := ⟨.CB_NBT, 29, 23⟩
def CB_DBT.DBRP : Fld := ⟨.CB_DBT, 4, 0⟩
def CB_DBT.DTSEG1 : Fld := ⟨.CB_DBT, 12, 8⟩
def CB_DBT.DTSEG2 : Fld := ⟨.CB_DBT, 19, 16⟩
def CB_DBT.DSJW : Fld := ⟨.CB_DBT, 23, 20⟩
def CB_DBT.TDCEN : Fld := ⟨.CB_DBT, 24, 24⟩
def CB_DBT.TDCO : Fld := ⟨.CB_DBT, 31, 25⟩
def CB_STAT.TEC : Fld := ⟨.CB_STAT, 7, 0⟩
def CB_STAT.REC : Fld := ⟨.CB_STAT, 14, 8⟩
def CB_STAT.EST : Fld := ⟨.CB_STAT, 17, 16⟩
def CB_STAT.TSOVF : Fld := ⟨.CB_STAT, 18, 18⟩
def CB_STAT.QREF : Fld := ⟨.CB_STAT, 47, 32⟩
def CB_TXTS.FRAMEID : Fld := ⟨.CB_TXTS, 15, 0⟩
def CB_TXTS.VALID : Fld := ⟨.CB_TXTS, 16, 16⟩
def CB_TXTS.STAMP : Fld := ⟨.CB_TXTS, 63, 32⟩
def CB_PHY.SWAP : Fld := ⟨.CB_PHY, 0, 0⟩
def CB_PHY.MEAS : Fld := ⟨.CB_PHY, 1, 1⟩
def CB_PHY.CLR : Fld := ⟨.CB_PHY, 2, 2⟩
def CB_PHY.MBUSY : Fld := ⟨.CB_PHY, 3, 3⟩
def CB_PHY.FAULT : Fld := ⟨.CB_PHY, 7, 4⟩
def CB_PHY.TERM : Fld := ⟨.CB_PHY, 10, 8⟩
def CB_PHY.SWAPDET : Fld := ⟨.CB_PHY, 11, 11⟩
def CB_PHY.RTERM : Fld := ⟨.CB_PHY, 31, 16⟩
def CB_PHY.MPER : Fld := ⟨.CB_PHY, 47, 32⟩
def CB_CNT.NOMATCH : Fld := ⟨.CB_CNT, 15, 0⟩
def CB_CNT.LATE : Fld := ⟨.CB_CNT, 31, 16⟩
def CB_CNT.SUPER : Fld := ⟨.CB_CNT, 47, 32⟩
def CB_CNT.EXPIRED : Fld := ⟨.CB_CNT, 63, 48⟩
def CB_SAFE.MBX : Fld := ⟨.CB_SAFE, 6, 0⟩
def CB_SAFE.EN : Fld := ⟨.CB_SAFE, 7, 7⟩
def CB_MBX_CTL.EN : Fld := ⟨.CB_MBX_CTL, 0, 0⟩
def CB_MBX_CTL.DIR : Fld := ⟨.CB_MBX_CTL, 1, 1⟩
def CB_MBX_CTL.ONESHOT : Fld := ⟨.CB_MBX_CTL, 2, 2⟩
def CB_MBX_CTL.TSREQ : Fld := ⟨.CB_MBX_CTL, 3, 3⟩
def CB_MBX_CTL.LTEN : Fld := ⟨.CB_MBX_CTL, 4, 4⟩
def CB_MBX_ID.IDF : Fld := ⟨.CB_MBX_ID, 28, 0⟩
def CB_MBX_ID.IDE : Fld := ⟨.CB_MBX_ID, 29, 29⟩
def CB_MBX_ID.RTR : Fld := ⟨.CB_MBX_ID, 30, 30⟩
def CB_MBX_ID.FDF : Fld := ⟨.CB_MBX_ID, 31, 31⟩
def CB_MBX_ID.BRS : Fld := ⟨.CB_MBX_ID, 32, 32⟩
def CB_MBX_ID.DLC : Fld := ⟨.CB_MBX_ID, 36, 33⟩
def CB_MBX_ID.FRAMEID : Fld := ⟨.CB_MBX_ID, 63, 48⟩
def CB_MBX_MASK.IDM : Fld := ⟨.CB_MBX_MASK, 28, 0⟩
def CB_MBX_MASK.FDFM : Fld := ⟨.CB_MBX_MASK, 30, 29⟩
def CB_MBX_MASK.RTRM : Fld := ⟨.CB_MBX_MASK, 31, 31⟩
def CB_MBX_LT.LT : Fld := ⟨.CB_MBX_LT, 31, 0⟩
def CB_MBX_LT.EXP : Fld := ⟨.CB_MBX_LT, 47, 32⟩
def CB_MBX_CMD.QUEUE : Fld := ⟨.CB_MBX_CMD, 0, 0⟩
def CB_MBX_CMD.CANCEL : Fld := ⟨.CB_MBX_CMD, 1, 1⟩
def CB_MBX_CMD.LOCK : Fld := ⟨.CB_MBX_CMD, 2, 2⟩
def CB_MBX_STAT.CODE : Fld := ⟨.CB_MBX_STAT, 3, 0⟩
def CB_MBX_STAT.REASON : Fld := ⟨.CB_MBX_STAT, 7, 4⟩
def CB_MBX_STAT.NEW : Fld := ⟨.CB_MBX_STAT, 8, 8⟩
def CB_MBX_STAT.SHADOW : Fld := ⟨.CB_MBX_STAT, 9, 9⟩
def CB_MBX_STAT.OVR : Fld := ⟨.CB_MBX_STAT, 31, 16⟩
def CB_MBX_STAT.STAMP : Fld := ⟨.CB_MBX_STAT, 63, 32⟩
def CB_MBX_RXID.ID : Fld := ⟨.CB_MBX_RXID, 36, 0⟩
def CB_MBX_DATA.D : Fld := ⟨.CB_MBX_DATA, 63, 0⟩
def ETH_CTL.EN : Fld := ⟨.ETH_CTL, 0, 0⟩
def ETH_CTL.ABORT : Fld := ⟨.ETH_CTL, 1, 1⟩
def ETH_CTL.ROLE : Fld := ⟨.ETH_CTL, 2, 2⟩
def ETH_CTL.PROMISC : Fld := ⟨.ETH_CTL, 3, 3⟩
def ETH_CTL.MCDROP : Fld := ⟨.ETH_CTL, 4, 4⟩
def ETH_CTL.MAXLEN : Fld := ⟨.ETH_CTL, 18, 5⟩
def ETH_CTL.EVQ : Fld := ⟨.ETH_CTL, 21, 19⟩
def ETH_CTL.STATE : Fld := ⟨.ETH_CTL, 23, 22⟩
def ETH_MAC.MAC : Fld := ⟨.ETH_MAC, 47, 0⟩
def ETH_LAT.TXLAT : Fld := ⟨.ETH_LAT, 15, 0⟩
def ETH_LAT.RXLAT : Fld := ⟨.ETH_LAT, 31, 16⟩
def ETH_LINK.LINK : Fld := ⟨.ETH_LINK, 0, 0⟩
def ETH_LINK.POLREV : Fld := ⟨.ETH_LINK, 1, 1⟩
def ETH_LINK.DISC : Fld := ⟨.ETH_LINK, 47, 32⟩
def ETH_RXCLS.ETYPE1 : Fld := ⟨.ETH_RXCLS, 15, 0⟩
def ETH_TXQ0.BASE : Fld := ⟨.ETH_TXQ0, 39, 0⟩
def ETH_TXQ1.TAIL : Fld := ⟨.ETH_TXQ1, 7, 0⟩
def ETH_TXQ1.HEAD : Fld := ⟨.ETH_TXQ1, 15, 8⟩
def ETH_TXQ1.EN : Fld := ⟨.ETH_TXQ1, 16, 16⟩
def ETH_RXQ0.BASE : Fld := ⟨.ETH_RXQ0, 39, 0⟩
def ETH_RXQ0.BUFSZ : Fld := ⟨.ETH_RXQ0, 47, 40⟩
def ETH_RXQ1.TAIL : Fld := ⟨.ETH_RXQ1, 7, 0⟩
def ETH_RXQ1.HEAD : Fld := ⟨.ETH_RXQ1, 15, 8⟩
def ETH_RXQ2.GATE : Fld := ⟨.ETH_RXQ2, 20, 0⟩
def ETH_RXQ2.GEN : Fld := ⟨.ETH_RXQ2, 21, 21⟩
def ETH_TXTS.FRAMEID : Fld := ⟨.ETH_TXTS, 15, 0⟩
def ETH_TXTS.VALID : Fld := ⟨.ETH_TXTS, 16, 16⟩
def ETH_TXTS.STAMP : Fld := ⟨.ETH_TXTS, 63, 32⟩
def ETH_STAT.TSOVF : Fld := ⟨.ETH_STAT, 0, 0⟩
def ETH_STAT.OVR : Fld := ⟨.ETH_STAT, 31, 16⟩
def ETH_STAT.LATE : Fld := ⟨.ETH_STAT, 47, 32⟩
def ETH_STAT.LINKDOWN : Fld := ⟨.ETH_STAT, 63, 48⟩
def ETH_RXSV0.ETYPE : Fld := ⟨.ETH_RXSV0, 15, 0⟩
def ETH_RXSV0.MOFF : Fld := ⟨.ETH_RXSV0, 21, 16⟩
def ETH_RXSV0.EN : Fld := ⟨.ETH_RXSV0, 22, 22⟩
def ETH_RXSV0.COPY : Fld := ⟨.ETH_RXSV0, 23, 23⟩
def ETH_RXSV1.MVAL : Fld := ⟨.ETH_RXSV1, 31, 0⟩
def ETH_RXSV1.MMASK : Fld := ⟨.ETH_RXSV1, 63, 32⟩
def ETH_SVSTAT.SUPER : Fld := ⟨.ETH_SVSTAT, 15, 0⟩
def ETH_SVSTAT.QREF : Fld := ⟨.ETH_SVSTAT, 31, 16⟩
def ETH_TXSVC.TAGGED : Fld := ⟨.ETH_TXSVC, 0, 0⟩
def ETH_TXSVC.TSREQ : Fld := ⟨.ETH_TXSVC, 1, 1⟩
def ETH_TXSVC.EN : Fld := ⟨.ETH_TXSVC, 2, 2⟩
def ETH_TXSV.T : Fld := ⟨.ETH_TXSV, 63, 0⟩
def DVL_GRP.IDX : Fld := ⟨.DVL_GRP, 1, 0⟩
def DVL_GRP.SIZE : Fld := ⟨.DVL_GRP, 3, 2⟩
def DVL_GRP.GID : Fld := ⟨.DVL_GRP, 47, 16⟩
def DVL_CTL.EN : Fld := ⟨.DVL_CTL, 0, 0⟩
def DVL_CTL.ABORT : Fld := ⟨.DVL_CTL, 1, 1⟩
def DVL_CTL.DISC : Fld := ⟨.DVL_CTL, 2, 2⟩
def DVL_STAT.STATE : Fld := ⟨.DVL_STAT, 1, 0⟩
def DVL_STAT.PIDX : Fld := ⟨.DVL_STAT, 3, 2⟩
def DVL_STAT.REASON : Fld := ⟨.DVL_STAT, 7, 4⟩
def DVL_STAT.OFFSET : Fld := ⟨.DVL_STAT, 47, 16⟩
def DVL_RXWIN0.BASE : Fld := ⟨.DVL_RXWIN0, 39, 0⟩
def DVL_RXWIN1.LIMIT : Fld := ⟨.DVL_RXWIN1, 39, 0⟩
def DVL_ERR.FECCOR : Fld := ⟨.DVL_ERR, 31, 0⟩
def DVL_ERR.RETRY : Fld := ⟨.DVL_ERR, 47, 32⟩
def DVL_ERR.RXREF : Fld := ⟨.DVL_ERR, 63, 48⟩
def DRD_CTL.ARM : Fld := ⟨.DRD_CTL, 0, 0⟩
def DRD_CTL.EVQ : Fld := ⟨.DRD_CTL, 3, 1⟩
def DRD_CTL.FWWD : Fld := ⟨.DRD_CTL, 31, 16⟩
def DRD_SAFE.STATE : Fld := ⟨.DRD_SAFE, 0, 0⟩
def DRD_SAFE.FORCE : Fld := ⟨.DRD_SAFE, 1, 1⟩
def DRD_SAFE.OKNOW : Fld := ⟨.DRD_SAFE, 2, 2⟩
def DRD_SAFE.CLASS : Fld := ⟨.DRD_SAFE, 15, 8⟩
def DRD_SAFE.SRC : Fld := ⟨.DRD_SAFE, 31, 16⟩
def DRD_SAFE.STAMP : Fld := ⟨.DRD_SAFE, 63, 32⟩
def DRD_STAT.INBOXLOST : Fld := ⟨.DRD_STAT, 15, 0⟩
def DRD_STAT.STALEV : Fld := ⟨.DRD_STAT, 31, 16⟩
def DRD_STAT.WAITING : Fld := ⟨.DRD_STAT, 39, 32⟩
def DRD_ISO.SID : Fld := ⟨.DRD_ISO, 15, 0⟩
def DRD_REACT.REACT : Fld := ⟨.DRD_REACT, 1, 0⟩
def DRD_REACT.THRESH : Fld := ⟨.DRD_REACT, 15, 8⟩
def DRD_REACT.LEAK : Fld := ⟨.DRD_REACT, 31, 16⟩
def DRD_REACT.COUNT : Fld := ⟨.DRD_REACT, 47, 32⟩
def DRD_REACT.TOTAL : Fld := ⟨.DRD_REACT, 63, 48⟩
def DRD_WD0.EN : Fld := ⟨.DRD_WD0, 0, 0⟩
def DRD_WD0.MIN : Fld := ⟨.DRD_WD0, 30, 1⟩
def DRD_WD0.MAX : Fld := ⟨.DRD_WD0, 63, 32⟩
def DRD_WD1.LAST : Fld := ⟨.DRD_WD1, 31, 0⟩
def DRD_WD1.SRC : Fld := ⟨.DRD_WD1, 47, 32⟩
def DRD_WD1.RUN : Fld := ⟨.DRD_WD1, 48, 48⟩
def DRD_WD1.MISSES : Fld := ⟨.DRD_WD1, 63, 56⟩
def DRD_WD_CHK.W : Fld := ⟨.DRD_WD_CHK, 5, 0⟩
def DRD_GS0.EN : Fld := ⟨.DRD_GS0, 0, 0⟩
def DRD_GS0.KIND : Fld := ⟨.DRD_GS0, 2, 1⟩
def DRD_GS0.UNIT : Fld := ⟨.DRD_GS0, 5, 3⟩
def DRD_GS0.MBX : Fld := ⟨.DRD_GS0, 12, 6⟩
def DRD_GS0.SOFF : Fld := ⟨.DRD_GS0, 18, 13⟩
def DRD_GS0.FW : Fld := ⟨.DRD_GS0, 19, 19⟩
def DRD_GS0.ENV : Fld := ⟨.DRD_GS0, 20, 20⟩
def DRD_GS0.SEED : Fld := ⟨.DRD_GS0, 63, 48⟩
def DRD_GS1.BOFF : Fld := ⟨.DRD_GS1, 5, 0⟩
def DRD_GS1.FMT : Fld := ⟨.DRD_GS1, 7, 6⟩
def DRD_GS1.BE : Fld := ⟨.DRD_GS1, 8, 8⟩
def DRD_GS1.FEN : Fld := ⟨.DRD_GS1, 9, 9⟩
def DRD_GS1.RATE : Fld := ⟨.DRD_GS1, 63, 32⟩
def DRD_GS2.LO : Fld := ⟨.DRD_GS2, 31, 0⟩
def DRD_GS2.HI : Fld := ⟨.DRD_GS2, 63, 32⟩
def DRD_GS3.BOFF : Fld := ⟨.DRD_GS3, 5, 0⟩
def DRD_GS3.FMT : Fld := ⟨.DRD_GS3, 7, 6⟩
def DRD_GS3.BE : Fld := ⟨.DRD_GS3, 8, 8⟩
def DRD_GS3.FEN : Fld := ⟨.DRD_GS3, 9, 9⟩
def DRD_GS3.RATE : Fld := ⟨.DRD_GS3, 63, 32⟩
def DRD_GS4.LO : Fld := ⟨.DRD_GS4, 31, 0⟩
def DRD_GS4.HI : Fld := ⟨.DRD_GS4, 63, 32⟩
def DRD_GS5.MEAS : Fld := ⟨.DRD_GS5, 63, 0⟩
def DRD_GS6.PLO : Fld := ⟨.DRD_GS6, 31, 0⟩
def DRD_GS6.PHI : Fld := ⟨.DRD_GS6, 63, 32⟩
def DRD_GS7.CNT : Fld := ⟨.DRD_GS7, 7, 0⟩
def DRD_GS7.LAST : Fld := ⟨.DRD_GS7, 11, 8⟩
def DRD_GS7.NFAIL : Fld := ⟨.DRD_GS7, 31, 16⟩
def DRD_GS7.NSENT : Fld := ⟨.DRD_GS7, 63, 32⟩
def DRD_SLV0.RPMAX : Fld := ⟨.DRD_SLV0, 63, 0⟩
def DRD_SLV1.RDMAX : Fld := ⟨.DRD_SLV1, 63, 0⟩
def DRD_SLV_EN.EN : Fld := ⟨.DRD_SLV_EN, 63, 0⟩
def DRD_DIVJ.WORD : Fld := ⟨.DRD_DIVJ, 63, 0⟩
def DRD_DIV_CTL.GO : Fld := ⟨.DRD_DIV_CTL, 0, 0⟩
def DRD_DIV_CTL.BUSY : Fld := ⟨.DRD_DIV_CTL, 1, 1⟩
def DRD_DIV_CTL.CODE : Fld := ⟨.DRD_DIV_CTL, 15, 8⟩
def DRD_DIV_CTL.REASON : Fld := ⟨.DRD_DIV_CTL, 23, 16⟩
def DRD_DIV_CTL.OSAT : Fld := ⟨.DRD_DIV_CTL, 63, 32⟩
def DRD_ST_CTL.STDL : Fld := ⟨.DRD_ST_CTL, 15, 0⟩
def DRD_ST_IDLE.SID : Fld := ⟨.DRD_ST_IDLE, 15, 0⟩
def DRD_ST_IDLE.LEN : Fld := ⟨.DRD_ST_IDLE, 31, 16⟩
def DRD_SW0.START : Fld := ⟨.DRD_SW0, 31, 0⟩
def DRD_SW0.PER : Fld := ⟨.DRD_SW0, 63, 32⟩
def DRD_SW1.LEN : Fld := ⟨.DRD_SW1, 31, 0⟩
def DRD_SW1.EN : Fld := ⟨.DRD_SW1, 32, 32⟩
def DRD_GOLD_GSTART.GSTART : Fld := ⟨.DRD_GOLD_GSTART, 31, 0⟩
def DRD_GOLD_GWIN.GWIN : Fld := ⟨.DRD_GOLD_GWIN, 63, 0⟩
def DRD_GOLD_BUD.BUD : Fld := ⟨.DRD_GOLD_BUD, 15, 0⟩
def DRD_GOLD_CHUNK.CHUNK : Fld := ⟨.DRD_GOLD_CHUNK, 15, 0⟩
def DRD_GOLD_URGENT.URGENT : Fld := ⟨.DRD_GOLD_URGENT, 0, 0⟩
def DRD_GOLD_PASS.PASS : Fld := ⟨.DRD_GOLD_PASS, 0, 0⟩
def DRD_INJ.ROWS : Fld := ⟨.DRD_INJ, 9, 0⟩
def DRD_INJ.ALL : Fld := ⟨.DRD_INJ, 63, 63⟩
def WTM_CTL.CAP : Fld := ⟨.WTM_CTL, 8, 0⟩
def WTM_CTL.EVQ : Fld := ⟨.WTM_CTL, 11, 9⟩
def WTM_CTL.NOLEND : Fld := ⟨.WTM_CTL, 12, 12⟩
def WTM_STAT.PKG : Fld := ⟨.WTM_STAT, 15, 0⟩
def WTM_STAT.INP : Fld := ⟨.WTM_STAT, 31, 16⟩
def WTM_STAT.CAPHITS : Fld := ⟨.WTM_STAT, 47, 32⟩
def WTM_THERM.TJ0 : Fld := ⟨.WTM_THERM, 7, 0⟩
def WTM_THERM.TJ1 : Fld := ⟨.WTM_THERM, 15, 8⟩
def WTM_THERM.TJH : Fld := ⟨.WTM_THERM, 23, 16⟩
def WTM_THERM.TCP : Fld := ⟨.WTM_THERM, 31, 24⟩
def WTM_THERM.THR : Fld := ⟨.WTM_THERM, 39, 32⟩
def WTM_THERM.CRIT : Fld := ⟨.WTM_THERM, 47, 40⟩
def WTM_THERM.THROT : Fld := ⟨.WTM_THERM, 48, 48⟩
def WTM_RST.WARM : Fld := ⟨.WTM_RST, 0, 0⟩
def WTM_RST.COLD : Fld := ⟨.WTM_RST, 1, 1⟩
def WTM_RST.ISL : Fld := ⟨.WTM_RST, 2, 2⟩
def WTM_RST.ENG : Fld := ⟨.WTM_RST, 3, 3⟩
def WTM_RST.ISLAND : Fld := ⟨.WTM_RST, 9, 4⟩
def WTM_RST.ENGINE : Fld := ⟨.WTM_RST, 17, 10⟩
def WTM_RSTREC.W : Fld := ⟨.WTM_RSTREC, 63, 0⟩
def WTM_ISL.FREQ : Fld := ⟨.WTM_ISL, 5, 0⟩
def WTM_ISL.NOW : Fld := ⟨.WTM_ISL, 11, 6⟩
def WTM_ISL.ALLOW : Fld := ⟨.WTM_ISL, 23, 12⟩
def WTM_ISL.LENT : Fld := ⟨.WTM_ISL, 35, 24⟩
def WTM_ISL.BORROW : Fld := ⟨.WTM_ISL, 47, 36⟩
def WTM_ISL.VOLT : Fld := ⟨.WTM_ISL, 55, 48⟩
def WTM_ISL.GATED : Fld := ⟨.WTM_ISL, 56, 56⟩
def WTM_ISL.INRST : Fld := ⟨.WTM_ISL, 57, 57⟩
def WTM_MOD.VIN : Fld := ⟨.WTM_MOD, 15, 0⟩
def WTM_MOD.POC : Fld := ⟨.WTM_MOD, 31, 16⟩
def WTM_MOD.SENSEF : Fld := ⟨.WTM_MOD, 32, 32⟩
def WTM_MOD.CLKSEL : Fld := ⟨.WTM_MOD, 33, 33⟩
def WTM_GPIO_CFG.MODE : Fld := ⟨.WTM_GPIO_CFG, 1, 0⟩
def WTM_GPIO_CFG.OUT : Fld := ⟨.WTM_GPIO_CFG, 2, 2⟩
def WTM_GPIO_CFG.EDGE : Fld := ⟨.WTM_GPIO_CFG, 4, 3⟩
def WTM_GPIO_CFG.IN : Fld := ⟨.WTM_GPIO_CFG, 5, 5⟩
def WTM_GPIO_CFG.FLT : Fld := ⟨.WTM_GPIO_CFG, 6, 6⟩
def HST_WINB.BASE : Fld := ⟨.HST_WINB, 39, 0⟩
def HST_WINB.EN : Fld := ⟨.HST_WINB, 63, 63⟩
def HST_OBW.HBASE : Fld := ⟨.HST_OBW, 63, 0⟩
def HST_IRQ.VEC : Fld := ⟨.HST_IRQ, 7, 0⟩
def HST_EVQIRQ.VEC : Fld := ⟨.HST_EVQIRQ, 7, 0⟩
def HST_EVQIRQ.EN : Fld := ⟨.HST_EVQIRQ, 8, 8⟩
def HST_RING0.BASE : Fld := ⟨.HST_RING0, 39, 0⟩
def HST_RING0.SIZE : Fld := ⟨.HST_RING0, 43, 40⟩
def HST_RING0.EN : Fld := ⟨.HST_RING0, 44, 44⟩
def HST_RING1.TAIL : Fld := ⟨.HST_RING1, 15, 0⟩
def HST_RING1.HEAD : Fld := ⟨.HST_RING1, 31, 16⟩
def HST_RING2.GATE : Fld := ⟨.HST_RING2, 20, 0⟩
def HST_RING2.GEN : Fld := ⟨.HST_RING2, 21, 21⟩
def HST_STAT.DBREF : Fld := ⟨.HST_STAT, 15, 0⟩
def HST_STAT.OBERR : Fld := ⟨.HST_STAT, 31, 16⟩
def DBG_CTL.EVQ : Fld := ⟨.DBG_CTL, 2, 0⟩
def DBG_MARK.V : Fld := ⟨.DBG_MARK, 63, 0⟩
def DBG_SCRATCH.V : Fld := ⟨.DBG_SCRATCH, 63, 0⟩
def SEC_BOOT.READY : Fld := ⟨.SEC_BOOT, 0, 0⟩
def SEC_BOOT.FALLBACK : Fld := ⟨.SEC_BOOT, 1, 1⟩
def SEC_BOOT.RECOVERY : Fld := ⟨.SEC_BOOT, 2, 2⟩
def SEC_BOOT.SVNLOCK : Fld := ⟨.SEC_BOOT, 3, 3⟩
def SEC_ID.W : Fld := ⟨.SEC_ID, 63, 0⟩
def SEC_MEAS.W : Fld := ⟨.SEC_MEAS, 63, 0⟩
def SEC_EXTEND.W : Fld := ⟨.SEC_EXTEND, 63, 0⟩
def SEC_ATT.ADDR : Fld := ⟨.SEC_ATT, 39, 0⟩
def SEC_ATT.GO : Fld := ⟨.SEC_ATT, 40, 40⟩
def SEC_ATT.BUSY : Fld := ⟨.SEC_ATT, 41, 41⟩
def SEC_ATT.DONE : Fld := ⟨.SEC_ATT, 42, 42⟩
def SEC_ATT.ERR : Fld := ⟨.SEC_ATT, 43, 43⟩
def SEC_ATT_GATE.GATE : Fld := ⟨.SEC_ATT_GATE, 20, 0⟩
def SEC_ATT_GATE.GEN : Fld := ⟨.SEC_ATT_GATE, 21, 21⟩
def SEC_ATT_NONCE.W : Fld := ⟨.SEC_ATT_NONCE, 63, 0⟩
def SEC_AES_RING.BASE : Fld := ⟨.SEC_AES_RING, 39, 0⟩
def SEC_AES_RING.TAIL : Fld := ⟨.SEC_AES_RING, 47, 40⟩
def SEC_AES_RING.HEAD : Fld := ⟨.SEC_AES_RING, 55, 48⟩
def SEC_AES_RING.EN : Fld := ⟨.SEC_AES_RING, 56, 56⟩
def SEC_AES_RING.ABORT : Fld := ⟨.SEC_AES_RING, 57, 57⟩
def SEC_AES_STG.BASE : Fld := ⟨.SEC_AES_STG, 39, 0⟩
def SEC_KEY.W : Fld := ⟨.SEC_KEY, 63, 0⟩
def SEC_FWC.ADDR : Fld := ⟨.SEC_FWC, 39, 0⟩
def SEC_FWC.LEN : Fld := ⟨.SEC_FWC, 63, 40⟩
def SEC_FWC_CTL.GO : Fld := ⟨.SEC_FWC_CTL, 0, 0⟩
def SEC_FWC_CTL.ABORT : Fld := ⟨.SEC_FWC_CTL, 1, 1⟩
def SEC_FWC_CTL.BUSY : Fld := ⟨.SEC_FWC_CTL, 2, 2⟩
def SEC_FWC_CTL.CODE : Fld := ⟨.SEC_FWC_CTL, 15, 8⟩
def CLG_CTL.MODE : Fld := ⟨.CLG_CTL, 0, 0⟩
def CLG_CTL.EVQ : Fld := ⟨.CLG_CTL, 3, 1⟩
def CLG_RING.BASE : Fld := ⟨.CLG_RING, 39, 0⟩
def CLG_PTR.WR : Fld := ⟨.CLG_PTR, 19, 0⟩
def CLG_PTR.RD : Fld := ⟨.CLG_PTR, 51, 32⟩
def CLG_SEQ.N : Fld := ⟨.CLG_SEQ, 63, 0⟩
def CLG_HEAD.W : Fld := ⟨.CLG_HEAD, 63, 0⟩
def CLG_STAT.LOST : Fld := ⟨.CLG_STAT, 31, 0⟩
def CLG_STAT.STALL : Fld := ⟨.CLG_STAT, 63, 32⟩
def TB_INC.INC : Fld := ⟨.TB_INC, 39, 0⟩
def TB_NOW0.NS : Fld := ⟨.TB_NOW0, 29, 0⟩
def TB_NOW0.STAMP : Fld := ⟨.TB_NOW0, 63, 32⟩
def TB_NOW1.SEC : Fld := ⟨.TB_NOW1, 47, 0⟩
def TB_ADJ.ADJ : Fld := ⟨.TB_ADJ, 31, 0⟩
def TB_ADJ.GO : Fld := ⟨.TB_ADJ, 63, 63⟩
def TB_LOADNS.LOADNS : Fld := ⟨.TB_LOADNS, 29, 0⟩
def TB_LOADSEC.LOADSEC : Fld := ⟨.TB_LOADSEC, 47, 0⟩
def TB_LOADSEC.GO : Fld := ⟨.TB_LOADSEC, 63, 63⟩
def TB_STAT.REFUSED : Fld := ⟨.TB_STAT, 0, 0⟩
def TB_STAT.DISC : Fld := ⟨.TB_STAT, 1, 1⟩
def TB_STAT.STEPS : Fld := ⟨.TB_STAT, 31, 16⟩
def JNL_CTL.EN : Fld := ⟨.JNL_CTL, 0, 0⟩
def JNL_CTL.ABORT : Fld := ⟨.JNL_CTL, 1, 1⟩
def JNL_CTL.MODE : Fld := ⟨.JNL_CTL, 2, 2⟩
def JNL_CTL.FHASH : Fld := ⟨.JNL_CTL, 3, 3⟩
def JNL_CTL.STREAM : Fld := ⟨.JNL_CTL, 4, 4⟩
def JNL_CTL.OUTS : Fld := ⟨.JNL_CTL, 5, 5⟩
def JNL_CTL.EVQ : Fld := ⟨.JNL_CTL, 8, 6⟩
def JNL_CTL.STATE : Fld := ⟨.JNL_CTL, 10, 9⟩
def JNL_RING.BASE : Fld := ⟨.JNL_RING, 39, 0⟩
def JNL_RING.SIZE : Fld := ⟨.JNL_RING, 55, 40⟩
def JNL_PTR_WR.WR : Fld := ⟨.JNL_PTR_WR, 35, 0⟩
def JNL_PTR_RD.RD : Fld := ⟨.JNL_PTR_RD, 35, 0⟩
def JNL_STAT.LOST : Fld := ⟨.JNL_STAT, 31, 0⟩
def JNL_STAT.RECS : Fld := ⟨.JNL_STAT, 63, 32⟩
def JNL_MARK.V : Fld := ⟨.JNL_MARK, 63, 0⟩
def JNL_HOST.BASE : Fld := ⟨.JNL_HOST, 39, 0⟩
def JNL_HOST.SIZE : Fld := ⟨.JNL_HOST, 63, 40⟩
def JNL_HOSTF.BASE : Fld := ⟨.JNL_HOSTF, 39, 0⟩
def JNL_HOSTF.SIZE : Fld := ⟨.JNL_HOSTF, 63, 40⟩
def JNL_STG.BASE : Fld := ⟨.JNL_STG, 39, 0⟩
def JNL_STG.SIZE : Fld := ⟨.JNL_STG, 51, 40⟩
def JNL_FEED.LEN : Fld := ⟨.JNL_FEED, 31, 0⟩
def JNL_FEED.BUSY : Fld := ⟨.JNL_FEED, 32, 32⟩
def JNL_FEED.FOFF : Fld := ⟨.JNL_FEED, 63, 40⟩
def DET_CTL.STRICT : Fld := ⟨.DET_CTL, 0, 0⟩
def DET_KEY.STEP : Fld := ⟨.DET_KEY, 7, 0⟩
def DET_KEY.ACLASS : Fld := ⟨.DET_KEY, 15, 8⟩
def DET_KEY.UBUILD : Fld := ⟨.DET_KEY, 31, 16⟩
def DET_KEY.SH : Fld := ⟨.DET_KEY, 63, 32⟩
def DET_ARITH.DEFMODE : Fld := ⟨.DET_ARITH, 4, 0⟩
def DET_STAT.STRICTNOW : Fld := ⟨.DET_STAT, 0, 0⟩
def DET_STAT.GRIDEQ : Fld := ⟨.DET_STAT, 1, 1⟩
def DET_STAT.REPLAYING : Fld := ⟨.DET_STAT, 2, 2⟩
def DET_LS.EN : Fld := ⟨.DET_LS, 0, 0⟩
def DET_LS.ACTIVE : Fld := ⟨.DET_LS, 1, 1⟩
def DET_LS.CMASK : Fld := ⟨.DET_LS, 9, 2⟩
def DET_LS.EMASK : Fld := ⟨.DET_LS, 13, 10⟩
def DET_LS.EPER : Fld := ⟨.DET_LS, 63, 32⟩
def DET_LS_START.START : Fld := ⟨.DET_LS_START, 31, 0⟩

/-- The register tables of the spec, one row a register. -/
def RegName.info : RegName → RegInfo
  | .FE_CTL => ⟨0, 0x0, [(65536, 256)], true, .warm, [⟨0, 0, .rw, 1⟩, ⟨1, 1, .wo, 0⟩]⟩
  | .FE_STAT => ⟨0, 0x8, [(65536, 256)], false, .engine, [⟨1, 0, .ro, 0⟩, ⟨2, 2, .ro, 1⟩, ⟨3, 3, .ro, 0⟩, ⟨11, 4, .ro, 0⟩, ⟨19, 12, .ro, 0⟩, ⟨63, 24, .ro, 0⟩]⟩
  | .FE_IDLE => ⟨0, 0x10, [(65536, 256)], true, .warm, [⟨15, 0, .rw, 20⟩, ⟨16, 16, .rw, 0⟩]⟩
  | .FE_TQ => ⟨0, 0x18, [(65536, 256)], false, .warm, [⟨5, 0, .ro, 0⟩, ⟨13, 8, .ro, 0⟩, ⟨22, 16, .ro, 0⟩, ⟨26, 24, .ro, 0⟩]⟩
  | .FE_TQ_PUSH => ⟨0, 0x20, [(65536, 256)], false, .warm, [⟨39, 0, .wo, 0⟩]⟩
  | .FE_TQ_TAKE => ⟨0, 0x28, [(65536, 256)], false, .engine, [⟨7, 0, .rc, 0⟩, ⟨9, 8, .rc, 0⟩, ⟨10, 10, .rc, 0⟩]⟩
  | .FE_TQ_RUN => ⟨0, 0x30, [(65536, 256)], true, .warm, [⟨39, 0, .rw, 0⟩]⟩
  | .FE_ECC => ⟨0, 0x40, [(65536, 256)], false, .cold, [⟨15, 0, .rc, 0⟩, ⟨31, 16, .rc, 0⟩, ⟨52, 32, .ro, 0⟩, ⟨53, 53, .ro, 0⟩]⟩
  | .FE_GRID => ⟨0, 0x100, [(65536, 256), (8, 32)], true, .warm, [⟨15, 0, .rw, 0⟩, ⟨31, 16, .rw, 0⟩, ⟨47, 32, .rw, 0⟩, ⟨63, 48, .rw, 0⟩]⟩
  | .FE_CVTS => ⟨0, 0x200, [(65536, 256), (8, 8)], false, .engine, [⟨63, 0, .ro, 0⟩]⟩
  | .EDG_CTL => ⟨1, 0x0, [(65536, 2)], true, .warm, [⟨0, 0, .rw, 1⟩, ⟨1, 1, .wo, 0⟩]⟩
  | .EDG_RING => ⟨1, 0x8, [(65536, 2)], false, .warm, [⟨6, 0, .rw, 0⟩, ⟨14, 8, .ro, 0⟩, ⟨17, 16, .ro, 0⟩, ⟨18, 18, .ro, 0⟩, ⟨19, 19, .ro, 0⟩, ⟨63, 32, .ro, 0⟩]⟩
  | .CST_MVR_CTL => ⟨2, 0x0, [(64, 12)], true, .warm, [⟨0, 0, .rw, 1⟩, ⟨1, 1, .wo, 0⟩]⟩
  | .CST_MVR_PTR => ⟨2, 0x8, [(64, 12)], false, .warm, [⟨6, 0, .rw, 0⟩, ⟨14, 8, .ro, 0⟩, ⟨17, 16, .ro, 0⟩, ⟨20, 18, .ro, 0⟩]⟩
  | .CST_EVQ => ⟨2, 0x1000, [(16, 8)], false, .warm, [⟨11, 0, .ro, 0⟩, ⟨27, 16, .rw, 0⟩, ⟨63, 32, .rc, 0⟩]⟩
  | .CST_ARB_STAT => ⟨2, 0x2000, [(8, 128)], false, .warm, [⟨7, 0, .rc, 0⟩, ⟨63, 32, .ro, 0⟩]⟩
  | .CST_GDBG_SEL => ⟨2, 0x3000, [], false, .warm, [⟨20, 0, .rw, 0⟩]⟩
  | .CST_GDBG => ⟨2, 0x3040, [(8, 8)], false, .warm, [⟨63, 0, .ro, 0⟩]⟩
  | .CST_SLUICE => ⟨2, 0x3100, [], false, .warm, [⟨6, 0, .ro, 0⟩, ⟨14, 8, .rc, 0⟩, ⟨63, 32, .rc, 0⟩]⟩
  | .CST_CLEVQ => ⟨2, 0x3200, [(8, 16)], true, .warm, [⟨2, 0, .rw, 0⟩]⟩
  | .CST_PW_STAT => ⟨2, 0x4000, [(64, 16)], false, .warm, [⟨23, 0, .rc, 0⟩, ⟨47, 24, .rc, 0⟩, ⟨55, 48, .ro, 0⟩]⟩
  | .CST_PW_CTL => ⟨2, 0x4008, [(64, 16)], true, .warm, [⟨0, 0, .wo, 0⟩, ⟨1, 1, .wo, 0⟩, ⟨2, 2, .wo, 0⟩]⟩
  | .CST_BANKFB => ⟨2, 0x5000, [], true, .warm, [⟨39, 0, .rw, 0⟩, ⟨46, 40, .ro, 0⟩, ⟨49, 48, .ro, 0⟩]⟩
  | .CST_ECC_BKT => ⟨2, 0x6000, [(256, 4)], true, .cold, [⟨15, 0, .rw, 256⟩, ⟨31, 16, .rw, 100⟩, ⟨47, 32, .ro, 0⟩, ⟨48, 48, .w1c, 0⟩, ⟨63, 56, .rw, 4⟩]⟩
  | .CST_ECC_CNT => ⟨2, 0x6008, [(256, 4)], false, .cold, [⟨31, 0, .rc, 0⟩, ⟨63, 32, .rc, 0⟩]⟩
  | .CST_ECC_MISS => ⟨2, 0x6010, [(256, 4)], false, .cold, [⟨15, 0, .rc, 0⟩]⟩
  | .CST_ECC_LOG0 => ⟨2, 0x6040, [(256, 4), (16, 8)], false, .cold, [⟨39, 0, .ro, 0⟩, ⟨40, 40, .ro, 0⟩, ⟨41, 41, .w1c, 0⟩, ⟨63, 48, .ro, 0⟩]⟩
  | .CST_ECC_LOG1 => ⟨2, 0x6048, [(256, 4), (16, 8)], false, .cold, [⟨31, 0, .ro, 0⟩, ⟨47, 32, .ro, 0⟩]⟩
  | .CST_SCRUB_CTL => ⟨2, 0x6800, [], true, .cold, [⟨0, 0, .wo, 0⟩, ⟨1, 1, .wo, 0⟩, ⟨2, 2, .wo, 0⟩, ⟨3, 3, .ro, 0⟩, ⟨4, 4, .rw, 0⟩, ⟨7, 5, .rw, 0⟩, ⟨9, 8, .ro, 0⟩]⟩
  | .CST_SCRUB_BASE => ⟨2, 0x6808, [], true, .cold, [⟨39, 0, .rw, 0⟩]⟩
  | .CST_SCRUB_LEN => ⟨2, 0x6810, [], true, .cold, [⟨39, 0, .rw, 0⟩]⟩
  | .CST_SCRUB_PROG => ⟨2, 0x6818, [], false, .cold, [⟨39, 0, .ro, 0⟩]⟩
  | .CST_SCRUB_CNT => ⟨2, 0x6820, [], false, .cold, [⟨31, 0, .ro, 0⟩, ⟨63, 32, .ro, 0⟩]⟩
  | .CST_SCRUB_FIRST => ⟨2, 0x6828, [], false, .cold, [⟨39, 0, .ro, 0⟩]⟩
  | .CST_SCRUB_LAST => ⟨2, 0x6830, [], false, .cold, [⟨39, 0, .ro, 0⟩]⟩
  | .CST_SCRUB_DUR => ⟨2, 0x6838, [], false, .cold, [⟨31, 0, .ro, 0⟩, ⟨63, 32, .ro, 0⟩]⟩
  | .CST_HECC => ⟨2, 0x7000, [(8, 67)], false, .cold, [⟨15, 0, .rc, 0⟩, ⟨31, 16, .rc, 0⟩, ⟨52, 32, .ro, 0⟩, ⟨53, 53, .ro, 0⟩]⟩
  | .CST_CGATE => ⟨2, 0x10000, [(4096, 16), (8, 256)], false, .island, [⟨31, 0, .rw, 0⟩, ⟨40, 32, .ro, 0⟩, ⟨41, 41, .rw, 0⟩, ⟨42, 42, .rw, 0⟩, ⟨63, 48, .rw, 0⟩]⟩
  | .CST_CCHK0 => ⟨2, 0x10800, [(4096, 16), (16, 64)], false, .island, [⟨8, 0, .rw, 0⟩, ⟨24, 16, .rw, 0⟩, ⟨40, 32, .rw, 0⟩, ⟨41, 41, .rw, 0⟩]⟩
  | .CST_CCHK1 => ⟨2, 0x10808, [(4096, 16), (16, 64)], false, .island, [⟨31, 0, .rw, 0⟩, ⟨32, 32, .ro, 0⟩, ⟨41, 33, .ro, 0⟩, ⟨49, 42, .ro, 0⟩, ⟨63, 50, .rw, 0⟩]⟩
  | .CST_MGATE => ⟨2, 0x20000, [(8, 512)], false, .warm, [⟨31, 0, .rw, 0⟩, ⟨40, 32, .ro, 0⟩, ⟨41, 41, .rw, 0⟩, ⟨42, 42, .rw, 0⟩, ⟨63, 48, .rw, 0⟩]⟩
  | .CST_MCHK0 => ⟨2, 0x21000, [(16, 256)], false, .warm, [⟨8, 0, .rw, 0⟩, ⟨24, 16, .rw, 0⟩, ⟨40, 32, .rw, 0⟩, ⟨41, 41, .rw, 0⟩]⟩
  | .CST_MCHK1 => ⟨2, 0x21008, [(16, 256)], false, .warm, [⟨31, 0, .rw, 0⟩, ⟨32, 32, .ro, 0⟩, ⟨41, 33, .ro, 0⟩, ⟨49, 42, .ro, 0⟩, ⟨63, 50, .rw, 0⟩]⟩
  | .HBM_ECC_BKT => ⟨3, 0x0, [(256, 2)], true, .cold, [⟨15, 0, .rw, 256⟩, ⟨31, 16, .rw, 100⟩, ⟨47, 32, .ro, 0⟩, ⟨48, 48, .w1c, 0⟩]⟩
  | .HBM_ECC_CNT => ⟨3, 0x8, [(256, 2)], false, .cold, [⟨31, 0, .rc, 0⟩, ⟨63, 32, .rc, 0⟩]⟩
  | .HBM_ECC_MISS => ⟨3, 0x10, [(256, 2)], false, .cold, [⟨15, 0, .rc, 0⟩]⟩
  | .HBM_ECC_LOG0 => ⟨3, 0x1000, [(4096, 2), (128, 32), (16, 8)], false, .cold, [⟨39, 0, .ro, 0⟩, ⟨40, 40, .ro, 0⟩, ⟨41, 41, .w1c, 0⟩, ⟨63, 48, .ro, 0⟩]⟩
  | .HBM_ECC_LOG1 => ⟨3, 0x1008, [(4096, 2), (128, 32), (16, 8)], false, .cold, [⟨31, 0, .ro, 0⟩, ⟨47, 32, .ro, 0⟩]⟩
  | .HBM_SCRUB_CTL => ⟨3, 0x4000, [], true, .cold, [⟨0, 0, .wo, 0⟩, ⟨1, 1, .wo, 0⟩, ⟨2, 2, .wo, 0⟩, ⟨3, 3, .ro, 0⟩, ⟨4, 4, .rw, 0⟩, ⟨7, 5, .rw, 0⟩, ⟨9, 8, .ro, 0⟩]⟩
  | .HBM_SCRUB_BASE => ⟨3, 0x4008, [], true, .cold, [⟨39, 0, .rw, 0⟩]⟩
  | .HBM_SCRUB_LEN => ⟨3, 0x4010, [], true, .cold, [⟨39, 0, .rw, 0⟩]⟩
  | .HBM_SCRUB_PROG => ⟨3, 0x4018, [], false, .cold, [⟨39, 0, .ro, 0⟩]⟩
  | .HBM_SCRUB_CNT => ⟨3, 0x4020, [], false, .cold, [⟨31, 0, .ro, 0⟩, ⟨63, 32, .ro, 0⟩]⟩
  | .HBM_SCRUB_FIRST => ⟨3, 0x4028, [], false, .cold, [⟨39, 0, .ro, 0⟩]⟩
  | .HBM_SCRUB_LAST => ⟨3, 0x4030, [], false, .cold, [⟨39, 0, .ro, 0⟩]⟩
  | .HBM_SCRUB_DUR => ⟨3, 0x4038, [], false, .cold, [⟨31, 0, .ro, 0⟩, ⟨63, 32, .ro, 0⟩]⟩
  | .ING_CH_CTL => ⟨4, 0x0, [(256, 24)], true, .warm, [⟨0, 0, .rw, 0⟩, ⟨1, 1, .wo, 0⟩, ⟨3, 2, .rw, 2⟩, ⟨4, 4, .rw, 0⟩, ⟨6, 5, .rw, 0⟩, ⟨10, 7, .rw, 0⟩, ⟨16, 11, .rw, 44⟩, ⟨19, 17, .rw, 0⟩, ⟨21, 20, .rw, 0⟩, ⟨24, 22, .rw, 1⟩, ⟨29, 25, .rw, 0⟩, ⟨32, 30, .rw, 0⟩, ⟨35, 33, .rw, 0⟩, ⟨41, 36, .rw, 8⟩, ⟨44, 42, .rw, 2⟩]⟩
  | .ING_CH_GEOM => ⟨4, 0x8, [(256, 24)], true, .warm, [⟨15, 0, .rw, 0⟩, ⟨31, 16, .rw, 0⟩, ⟨39, 32, .rw, 0⟩, ⟨63, 40, .rw, 0⟩]⟩
  | .ING_CH_BL => ⟨4, 0x10, [(256, 24)], true, .warm, [⟨15, 0, .rw, 0⟩, ⟨31, 16, .rw, 0⟩, ⟨47, 32, .rw, 0⟩, ⟨63, 48, .rw, 0⟩]⟩
  | .ING_CH_CCM => ⟨4, 0x18, [(256, 24), (8, 3)], true, .warm, [⟨15, 0, .rw, 4096⟩, ⟨31, 16, .rw, 0⟩, ⟨47, 32, .rw, 0⟩, ⟨63, 48, .rw, 0⟩]⟩
  | .ING_CH_BASE => ⟨4, 0x30, [(256, 24)], true, .warm, [⟨39, 0, .rw, 0⟩]⟩
  | .ING_CH_PTR => ⟨4, 0x38, [(256, 24)], false, .warm, [⟨7, 0, .ro, 0⟩, ⟨15, 8, .rw, 0⟩, ⟨17, 16, .ro, 2⟩, ⟨19, 18, .ro, 0⟩]⟩
  | .ING_CH_GATE => ⟨4, 0x40, [(256, 24)], true, .warm, [⟨20, 0, .rw, 0⟩, ⟨41, 21, .rw, 0⟩, ⟨42, 42, .rw, 0⟩, ⟨43, 43, .rw, 0⟩]⟩
  | .ING_CH_STAT => ⟨4, 0x48, [(256, 24)], false, .warm, [⟨15, 0, .rc, 0⟩, ⟨31, 16, .rc, 0⟩, ⟨47, 32, .rc, 0⟩, ⟨63, 48, .rc, 0⟩]⟩
  | .ING_CH_LINK => ⟨4, 0x50, [(256, 24)], false, .warm, [⟨0, 0, .ro, 0⟩, ⟨2, 1, .ro, 0⟩, ⟨4, 3, .ro, 0⟩, ⟨31, 16, .rc, 0⟩]⟩
  | .ING_STEER => ⟨4, 0x58, [(256, 24)], false, .warm, [⟨39, 0, .rw, 0⟩, ⟨46, 40, .rw, 0⟩, ⟨47, 47, .ro, 0⟩, ⟨48, 48, .wo, 0⟩]⟩
  | .ING_CH_FRZ => ⟨4, 0x60, [(256, 24)], true, .warm, [⟨0, 0, .rw, 0⟩, ⟨4, 1, .rw, 0⟩]⟩
  | .ING_FB_CTL => ⟨4, 0x2000, [], true, .warm, [⟨0, 0, .rw, 0⟩, ⟨1, 1, .wo, 0⟩, ⟨7, 2, .rw, 4⟩, ⟨15, 8, .rw, 16⟩, ⟨31, 16, .rw, 50⟩, ⟨34, 32, .rw, 0⟩, ⟨36, 35, .ro, 2⟩]⟩
  | .ING_FB_BASE => ⟨4, 0x2008, [], true, .warm, [⟨39, 0, .rw, 0⟩, ⟨63, 40, .rw, 0⟩]⟩
  | .ING_FB_CMD => ⟨4, 0x2010, [], false, .warm, [⟨39, 0, .wo, 0⟩, ⟨44, 40, .wo, 0⟩, ⟨46, 45, .wo, 0⟩]⟩
  | .ING_FB_TAKE => ⟨4, 0x2018, [], false, .warm, [⟨4, 0, .rc, 0⟩, ⟨5, 5, .rc, 0⟩]⟩
  | .ING_FB_STAT => ⟨4, 0x2020, [], false, .warm, [⟨5, 0, .ro, 0⟩, ⟨11, 6, .ro, 0⟩, ⟨17, 12, .ro, 0⟩, ⟨18, 18, .w1c, 0⟩, ⟨47, 32, .rc, 0⟩, ⟨63, 48, .rc, 0⟩]⟩
  | .ING_TOK_TRIE => ⟨4, 0x2028, [], true, .warm, [⟨39, 0, .rw, 0⟩, ⟨61, 40, .rw, 0⟩]⟩
  | .SLV_CTL => ⟨5, 0x0, [], true, .warm, [⟨2, 0, .rw, 0⟩]⟩
  | .SLV_LANE_CTL => ⟨5, 0x1000, [(64, 64)], true, .warm, [⟨0, 0, .rw, 0⟩, ⟨1, 1, .wo, 0⟩, ⟨3, 2, .rw, 0⟩, ⟨53, 32, .rw, 0⟩]⟩
  | .SLV_LANE_STAT => ⟨5, 0x1008, [(64, 64)], false, .island, [⟨1, 0, .ro, 2⟩, ⟨2, 2, .ro, 0⟩, ⟨3, 3, .ro, 0⟩, ⟨4, 4, .ro, 0⟩, ⟨8, 5, .ro, 0⟩, ⟨23, 16, .ro, 0⟩]⟩
  | .SLV_DOOR => ⟨5, 0x1010, [(64, 64)], false, .warm, [⟨21, 0, .wo, 0⟩]⟩
  | .SLV_LANE_CNT => ⟨5, 0x1018, [(64, 64)], false, .warm, [⟨31, 0, .rc, 0⟩, ⟨47, 32, .rc, 0⟩, ⟨63, 48, .rc, 0⟩]⟩
  | .SRV_CTL => ⟨6, 0x0, [], true, .warm, [⟨2, 0, .rw, 0⟩]⟩
  | .SRV_INJ_CTL => ⟨6, 0x100, [], true, .warm, [⟨0, 0, .wo, 0⟩, ⟨1, 1, .wo, 0⟩, ⟨2, 2, .ro, 0⟩, ⟨10, 3, .rw, 0⟩, ⟨12, 11, .rw, 0⟩, ⟨15, 13, .rw, 0⟩, ⟨20, 16, .rw, 7⟩, ⟨63, 32, .rw, 0⟩]⟩
  | .SRV_INJ_P => ⟨6, 0x108, [], true, .warm, [⟨31, 0, .rw, 0⟩, ⟨63, 32, .rw, 0⟩]⟩
  | .SRV_INJ_PRBS => ⟨6, 0x110, [], true, .warm, [⟨30, 0, .rw, 1⟩, ⟨62, 32, .rw, 0⟩]⟩
  | .SRV_INJ_SWP => ⟨6, 0x118, [], true, .warm, [⟨31, 0, .rw, 0⟩, ⟨47, 32, .rw, 1⟩, ⟨63, 48, .rw, 0⟩]⟩
  | .SRV_CAP_CTL => ⟨6, 0x140, [], true, .warm, [⟨0, 0, .wo, 0⟩, ⟨1, 1, .wo, 0⟩, ⟨2, 2, .ro, 0⟩, ⟨3, 3, .rw, 0⟩, ⟨11, 4, .rw, 0⟩, ⟨15, 12, .rw, 0⟩, ⟨31, 16, .rw, 0⟩, ⟨48, 32, .rw, 1⟩]⟩
  | .SRV_CAP_BASE => ⟨6, 0x148, [], true, .warm, [⟨39, 0, .rw, 0⟩]⟩
  | .SRV_CAP_STAT => ⟨6, 0x150, [], false, .warm, [⟨31, 0, .ro, 0⟩, ⟨48, 32, .ro, 0⟩]⟩
  | .SRV_CAP_SEL => ⟨6, 0x180, [(8, 16)], true, .warm, [⟨7, 0, .rw, 0⟩, ⟨10, 8, .rw, 0⟩]⟩
  | .SRV_SPI => ⟨6, 0x200, [(32, 4)], true, .warm, [⟨0, 0, .rw, 0⟩, ⟨2, 1, .rw, 0⟩, ⟨10, 3, .rw, 255⟩, ⟨14, 11, .rw, 0⟩, ⟨20, 15, .rw, 1⟩, ⟨63, 32, .rw, 0⟩]⟩
  | .SRV_SPI_TX => ⟨6, 0x208, [(32, 4)], true, .warm, [⟨63, 0, .rw, 0⟩]⟩
  | .SRV_LP_CTL => ⟨6, 0x10000, [(1024, 192)], true, .warm, [⟨0, 0, .rw, 0⟩, ⟨1, 1, .wo, 0⟩, ⟨5, 2, .rw, 0⟩, ⟨13, 6, .rw, 0⟩, ⟨15, 14, .rw, 0⟩, ⟨17, 16, .rw, 0⟩, ⟨19, 18, .rw, 0⟩, ⟨20, 20, .rw, 0⟩, ⟨24, 21, .rw, 0⟩, ⟨26, 25, .ro, 2⟩]⟩
  | .SRV_LP_TIME => ⟨6, 0x10008, [(1024, 192)], true, .warm, [⟨31, 0, .rw, 0⟩, ⟨63, 32, .rw, 0⟩]⟩
  | .SRV_LP_LOFF => ⟨6, 0x10010, [(1024, 192)], true, .warm, [⟨31, 0, .rw, 0⟩]⟩
  | .SRV_LP_IN => ⟨6, 0x10018, [(1024, 192)], true, .warm, [⟨63, 0, .rw, 0⟩]⟩
  | .SRV_LP_SPB => ⟨6, 0x10020, [(1024, 192)], true, .warm, [⟨63, 0, .rw, 0⟩]⟩
  | .SRV_LP_FFB => ⟨6, 0x10028, [(1024, 192)], true, .warm, [⟨63, 0, .rw, 0⟩]⟩
  | .SRV_LP_OUT => ⟨6, 0x10030, [(1024, 192)], true, .warm, [⟨63, 0, .rw, 0⟩]⟩
  | .SRV_LP_GATE => ⟨6, 0x10038, [(1024, 192)], true, .warm, [⟨20, 0, .rw, 0⟩, ⟨21, 21, .rw, 0⟩, ⟨63, 32, .rw, 0⟩]⟩
  | .SRV_LP_MODE => ⟨6, 0x10040, [(1024, 192)], true, .warm, [⟨0, 0, .rw, 0⟩, ⟨1, 1, .ro, 0⟩]⟩
  | .SRV_LP_SP => ⟨6, 0x10048, [(1024, 192)], false, .warm, [⟨31, 0, .rw, 0⟩, ⟨63, 32, .rw, 0⟩]⟩
  | .SRV_LP_GAIN => ⟨6, 0x10050, [(1024, 192)], true, .warm, [⟨31, 0, .rw, 0⟩, ⟨63, 32, .rw, 0⟩]⟩
  | .SRV_LP_FF => ⟨6, 0x10058, [(1024, 192)], true, .warm, [⟨31, 0, .rw, 0⟩, ⟨63, 32, .rw, 0⟩]⟩
  | .SRV_LP_LIM => ⟨6, 0x10060, [(1024, 192)], true, .warm, [⟨31, 0, .rw, 4286578689⟩, ⟨63, 32, .rw, 4286578687⟩]⟩
  | .SRV_LP_RATE => ⟨6, 0x10068, [(1024, 192)], true, .warm, [⟨31, 0, .rw, 0⟩, ⟨63, 32, .rw, 0⟩]⟩
  | .SRV_LP_CNT => ⟨6, 0x10070, [(1024, 192)], false, .warm, [⟨15, 0, .rc, 0⟩, ⟨31, 16, .rc, 0⟩, ⟨47, 32, .rc, 0⟩, ⟨63, 48, .rc, 0⟩]⟩
  | .SRV_LP_VAL => ⟨6, 0x10078, [(1024, 192)], false, .island, [⟨31, 0, .rw, 0⟩, ⟨63, 32, .rw, 0⟩]⟩
  | .SRV_LP_COEF0 => ⟨6, 0x10100, [(1024, 192), (64, 8)], true, .warm, [⟨23, 0, .rw, 0⟩, ⟨47, 24, .rw, 0⟩, ⟨55, 48, .rw, 0⟩]⟩
  | .SRV_LP_COEF1 => ⟨6, 0x10108, [(1024, 192), (64, 8)], true, .warm, [⟨23, 0, .rw, 0⟩, ⟨47, 24, .rw, 0⟩]⟩
  | .SRV_LP_COEF2 => ⟨6, 0x10110, [(1024, 192), (64, 8)], true, .warm, [⟨23, 0, .rw, 0⟩]⟩
  | .SRV_LP_STATE0 => ⟨6, 0x10118, [(1024, 192), (64, 8)], false, .island, [⟨23, 0, .ro, 0⟩, ⟨47, 24, .ro, 0⟩, ⟨55, 48, .ro, 0⟩]⟩
  | .SRV_LP_STATE1 => ⟨6, 0x10120, [(1024, 192), (64, 8)], false, .island, [⟨23, 0, .ro, 0⟩, ⟨47, 24, .ro, 0⟩]⟩
  | .CB_CTL => ⟨7, 0x0, [(65536, 8)], true, .warm, [⟨0, 0, .rw, 0⟩, ⟨1, 1, .wo, 0⟩, ⟨3, 2, .rw, 0⟩, ⟨4, 4, .rw, 1⟩, ⟨5, 5, .rw, 1⟩, ⟨6, 6, .rw, 0⟩, ⟨7, 7, .rw, 0⟩, ⟨8, 8, .wo, 0⟩, ⟨11, 9, .rw, 0⟩, ⟨13, 12, .ro, 2⟩]⟩
  | .CB_NBT => ⟨7, 0x8, [(65536, 8)], true, .warm, [⟨7, 0, .rw, 0⟩, ⟨15, 8, .rw, 0⟩, ⟨22, 16, .rw, 0⟩, ⟨29, 23, .rw, 0⟩]⟩
  | .CB_DBT => ⟨7, 0x10, [(65536, 8)], true, .warm, [⟨4, 0, .rw, 0⟩, ⟨12, 8, .rw, 0⟩, ⟨19, 16, .rw, 0⟩, ⟨23, 20, .rw, 0⟩, ⟨24, 24, .rw, 0⟩, ⟨31, 25, .rw, 0⟩]⟩
  | .CB_STAT => ⟨7, 0x18, [(65536, 8)], false, .island, [⟨7, 0, .ro, 0⟩, ⟨14, 8, .ro, 0⟩, ⟨17, 16, .ro, 0⟩, ⟨18, 18, .w1c, 0⟩, ⟨47, 32, .rc, 0⟩]⟩
  | .CB_TXTS => ⟨7, 0x20, [(65536, 8)], false, .island, [⟨15, 0, .rc, 0⟩, ⟨16, 16, .rc, 0⟩, ⟨63, 32, .rc, 0⟩]⟩
  | .CB_PHY => ⟨7, 0x28, [(65536, 8)], true, .warm, [⟨0, 0, .rw, 0⟩, ⟨1, 1, .wo, 0⟩, ⟨2, 2, .wo, 0⟩, ⟨3, 3, .ro, 0⟩, ⟨7, 4, .ro, 0⟩, ⟨10, 8, .ro, 0⟩, ⟨11, 11, .ro, 0⟩, ⟨31, 16, .ro, 0⟩, ⟨47, 32, .rw, 0⟩]⟩
  | .CB_CNT => ⟨7, 0x30, [(65536, 8)], false, .island, [⟨15, 0, .rc, 0⟩, ⟨31, 16, .rc, 0⟩, ⟨47, 32, .rc, 0⟩, ⟨63, 48, .rc, 0⟩]⟩
  | .CB_SAFE => ⟨7, 0x38, [(65536, 8)], true, .warm, [⟨6, 0, .rw, 0⟩, ⟨7, 7, .rw, 0⟩]⟩
  | .CB_MBX_CTL => ⟨7, 0x4000, [(65536, 8), (128, 128)], true, .warm, [⟨0, 0, .rw, 0⟩, ⟨1, 1, .rw, 0⟩, ⟨2, 2, .rw, 0⟩, ⟨3, 3, .rw, 0⟩, ⟨4, 4, .rw, 0⟩]⟩
  | .CB_MBX_ID => ⟨7, 0x4008, [(65536, 8), (128, 128)], true, .warm, [⟨28, 0, .rw, 0⟩, ⟨29, 29, .rw, 0⟩, ⟨30, 30, .rw, 0⟩, ⟨31, 31, .rw, 0⟩, ⟨32, 32, .rw, 0⟩, ⟨36, 33, .rw, 0⟩, ⟨63, 48, .rw, 0⟩]⟩
  | .CB_MBX_MASK => ⟨7, 0x4010, [(65536, 8), (128, 128)], true, .warm, [⟨28, 0, .rw, 0⟩, ⟨30, 29, .rw, 0⟩, ⟨31, 31, .rw, 0⟩]⟩
  | .CB_MBX_LT => ⟨7, 0x4018, [(65536, 8), (128, 128)], false, .warm, [⟨31, 0, .rw, 0⟩, ⟨47, 32, .rw, 0⟩]⟩
  | .CB_MBX_CMD => ⟨7, 0x4020, [(65536, 8), (128, 128)], false, .warm, [⟨0, 0, .wo, 0⟩, ⟨1, 1, .wo, 0⟩, ⟨2, 2, .rw, 0⟩]⟩
  | .CB_MBX_STAT => ⟨7, 0x4028, [(65536, 8), (128, 128)], false, .island, [⟨3, 0, .ro, 0⟩, ⟨7, 4, .ro, 0⟩, ⟨8, 8, .w1c, 0⟩, ⟨9, 9, .ro, 0⟩, ⟨31, 16, .rc, 0⟩, ⟨63, 32, .ro, 0⟩]⟩
  | .CB_MBX_RXID => ⟨7, 0x4030, [(65536, 8), (128, 128)], false, .island, [⟨36, 0, .ro, 0⟩]⟩
  | .CB_MBX_DATA => ⟨7, 0x4040, [(65536, 8), (128, 128), (8, 8)], false, .warm, [⟨63, 0, .rw, 0⟩]⟩
  | .ETH_CTL => ⟨8, 0x0, [(65536, 4)], true, .warm, [⟨0, 0, .rw, 0⟩, ⟨1, 1, .wo, 0⟩, ⟨2, 2, .rw, 0⟩, ⟨3, 3, .rw, 0⟩, ⟨4, 4, .rw, 0⟩, ⟨18, 5, .rw, 1518⟩, ⟨21, 19, .rw, 0⟩, ⟨23, 22, .ro, 2⟩]⟩
  | .ETH_MAC => ⟨8, 0x8, [(65536, 4)], true, .warm, [⟨47, 0, .rw, 0⟩]⟩
  | .ETH_LAT => ⟨8, 0x10, [(65536, 4)], true, .warm, [⟨15, 0, .rw, 420⟩, ⟨31, 16, .rw, 610⟩]⟩
  | .ETH_LINK => ⟨8, 0x18, [(65536, 4)], false, .island, [⟨0, 0, .ro, 0⟩, ⟨1, 1, .ro, 0⟩, ⟨47, 32, .rc, 0⟩]⟩
  | .ETH_RXCLS => ⟨8, 0x20, [(65536, 4)], true, .warm, [⟨15, 0, .rw, 35063⟩]⟩
  | .ETH_TXQ0 => ⟨8, 0x100, [(65536, 4), (32, 4)], true, .warm, [⟨39, 0, .rw, 0⟩]⟩
  | .ETH_TXQ1 => ⟨8, 0x108, [(65536, 4), (32, 4)], false, .warm, [⟨7, 0, .rw, 0⟩, ⟨15, 8, .ro, 0⟩, ⟨16, 16, .rw, 0⟩]⟩
  | .ETH_RXQ0 => ⟨8, 0x200, [(65536, 4), (32, 2)], true, .warm, [⟨39, 0, .rw, 0⟩, ⟨47, 40, .rw, 0⟩]⟩
  | .ETH_RXQ1 => ⟨8, 0x208, [(65536, 4), (32, 2)], false, .warm, [⟨7, 0, .rw, 0⟩, ⟨15, 8, .ro, 0⟩]⟩
  | .ETH_RXQ2 => ⟨8, 0x210, [(65536, 4), (32, 2)], true, .warm, [⟨20, 0, .rw, 0⟩, ⟨21, 21, .rw, 0⟩]⟩
  | .ETH_TXTS => ⟨8, 0x300, [(65536, 4)], false, .island, [⟨15, 0, .rc, 0⟩, ⟨16, 16, .rc, 0⟩, ⟨63, 32, .rc, 0⟩]⟩
  | .ETH_STAT => ⟨8, 0x308, [(65536, 4)], false, .island, [⟨0, 0, .w1c, 0⟩, ⟨31, 16, .rc, 0⟩, ⟨47, 32, .rc, 0⟩, ⟨63, 48, .rc, 0⟩]⟩
  | .ETH_RXSV0 => ⟨8, 0x400, [(65536, 4), (16, 16)], true, .warm, [⟨15, 0, .rw, 0⟩, ⟨21, 16, .rw, 0⟩, ⟨22, 22, .rw, 0⟩, ⟨23, 23, .rw, 0⟩]⟩
  | .ETH_RXSV1 => ⟨8, 0x408, [(65536, 4), (16, 16)], true, .warm, [⟨31, 0, .rw, 0⟩, ⟨63, 32, .rw, 0⟩]⟩
  | .ETH_SVSTAT => ⟨8, 0x600, [(65536, 4)], false, .island, [⟨15, 0, .rc, 0⟩, ⟨31, 16, .rc, 0⟩]⟩
  | .ETH_TXSVC => ⟨8, 0x700, [(65536, 4), (8, 16)], true, .warm, [⟨0, 0, .rw, 0⟩, ⟨1, 1, .rw, 0⟩, ⟨2, 2, .rw, 0⟩]⟩
  | .ETH_TXSV => ⟨8, 0x800, [(65536, 4), (128, 16), (8, 16)], false, .warm, [⟨63, 0, .rw, 0⟩]⟩
  | .DVL_GRP => ⟨9, 0x0, [], true, .warm, [⟨1, 0, .rw, 0⟩, ⟨3, 2, .rw, 0⟩, ⟨47, 16, .rw, 0⟩]⟩
  | .DVL_CTL => ⟨9, 0x100, [(256, 2)], true, .warm, [⟨0, 0, .rw, 0⟩, ⟨1, 1, .wo, 0⟩, ⟨2, 2, .rw, 0⟩]⟩
  | .DVL_STAT => ⟨9, 0x108, [(256, 2)], false, .warm, [⟨1, 0, .ro, 0⟩, ⟨3, 2, .ro, 0⟩, ⟨7, 4, .ro, 0⟩, ⟨47, 16, .ro, 0⟩]⟩
  | .DVL_RXWIN0 => ⟨9, 0x110, [(256, 2)], true, .warm, [⟨39, 0, .rw, 0⟩]⟩
  | .DVL_RXWIN1 => ⟨9, 0x118, [(256, 2)], true, .warm, [⟨39, 0, .rw, 127⟩]⟩
  | .DVL_ERR => ⟨9, 0x120, [(256, 2)], false, .warm, [⟨31, 0, .rc, 0⟩, ⟨47, 32, .rc, 0⟩, ⟨63, 48, .rc, 0⟩]⟩
  | .DRD_CTL => ⟨10, 0x0, [], true, .warm, [⟨0, 0, .w1s, 0⟩, ⟨3, 1, .rw, 0⟩, ⟨31, 16, .rw, 1000⟩]⟩
  | .DRD_SAFE => ⟨10, 0x8, [], true, .warm, [⟨0, 0, .ro, 1⟩, ⟨1, 1, .wo, 0⟩, ⟨2, 2, .ro, 0⟩, ⟨15, 8, .ro, 0⟩, ⟨31, 16, .ro, 0⟩, ⟨63, 32, .ro, 0⟩]⟩
  | .DRD_STAT => ⟨10, 0x10, [], false, .warm, [⟨15, 0, .rc, 0⟩, ⟨31, 16, .rc, 0⟩, ⟨39, 32, .ro, 0⟩]⟩
  | .DRD_ISO => ⟨10, 0x18, [], true, .warm, [⟨15, 0, .wo, 0⟩]⟩
  | .DRD_REACT => ⟨10, 0x100, [(8, 26)], true, .warm, [⟨1, 0, .rw, 0⟩, ⟨15, 8, .rw, 1⟩, ⟨31, 16, .rw, 0⟩, ⟨47, 32, .ro, 0⟩, ⟨63, 48, .rc, 0⟩]⟩
  | .DRD_WD0 => ⟨10, 0x1000, [(16, 64)], true, .warm, [⟨0, 0, .rw, 0⟩, ⟨30, 1, .rw, 0⟩, ⟨63, 32, .rw, 0⟩]⟩
  | .DRD_WD1 => ⟨10, 0x1008, [(16, 64)], false, .warm, [⟨31, 0, .ro, 0⟩, ⟨47, 32, .ro, 0⟩, ⟨48, 48, .ro, 0⟩, ⟨63, 56, .rc, 0⟩]⟩
  | .DRD_WD_CHK => ⟨10, 0x1400, [], false, .warm, [⟨5, 0, .wo, 0⟩]⟩
  | .DRD_GS0 => ⟨10, 0x2000, [(64, 64)], true, .warm, [⟨0, 0, .rw, 0⟩, ⟨2, 1, .rw, 0⟩, ⟨5, 3, .rw, 0⟩, ⟨12, 6, .rw, 0⟩, ⟨18, 13, .rw, 0⟩, ⟨19, 19, .rw, 0⟩, ⟨20, 20, .rw, 0⟩, ⟨63, 48, .rw, 0⟩]⟩
  | .DRD_GS1 => ⟨10, 0x2008, [(64, 64)], true, .warm, [⟨5, 0, .rw, 0⟩, ⟨7, 6, .rw, 0⟩, ⟨8, 8, .rw, 0⟩, ⟨9, 9, .rw, 0⟩, ⟨63, 32, .rw, 0⟩]⟩
  | .DRD_GS2 => ⟨10, 0x2010, [(64, 64)], true, .warm, [⟨31, 0, .rw, 0⟩, ⟨63, 32, .rw, 0⟩]⟩
  | .DRD_GS3 => ⟨10, 0x2018, [(64, 64)], true, .warm, [⟨5, 0, .rw, 0⟩, ⟨7, 6, .rw, 0⟩, ⟨8, 8, .rw, 0⟩, ⟨9, 9, .rw, 0⟩, ⟨63, 32, .rw, 0⟩]⟩
  | .DRD_GS4 => ⟨10, 0x2020, [(64, 64)], true, .warm, [⟨31, 0, .rw, 0⟩, ⟨63, 32, .rw, 0⟩]⟩
  | .DRD_GS5 => ⟨10, 0x2028, [(64, 64)], true, .warm, [⟨63, 0, .rw, 0⟩]⟩
  | .DRD_GS6 => ⟨10, 0x2030, [(64, 64)], true, .warm, [⟨31, 0, .rw, 0⟩, ⟨63, 32, .rw, 0⟩]⟩
  | .DRD_GS7 => ⟨10, 0x2038, [(64, 64)], false, .warm, [⟨7, 0, .ro, 0⟩, ⟨11, 8, .ro, 0⟩, ⟨31, 16, .rc, 0⟩, ⟨63, 32, .ro, 0⟩]⟩
  | .DRD_SLV0 => ⟨10, 0x3000, [(16, 64)], true, .warm, [⟨63, 0, .rw, 0⟩]⟩
  | .DRD_SLV1 => ⟨10, 0x3008, [(16, 64)], true, .warm, [⟨63, 0, .rw, 0⟩]⟩
  | .DRD_SLV_EN => ⟨10, 0x3400, [], true, .warm, [⟨63, 0, .rw, 0⟩]⟩
  | .DRD_DIVJ => ⟨10, 0x4000, [(8, 24)], false, .warm, [⟨63, 0, .rw, 0⟩]⟩
  | .DRD_DIV_CTL => ⟨10, 0x40C0, [], false, .warm, [⟨0, 0, .wo, 0⟩, ⟨1, 1, .ro, 0⟩, ⟨15, 8, .ro, 0⟩, ⟨23, 16, .ro, 0⟩, ⟨63, 32, .ro, 0⟩]⟩
  | .DRD_ST_CTL => ⟨10, 0x5000, [], true, .warm, [⟨15, 0, .rw, 1000⟩]⟩
  | .DRD_ST_IDLE => ⟨10, 0x5008, [], false, .warm, [⟨15, 0, .wo, 0⟩, ⟨31, 16, .wo, 0⟩]⟩
  | .DRD_SW0 => ⟨10, 0x5100, [(16, 16)], true, .warm, [⟨31, 0, .rw, 0⟩, ⟨63, 32, .rw, 0⟩]⟩
  | .DRD_SW1 => ⟨10, 0x5108, [(16, 16)], true, .warm, [⟨31, 0, .rw, 0⟩, ⟨32, 32, .rw, 0⟩]⟩
  | .DRD_GOLD_GSTART => ⟨10, 0x6000, [], true, .warm, [⟨31, 0, .rw, 0⟩]⟩
  | .DRD_GOLD_GWIN => ⟨10, 0x6008, [], true, .warm, [⟨63, 0, .rw, 100000000⟩]⟩
  | .DRD_GOLD_BUD => ⟨10, 0x6010, [], true, .warm, [⟨15, 0, .rw, 20⟩]⟩
  | .DRD_GOLD_CHUNK => ⟨10, 0x6018, [], true, .warm, [⟨15, 0, .rw, 150⟩]⟩
  | .DRD_GOLD_URGENT => ⟨10, 0x6020, [], false, .warm, [⟨0, 0, .ro, 0⟩]⟩
  | .DRD_GOLD_PASS => ⟨10, 0x6028, [], false, .warm, [⟨0, 0, .w1s, 0⟩]⟩
  | .DRD_INJ => ⟨10, 0x7000, [], false, .cold, [⟨9, 0, .ro, 0⟩, ⟨63, 63, .ro, 0⟩]⟩
  | .WTM_CTL => ⟨11, 0x0, [], true, .warm, [⟨8, 0, .rw, 200⟩, ⟨11, 9, .rw, 0⟩, ⟨12, 12, .rw, 0⟩]⟩
  | .WTM_STAT => ⟨11, 0x8, [], false, .warm, [⟨15, 0, .ro, 0⟩, ⟨31, 16, .ro, 0⟩, ⟨47, 32, .rc, 0⟩]⟩
  | .WTM_THERM => ⟨11, 0x10, [], true, .warm, [⟨7, 0, .ro, 0⟩, ⟨15, 8, .ro, 0⟩, ⟨23, 16, .ro, 0⟩, ⟨31, 24, .ro, 0⟩, ⟨39, 32, .rw, 100⟩, ⟨47, 40, .rw, 115⟩, ⟨48, 48, .ro, 0⟩]⟩
  | .WTM_RST => ⟨11, 0x20, [], true, .warm, [⟨0, 0, .wo, 0⟩, ⟨1, 1, .wo, 0⟩, ⟨2, 2, .wo, 0⟩, ⟨3, 3, .wo, 0⟩, ⟨9, 4, .rw, 0⟩, ⟨17, 10, .rw, 0⟩]⟩
  | .WTM_RSTREC => ⟨11, 0x40, [(8, 4)], false, .cold, [⟨63, 0, .ro, 0⟩]⟩
  | .WTM_ISL => ⟨11, 0x100, [(8, 36)], true, .warm, [⟨5, 0, .rw, 0⟩, ⟨11, 6, .ro, 0⟩, ⟨23, 12, .rw, 0⟩, ⟨35, 24, .ro, 0⟩, ⟨47, 36, .ro, 0⟩, ⟨55, 48, .ro, 0⟩, ⟨56, 56, .ro, 0⟩, ⟨57, 57, .ro, 0⟩]⟩
  | .WTM_MOD => ⟨11, 0x800, [], false, .warm, [⟨15, 0, .ro, 0⟩, ⟨31, 16, .ro, 0⟩, ⟨32, 32, .ro, 0⟩, ⟨33, 33, .ro, 0⟩]⟩
  | .WTM_GPIO_CFG => ⟨11, 0x1000, [(8, 16)], true, .warm, [⟨1, 0, .rw, 0⟩, ⟨2, 2, .rw, 0⟩, ⟨4, 3, .rw, 0⟩, ⟨5, 5, .ro, 0⟩, ⟨6, 6, .w1c, 0⟩]⟩
  | .HST_WINB => ⟨12, 0x0, [(8, 4)], true, .warm, [⟨39, 0, .rw, 274877906944⟩, ⟨63, 63, .rw, 0⟩]⟩
  | .HST_OBW => ⟨12, 0x40, [], true, .warm, [⟨63, 0, .rw, 0⟩]⟩
  | .HST_IRQ => ⟨12, 0x48, [], false, .warm, [⟨7, 0, .wo, 0⟩]⟩
  | .HST_EVQIRQ => ⟨12, 0x80, [(8, 8)], true, .warm, [⟨7, 0, .rw, 0⟩, ⟨8, 8, .rw, 0⟩]⟩
  | .HST_RING0 => ⟨12, 0x1000, [(32, 64)], true, .warm, [⟨39, 0, .rw, 0⟩, ⟨43, 40, .rw, 0⟩, ⟨44, 44, .rw, 0⟩]⟩
  | .HST_RING1 => ⟨12, 0x1008, [(32, 64)], false, .warm, [⟨15, 0, .ro, 0⟩, ⟨31, 16, .rw, 0⟩]⟩
  | .HST_RING2 => ⟨12, 0x1010, [(32, 64)], true, .warm, [⟨20, 0, .rw, 0⟩, ⟨21, 21, .rw, 0⟩]⟩
  | .HST_STAT => ⟨12, 0x3000, [], false, .warm, [⟨15, 0, .rc, 0⟩, ⟨31, 16, .rc, 0⟩]⟩
  | .DBG_CTL => ⟨13, 0x0, [], true, .warm, [⟨2, 0, .rw, 0⟩]⟩
  | .DBG_MARK => ⟨13, 0x8, [], false, .warm, [⟨63, 0, .wo, 0⟩]⟩
  | .DBG_SCRATCH => ⟨13, 0x10, [(8, 8)], true, .warm, [⟨63, 0, .rw, 0⟩]⟩
  | .SEC_BOOT => ⟨14, 0x0, [], true, .warm, [⟨0, 0, .ro, 0⟩, ⟨1, 1, .ro, 0⟩, ⟨2, 2, .ro, 0⟩, ⟨3, 3, .wo, 0⟩]⟩
  | .SEC_ID => ⟨14, 0x80, [(8, 16)], false, .warm, [⟨63, 0, .ro, 0⟩]⟩
  | .SEC_MEAS => ⟨14, 0x100, [(32, 8), (8, 4)], false, .warm, [⟨63, 0, .ro, 0⟩]⟩
  | .SEC_EXTEND => ⟨14, 0x200, [(8, 4)], true, .warm, [⟨63, 0, .wo, 0⟩]⟩
  | .SEC_ATT => ⟨14, 0x300, [], true, .warm, [⟨39, 0, .rw, 0⟩, ⟨40, 40, .wo, 0⟩, ⟨41, 41, .ro, 0⟩, ⟨42, 42, .ro, 0⟩, ⟨43, 43, .ro, 0⟩]⟩
  | .SEC_ATT_GATE => ⟨14, 0x308, [], true, .warm, [⟨20, 0, .rw, 0⟩, ⟨21, 21, .rw, 0⟩]⟩
  | .SEC_ATT_NONCE => ⟨14, 0x310, [(8, 4)], false, .warm, [⟨63, 0, .rw, 0⟩]⟩
  | .SEC_AES_RING => ⟨14, 0x400, [], true, .warm, [⟨39, 0, .rw, 0⟩, ⟨47, 40, .rw, 0⟩, ⟨55, 48, .ro, 0⟩, ⟨56, 56, .rw, 0⟩, ⟨57, 57, .wo, 0⟩]⟩
  | .SEC_AES_STG => ⟨14, 0x408, [], true, .warm, [⟨39, 0, .rw, 0⟩]⟩
  | .SEC_KEY => ⟨14, 0x500, [(32, 8), (8, 4)], true, .warm, [⟨63, 0, .wo, 0⟩]⟩
  | .SEC_FWC => ⟨14, 0x600, [], true, .warm, [⟨39, 0, .rw, 0⟩, ⟨63, 40, .rw, 0⟩]⟩
  | .SEC_FWC_CTL => ⟨14, 0x608, [], true, .warm, [⟨0, 0, .wo, 0⟩, ⟨1, 1, .wo, 0⟩, ⟨2, 2, .ro, 0⟩, ⟨15, 8, .ro, 0⟩]⟩
  | .CLG_CTL => ⟨14, 0x1000, [], true, .warm, [⟨0, 0, .rw, 0⟩, ⟨3, 1, .rw, 0⟩]⟩
  | .CLG_RING => ⟨14, 0x1008, [], true, .warm, [⟨39, 0, .rw, 0⟩]⟩
  | .CLG_PTR => ⟨14, 0x1010, [], false, .warm, [⟨19, 0, .ro, 0⟩, ⟨51, 32, .rw, 0⟩]⟩
  | .CLG_SEQ => ⟨14, 0x1018, [], false, .cold, [⟨63, 0, .ro, 0⟩]⟩
  | .CLG_HEAD => ⟨14, 0x1020, [(8, 4)], false, .cold, [⟨63, 0, .ro, 0⟩]⟩
  | .CLG_STAT => ⟨14, 0x1040, [], false, .warm, [⟨31, 0, .rc, 0⟩, ⟨63, 32, .rc, 0⟩]⟩
  | .TB_INC => ⟨15, 0x0, [], false, .warm, [⟨39, 0, .rw, 10737418240⟩]⟩
  | .TB_NOW0 => ⟨15, 0x8, [], false, .warm, [⟨29, 0, .ro, 0⟩, ⟨63, 32, .ro, 0⟩]⟩
  | .TB_NOW1 => ⟨15, 0x10, [], false, .warm, [⟨47, 0, .ro, 0⟩]⟩
  | .TB_ADJ => ⟨15, 0x18, [], true, .warm, [⟨31, 0, .rw, 0⟩, ⟨63, 63, .wo, 0⟩]⟩
  | .TB_LOADNS => ⟨15, 0x20, [], true, .warm, [⟨29, 0, .rw, 0⟩]⟩
  | .TB_LOADSEC => ⟨15, 0x28, [], true, .warm, [⟨47, 0, .rw, 0⟩, ⟨63, 63, .wo, 0⟩]⟩
  | .TB_STAT => ⟨15, 0x30, [], false, .warm, [⟨0, 0, .w1c, 0⟩, ⟨1, 1, .ro, 0⟩, ⟨31, 16, .rc, 0⟩]⟩
  | .JNL_CTL => ⟨15, 0x1000, [], true, .warm, [⟨0, 0, .rw, 0⟩, ⟨1, 1, .wo, 0⟩, ⟨2, 2, .rw, 0⟩, ⟨3, 3, .rw, 0⟩, ⟨4, 4, .rw, 0⟩, ⟨5, 5, .rw, 0⟩, ⟨8, 6, .rw, 0⟩, ⟨10, 9, .ro, 2⟩]⟩
  | .JNL_RING => ⟨15, 0x1008, [], true, .warm, [⟨39, 0, .rw, 0⟩, ⟨55, 40, .rw, 0⟩]⟩
  | .JNL_PTR_WR => ⟨15, 0x1010, [], false, .warm, [⟨35, 0, .ro, 0⟩]⟩
  | .JNL_PTR_RD => ⟨15, 0x1018, [], false, .warm, [⟨35, 0, .rw, 0⟩]⟩
  | .JNL_STAT => ⟨15, 0x1020, [], false, .warm, [⟨31, 0, .rc, 0⟩, ⟨63, 32, .ro, 0⟩]⟩
  | .JNL_MARK => ⟨15, 0x1028, [], false, .warm, [⟨63, 0, .wo, 0⟩]⟩
  | .JNL_HOST => ⟨15, 0x1030, [], true, .warm, [⟨39, 0, .rw, 0⟩, ⟨63, 40, .rw, 0⟩]⟩
  | .JNL_HOSTF => ⟨15, 0x1038, [], true, .warm, [⟨39, 0, .rw, 0⟩, ⟨63, 40, .rw, 0⟩]⟩
  | .JNL_STG => ⟨15, 0x1040, [], true, .warm, [⟨39, 0, .rw, 0⟩, ⟨51, 40, .rw, 0⟩]⟩
  | .JNL_FEED => ⟨15, 0x1048, [], false, .warm, [⟨31, 0, .wo, 0⟩, ⟨32, 32, .ro, 0⟩, ⟨63, 40, .ro, 0⟩]⟩
  | .DET_CTL => ⟨15, 0x2000, [], true, .warm, [⟨0, 0, .rw, 0⟩]⟩
  | .DET_KEY => ⟨15, 0x2008, [], false, .warm, [⟨7, 0, .ro, 161⟩, ⟨15, 8, .ro, 1⟩, ⟨31, 16, .ro, 0⟩, ⟨63, 32, .ro, 0⟩]⟩
  | .DET_ARITH => ⟨15, 0x2010, [], true, .warm, [⟨4, 0, .rw, 0⟩]⟩
  | .DET_STAT => ⟨15, 0x2018, [], false, .warm, [⟨0, 0, .ro, 0⟩, ⟨1, 1, .ro, 1⟩, ⟨2, 2, .ro, 0⟩]⟩
  | .DET_LS => ⟨15, 0x2100, [], true, .warm, [⟨0, 0, .rw, 0⟩, ⟨1, 1, .ro, 0⟩, ⟨9, 2, .rw, 0⟩, ⟨13, 10, .rw, 0⟩, ⟨63, 32, .rw, 1000000⟩]⟩
  | .DET_LS_START => ⟨15, 0x2108, [], true, .warm, [⟨31, 0, .rw, 0⟩]⟩

/-- The registers of each block class, in the order of the chapters. -/
def regsOfClass : Nat → List RegName
  | 0 => [.FE_CTL, .FE_STAT, .FE_IDLE, .FE_TQ, .FE_TQ_PUSH, .FE_TQ_TAKE, .FE_TQ_RUN, .FE_ECC, .FE_GRID, .FE_CVTS]
  | 1 => [.EDG_CTL, .EDG_RING]
  | 2 => [.CST_MVR_CTL, .CST_MVR_PTR, .CST_EVQ, .CST_ARB_STAT, .CST_GDBG_SEL, .CST_GDBG, .CST_SLUICE, .CST_CLEVQ, .CST_PW_STAT, .CST_PW_CTL, .CST_BANKFB, .CST_ECC_BKT, .CST_ECC_CNT, .CST_ECC_MISS, .CST_ECC_LOG0, .CST_ECC_LOG1, .CST_SCRUB_CTL, .CST_SCRUB_BASE, .CST_SCRUB_LEN, .CST_SCRUB_PROG, .CST_SCRUB_CNT, .CST_SCRUB_FIRST, .CST_SCRUB_LAST, .CST_SCRUB_DUR, .CST_HECC, .CST_CGATE, .CST_CCHK0, .CST_CCHK1, .CST_MGATE, .CST_MCHK0, .CST_MCHK1]
  | 3 => [.HBM_ECC_BKT, .HBM_ECC_CNT, .HBM_ECC_MISS, .HBM_ECC_LOG0, .HBM_ECC_LOG1, .HBM_SCRUB_CTL, .HBM_SCRUB_BASE, .HBM_SCRUB_LEN, .HBM_SCRUB_PROG, .HBM_SCRUB_CNT, .HBM_SCRUB_FIRST, .HBM_SCRUB_LAST, .HBM_SCRUB_DUR]
  | 4 => [.ING_CH_CTL, .ING_CH_GEOM, .ING_CH_BL, .ING_CH_CCM, .ING_CH_BASE, .ING_CH_PTR, .ING_CH_GATE, .ING_CH_STAT, .ING_CH_LINK, .ING_STEER, .ING_CH_FRZ, .ING_FB_CTL, .ING_FB_BASE, .ING_FB_CMD, .ING_FB_TAKE, .ING_FB_STAT, .ING_TOK_TRIE]
  | 5 => [.SLV_CTL, .SLV_LANE_CTL, .SLV_LANE_STAT, .SLV_DOOR, .SLV_LANE_CNT]
  | 6 => [.SRV_CTL, .SRV_INJ_CTL, .SRV_INJ_P, .SRV_INJ_PRBS, .SRV_INJ_SWP, .SRV_CAP_CTL, .SRV_CAP_BASE, .SRV_CAP_STAT, .SRV_CAP_SEL, .SRV_SPI, .SRV_SPI_TX, .SRV_LP_CTL, .SRV_LP_TIME, .SRV_LP_LOFF, .SRV_LP_IN, .SRV_LP_SPB, .SRV_LP_FFB, .SRV_LP_OUT, .SRV_LP_GATE, .SRV_LP_MODE, .SRV_LP_SP, .SRV_LP_GAIN, .SRV_LP_FF, .SRV_LP_LIM, .SRV_LP_RATE, .SRV_LP_CNT, .SRV_LP_VAL, .SRV_LP_COEF0, .SRV_LP_COEF1, .SRV_LP_COEF2, .SRV_LP_STATE0, .SRV_LP_STATE1]
  | 7 => [.CB_CTL, .CB_NBT, .CB_DBT, .CB_STAT, .CB_TXTS, .CB_PHY, .CB_CNT, .CB_SAFE, .CB_MBX_CTL, .CB_MBX_ID, .CB_MBX_MASK, .CB_MBX_LT, .CB_MBX_CMD, .CB_MBX_STAT, .CB_MBX_RXID, .CB_MBX_DATA]
  | 8 => [.ETH_CTL, .ETH_MAC, .ETH_LAT, .ETH_LINK, .ETH_RXCLS, .ETH_TXQ0, .ETH_TXQ1, .ETH_RXQ0, .ETH_RXQ1, .ETH_RXQ2, .ETH_TXTS, .ETH_STAT, .ETH_RXSV0, .ETH_RXSV1, .ETH_SVSTAT, .ETH_TXSVC, .ETH_TXSV]
  | 9 => [.DVL_GRP, .DVL_CTL, .DVL_STAT, .DVL_RXWIN0, .DVL_RXWIN1, .DVL_ERR]
  | 10 => [.DRD_CTL, .DRD_SAFE, .DRD_STAT, .DRD_ISO, .DRD_REACT, .DRD_WD0, .DRD_WD1, .DRD_WD_CHK, .DRD_GS0, .DRD_GS1, .DRD_GS2, .DRD_GS3, .DRD_GS4, .DRD_GS5, .DRD_GS6, .DRD_GS7, .DRD_SLV0, .DRD_SLV1, .DRD_SLV_EN, .DRD_DIVJ, .DRD_DIV_CTL, .DRD_ST_CTL, .DRD_ST_IDLE, .DRD_SW0, .DRD_SW1, .DRD_GOLD_GSTART, .DRD_GOLD_GWIN, .DRD_GOLD_BUD, .DRD_GOLD_CHUNK, .DRD_GOLD_URGENT, .DRD_GOLD_PASS, .DRD_INJ]
  | 11 => [.WTM_CTL, .WTM_STAT, .WTM_THERM, .WTM_RST, .WTM_RSTREC, .WTM_ISL, .WTM_MOD, .WTM_GPIO_CFG]
  | 12 => [.HST_WINB, .HST_OBW, .HST_IRQ, .HST_EVQIRQ, .HST_RING0, .HST_RING1, .HST_RING2, .HST_STAT]
  | 13 => [.DBG_CTL, .DBG_MARK, .DBG_SCRATCH]
  | 14 => [.SEC_BOOT, .SEC_ID, .SEC_MEAS, .SEC_EXTEND, .SEC_ATT, .SEC_ATT_GATE, .SEC_ATT_NONCE, .SEC_AES_RING, .SEC_AES_STG, .SEC_KEY, .SEC_FWC, .SEC_FWC_CTL, .CLG_CTL, .CLG_RING, .CLG_PTR, .CLG_SEQ, .CLG_HEAD, .CLG_STAT]
  | 15 => [.TB_INC, .TB_NOW0, .TB_NOW1, .TB_ADJ, .TB_LOADNS, .TB_LOADSEC, .TB_STAT, .JNL_CTL, .JNL_RING, .JNL_PTR_WR, .JNL_PTR_RD, .JNL_STAT, .JNL_MARK, .JNL_HOST, .JNL_HOSTF, .JNL_STG, .JNL_FEED, .DET_CTL, .DET_KEY, .DET_ARITH, .DET_STAT, .DET_LS, .DET_LS_START]
  | _ => []

/-- Every register. -/
def allRegs : List RegName :=
  regsOfClass 0 ++
  regsOfClass 1 ++
  regsOfClass 2 ++
  regsOfClass 3 ++
  regsOfClass 4 ++
  regsOfClass 5 ++
  regsOfClass 6 ++
  regsOfClass 7 ++
  regsOfClass 8 ++
  regsOfClass 9 ++
  regsOfClass 10 ++
  regsOfClass 11 ++
  regsOfClass 12 ++
  regsOfClass 13 ++
  regsOfClass 14 ++
  regsOfClass 15

/-- Instance number at byte distance `off` from a register's first instance, if a whole instance lies
there: one stride and count after the other, outermost first. -/
def dimIndex : List (Nat × Nat) → Nat → Option Nat
  | [], off => if off = 0 then some 0 else none
  | (stride, count) :: r, off =>
    let inner := r.foldl (fun n d => n * d.2) 1
    if off / stride < count then (dimIndex r (off % stride)).map (off / stride * inner + ·) else none

/-- Byte distance of instance `i` from a register's first instance. -/
def dimOffset : List (Nat × Nat) → Nat → Nat
  | [], _ => 0
  | (stride, _) :: r, i =>
    let inner := r.foldl (fun n d => n * d.2) 1
    i / inner * stride + dimOffset r (i % inner)

/-- The control-space address of instance `i` of a register (R510). -/
def RegName.addr (r : RegName) (i : Nat) : Nat :=
  0x6000000000 + r.info.cls * 0x1000000 + r.info.off + dimOffset r.info.dims i

/-- The register instance that occupies a control-space address, if any (R510). -/
def regAt (a : Nat) : Option (RegName × Nat) :=
  let o := a - 0x6000000000
  let x := o % 0x1000000
  (regsOfClass (o / 0x1000000)).findSome? fun r =>
    if r.info.off ≤ x then (dimIndex r.info.dims (x - r.info.off)).map fun i => (r, i) else none

/-- Number of instances of a register. -/
def RegName.count (r : RegName) : Nat := r.info.dims.foldl (fun n d => n * d.2) 1

/-- The mask of bits [hi:lo]. -/
def maskBits (hi lo : Nat) : Word := w64 ((2 ^ (hi + 1 - lo) - 1) * 2 ^ lo)

/-- The bits of a register's fields that hold one of the given access codes. -/
def RegName.accMask (r : RegName) (as : List Acc) : Word :=
  r.info.fields.foldl (fun m f => if as.contains f.acc then m ||| maskBits f.hi f.lo else m) 0

/-- The value the field table gives a register at reset. -/
def RegName.tableReset (r : RegName) : Word :=
  r.info.fields.foldl (fun m f => m ||| w64 (f.reset * 2 ^ f.lo)) 0

end Sys2Proof.Machine
end

