-- ==== Sys2Proof/Machine/Sha.lean ====
section
/-! DEFINITION. SHA-256 (FIPS 180-4), which the change log, the boot measurements, the journal hash and
the lock-step digests use (R392, R404, R463, R474), and the byte order of words. -/

namespace Sys2Proof.Machine

/-- The n bytes of a number, least significant first. -/
def leBytes : Nat → Nat → List Byte
  | 0, _ => []
  | n + 1, x => BitVec.ofNat 8 x :: leBytes n (x / 256)

/-- The number that bytes hold, least significant first. -/
def leNat : List Byte → Nat
  | [] => 0
  | b :: r => b.toNat + 256 * leNat r

/-- The n bytes of a number, most significant first. -/
def beBytes (n x : Nat) : List Byte := (leBytes n x).reverse

/-- The number that bytes hold, most significant first. -/
def beNat (l : List Byte) : Nat := leNat l.reverse

/-- Splits a list into pieces of n, the last one possibly shorter; `fuel` bounds the pieces. -/
def piecesAux (n : Nat) : Nat → List α → List (List α)
  | 0, _ => []
  | _ + 1, [] => []
  | fuel + 1, l => l.take n :: piecesAux n fuel (l.drop n)

/-- Splits a list into pieces of n. -/
def pieces (n : Nat) (l : List α) : List (List α) := piecesAux n l.length l

/-- The first sixty-four primes, from which FIPS 180-4 takes its constants. -/
def firstPrimes : List Nat := (List.range 312).filter fun p => 2 ≤ p ∧ (List.range 16).all fun d => d + 2 < p → p % (d + 2) ≠ 0

/-- The greatest r below 2^n with r^k at most `v`, its bits found from the top down. -/
def rootBits (k v : Nat) : Nat → Nat
  | 0 => 0
  | n + 1 =>
    let hi := rootBits k (v >>> k) n
    if (2 * hi + 1) ^ k ≤ v then 2 * hi + 1 else 2 * hi

/-- The first 32 fraction bits of the k-th root of `p`. -/
def rootFraction (k p : Nat) : BitVec 32 := BitVec.ofNat 32 (rootBits k (p * 2 ^ (32 * k)) 40)

/-- The working words of one block: the eight chaining words in two groups of four (newest first in each)
and the sliding window of the next sixteen message words, oldest first. -/
structure ShaWork where
  abcd : List (BitVec 32)
  efgh : List (BitVec 32)
  win : List (BitVec 32)

/-- The exclusive or of a word turned right by each amount given. -/
def turns (x : BitVec 32) (l : List Nat) : BitVec 32 := l.foldl (fun r n => r ^^^ x.rotateRight n) 0

/-- One of the sixty-four turns of a block: the oldest message word of the window is used, the sixteenth
from it is made, and each group of four takes a new first word. -/
def ShaWork.turn (q : ShaWork) (k : BitVec 32) : ShaWork :=
  let at4 (l : List (BitVec 32)) (i : Nat) := l.getD i 0
  let u := q.efgh
  let chosen := (at4 u 0 &&& at4 u 1) ||| (~~~ at4 u 0 &&& at4 u 2)
  let sum := at4 u 3 + turns (at4 u 0) [6, 11, 25] + chosen + k + at4 q.win 0
  let t := q.abcd
  let most := (at4 t 0 &&& at4 t 1) ||| (at4 t 2 &&& (at4 t 0 ||| at4 t 1))
  let x := at4 q.win 1
  let y := at4 q.win 14
  let next := at4 q.win 0 + (turns x [7, 18] ^^^ (x >>> 3)) + at4 q.win 9 + (turns y [17, 19] ^^^ (y >>> 10))
  { abcd := (sum + turns (at4 t 0) [2, 13, 22] + most) :: t.take 3
    efgh := (at4 t 3 + sum) :: u.take 3
    win := q.win.drop 1 ++ [next] }

/-- The chaining words after one 64-byte block. -/
def shaChain (h : List (BitVec 32)) (blk : List Byte) : List (BitVec 32) :=
  let start : ShaWork :=
    { abcd := h.take 4, efgh := h.drop 4, win := (pieces 4 blk).map fun b => BitVec.ofNat 32 (beNat b) }
  let q := firstPrimes.foldl (fun q p => q.turn (rootFraction 3 p)) start
  (h.zip (q.abcd ++ q.efgh)).map fun p => p.1 + p.2

/-- SHA-256 of a byte string, 32 bytes. -/
def sha256 (m : List Byte) : List Byte :=
  let tail := (0x80 : Byte) :: (List.replicate ((119 - m.length % 64) % 64) 0 ++ beBytes 8 (8 * m.length))
  let first := (firstPrimes.take 8).map (rootFraction 2)
  ((pieces 64 (m ++ tail)).foldl shaChain first).flatMap fun w => beBytes 4 w.toNat

/-- One bit of the reflected CRC-32 of IEEE 802.3. -/
def crcBit (c : BitVec 32) : BitVec 32 :=
  if c.getLsbD 0 then (c >>> 1) ^^^ 0xEDB88320 else c >>> 1

/-- One byte of the CRC-32. -/
def crcByte (c : BitVec 32) (b : Byte) : BitVec 32 :=
  crcBit (crcBit (crcBit (crcBit (crcBit (crcBit (crcBit (crcBit (c ^^^ b.setWidth 32))))))))

/-- CRC-32 with the IEEE 802.3 polynomial (R211). -/
def crc32 (l : List Byte) : BitVec 32 := ~~~(l.foldl crcByte (BitVec.allOnes 32))

end Sys2Proof.Machine
end

