-- ==== Sys2Proof/Machine/State.lean ====
section
/-! DEFINITION. The machine's state as plain data: every register, memory, queue, counter, mode and pin
the spec gives the module, the queue of waiting commands, the outcomes a step can have besides a next
state, and the state after reset. Control-space registers live in `regs`, which lists only the registers
that differ from their reset values (Machine/RegDir.lean, Machine/Ops.lean). -/

namespace Sys2Proof.Machine

/-- Why a command stops the model. -/
inductive Fault where
  /-- The command's list operands do not have the lengths its rule gives them (Sys2Proof/WellFormed.lean).
  Raised by the arms whose operands carry bytes from outside. Safe: no such frame exists. -/
  | malformedCommand
deriving DecidableEq, Repr

/-- Why the model has no meaning for a command. -/
inductive Refusal where
  /-- No meaning yet, by the row's mnemonic. Safe. -/
  | notModelled (mnemonic : String)
deriving DecidableEq, Repr

/-- A scalar register: a word and its poison mark (R34, R74). -/
structure PWord where
  v : Word := 0
  p : Bool := false
deriving DecidableEq, Repr

/-- A vector register: 512 bits and a poison mark for each byte lane; an element is poisoned when a lane
of it is (R34, R74). -/
structure VReg where
  v : VWord := 0
  p : BitVec 64 := 0
deriving DecidableEq, Repr

/-- One accumulator element and its poison mark (R34, R74). -/
structure AElem where
  v : BitVec 32 := 0
  p : Bool := false
deriving DecidableEq, Repr

/-- The verbs with what their instruction word selects (R86-R94). -/
inductive VerbKind where
  | mma (set : Bool) (acc : Nat)
  | conv (accum : Bool)
  | dwconv (accum : Bool)
  | attn (recompute : Bool)
  | smax (fromStats : Bool)
  | norm (rms : Bool)
  | cvt
  | cvtAcc (acc : Nat)
  | crop
  | gath
  | scat (vm : Nat)
deriving DecidableEq, Repr

/-- A sequence of an `attn` verb in flight: its number, the next row to score, LEN when it began, its
record's words, whether it has begun, stalls, has ended, the pages staged and the pages found bad so far
(R233, R239, R242, R246-R248). -/
structure AttnSeq where
  idx     : Nat
  row     : Nat := 0
  len0    : Nat := 0
  begun   : Bool := false
  words   : List Nat := []
  stalled : Bool := false
  ended   : Bool := false
  staged  : List Nat := []
  bad     : List Nat := []
deriving DecidableEq, Repr

/-- A frame of the staging ring that still holds a page: the sequence and page, its address and size (R233). -/
structure AttnFrame where
  seq  : Nat
  page : Nat
  at_  : Nat
  size : Nat
deriving DecidableEq, Repr

/-- What an `attn` verb has found so far: flags, poisoned elements, pages and records refused or skipped,
status codes, the noun positions through which poison was read, the next offset in the staging ring and the
frames in use, the first poisoned word met as a page address (R233, R242, R243, R445). -/
structure AttnAcc where
  flags   : BitVec 5 := 0
  pcount  : Nat := 0
  vdetail : Nat := 0
  codes   : List Nat := []
  reads   : List Nat := []
  ring    : Nat := 0
  frames  : List AttnFrame := []
  eaten   : Option Nat := none
deriving DecidableEq, Repr

/-- A verb in a token slot: what its clause read at issue and, once done, its status word (R45, R58-R61);
`order` is the place of a `crop` in its sampler's queue (R271). -/
structure Verb where
  kind   : VerbKind
  seq    : Nat
  ctl    : Word
  nidx   : List Nat
  nouns  : List (List Word)
  fmode  : Word
  srseed : Word
  done   : Bool := false
  status : Word := 0
  psn    : Option Nat := none
  seqs   : List AttnSeq := []
  att    : AttnAcc := {}
  order  : Nat := 0
deriving DecidableEq, Repr

/-- The instructions of an issued clause that still wait for a verb or store of their own clause, with their
positions, and the registers as they were at clause start, which they read (R50, R53, R73). -/
structure ClauseRest where
  g  : Tab PWord
  v  : Tab VReg
  p  : Tab Word
  n  : Tab Word
  sp : Tab Word
  pc : Nat
  instrs : List (Nat × Instr)
deriving DecidableEq, Repr

/-- A core: a furrow engine, a solver lane's S-class unit or the Ditch Rider (R34, R310, R410). -/
structure CoreSt where
  /-- g1-g31 (R34). -/
  g : Tab PWord := []
  /-- v0-v31 (R34). -/
  v : Tab VReg := []
  /-- p1-p7 (R34). -/
  p : Tab Word := []
  /-- Noun table, word w of entry n at key 8n + w (R34, R41). -/
  n : Tab Word := []
  /-- Accumulator elements, element (i, j) of accumulator a at key 1024a + 32i + j (R34). -/
  a : Tab AElem := []
  /-- Accumulators tagged INT32; the others are tagged FP32 (R34, R36). -/
  aInt : List Nat := []
  /-- Special registers by number (R38). -/
  sp : Tab Word := []
  /-- Active grid tables, code c of table t at key 16t + c (R138). -/
  grid : Tab Nat := []
  /-- Token slots (R58). -/
  slots : Tab (Option Verb) := []
  /-- Sequence number of the next verb (R59). -/
  seq : Nat := 0
  /-- Address of the next clause (R51, R55). -/
  pc : Nat := 0
  /-- Instructions received and not yet issued, first in, first out. -/
  stream : List Instr := []
  /-- Runtime mode, or task mode (R37). -/
  runtime : Bool := true
  /-- 0 ENABLED, 1 DRAINING, 2 DISABLED, 3 FAILED (R521). -/
  state : Nat := 0
  /-- The clause at the stream's head waits (FE_STAT.WAITING). -/
  waiting : Bool := false
  /-- Its gate waiter or check arrival is recorded (R102, R103). -/
  arrived : Bool := false
  /-- Its gate or check has let it go (R193, R196). -/
  granted : Bool := false
  /-- ECAUSE[7:0] and EPC of the last fault (FE_STAT). -/
  lastCause : Nat := 0
  lastEpc : Nat := 0
  /-- Since when, in total ns, a clause with a `gwait` or `chka` waits at the stream's head (R205). -/
  gateSince : Option Nat := none
  /-- The engine's clock is gated (R205). -/
  gated : Bool := false
  /-- Data-fence counts: quadrants 0-3, Dvoril ports 4-5 (R198). -/
  fence : Tab Nat := []
  /-- Acceptance number at the last completed `gwait` or `chka` (R105). -/
  sync : Nat := 0
  /-- Moves issued, numbered (R171). -/
  moves : Nat := 0
  /-- A `tend` or `yield` that has issued and waits for the verbs and moves of its own clause: whether it is
  `yield`, the operand of `tend` or g1-g8, the clause's address (R69, R81). -/
  ending : Option (Bool × List PWord × Nat) := none
  /-- What is left of a clause that has issued (R50, R73, R105). -/
  rest : Option ClauseRest := none
deriving DecidableEq, Repr

/-- Where a mover's descriptor came from (R165-R167, R233). -/
inductive MvOrigin where
  | ring (i : Nat)
  | engine (e : Nat) (n : Nat)
  | unit (src : Nat) (n : Nat)
deriving DecidableEq, Repr

/-- A mover descriptor, its 24 words as taken (R167). -/
structure MvDesc where
  origin : MvOrigin
  words  : List Word
deriving DecidableEq, Repr

/-- A mover: descriptors in progress, oldest first; the handoff queue; which source it takes from next
(R165, R172). -/
structure MoverSt where
  prog    : List MvDesc := []
  handoff : List MvDesc := []
  fromHand : Bool := false
deriving DecidableEq, Repr

/-- A line write accepted into the Cistern switch, or waiting in its cluster port, and not yet performed
at its bank (R158, R174, R175, R177). -/
structure PWrite where
  bank  : Nat
  pt    : Nat
  src   : Nat
  seq   : Nat
  bytes : List (Nat × Byte)
  pois  : List Nat
  slot  : Option Nat := none
  age   : Nat := 0
  waited : Nat := 0
deriving DecidableEq, Repr

/-- A bank's arbiter: the slot granted last, the grants since the last age step and the slots they
used; the grants since the scrub engine last had a cycle (R175, R176). -/
structure BankSt where
  last : Nat := 239
  sub  : Nat := 0
  cool : List Nat := []
  busy : Nat := 0
deriving DecidableEq, Repr

/-- A gate waiter: who waits, for how much, at which clause (R102, R193). `who` is a source id. -/
structure Waiter where
  who : Nat
  amt : Nat
  pc  : Nat
deriving DecidableEq, Repr

/-- The last signal of a gate, for the debug view (R204). -/
structure GateLast where
  pc    : Nat := 0
  stamp : Nat := 0
  amt   : BitVec 32 := 0
deriving DecidableEq, Repr

/-- A check's arrivals: even round, odd round, held, in order, by source id; the last arrival (R196,
R204). -/
structure ChkSt where
  even : List Nat := []
  odd  : List Nat := []
  held : List Nat := []
  pc    : Nat := 0
  stamp : Nat := 0
  src   : Nat := 0
deriving DecidableEq, Repr

/-- A post held in the sluice: poster, clause address, handle, amount, the quadrants' awaited counts
(R199), for a post from another module the awaited landed-frame counts by receiving port, and when it came in total
ns. -/
structure Post where
  src    : Nat
  pc     : Nat
  handle : Word
  amt    : BitVec 32
  counts : List Nat
  remote : Option Nat := none
  ns     : Nat := 0
deriving DecidableEq, Repr

/-- The Timebase: seconds, nanoseconds, 2^-32 ns fraction (R350). -/
structure TimeSt where
  sec  : Nat := 0
  ns   : Nat := 0
  frac : Nat := 0
deriving DecidableEq, Repr

/-- A message the module puts on one of its wires during a command: the outputs of the block. -/
inductive OutMsg where
  | msi (vec : Nat)
  | hostWrite (addr : Nat) (bytes : List Byte) (ep : Bool)
  | hostData (bytes : List Byte) (ep : Bool)
  | readData (src : Nat) (v : Word)
  | unsupported
  | ethFrame (p : Nat) (bytes : List Byte)
  | canFrame (c : Nat) (f : CanFrame)
  | dvFrame (p : Nat) (words : List Word)
  | spi (p : Nat) (bytes : List Byte)
deriving DecidableEq, Repr

/-- An update of memory: one byte, one poison mark, or a range written zero without marks. -/
inductive MemUpd where
  | byte (a : Nat) (b : Byte)
  | mark (w : Nat) (p : Bool)
  | clear (lo hi : Nat)
deriving DecidableEq, Repr

/-- A change-log entry staged on chip: its chain index and its four words (R473-R475). -/
structure ClogEntry where
  n     : Nat
  words : List Word
deriving DecidableEq, Repr

/-- What waits in a crossing or before the change log: a write or a read of control space, the read's answer going to the
host or not; a gate signal; a host's write or read of a memory (R17, R18, R475, R485). -/
inductive HeldOp where
  | store (addr : Nat) (data : List Byte) (ep : Bool)
  | fetch (addr n : Nat)
  | write (addr size : Nat) (v : Word)
  | read (addr size : Nat) (host : Bool)
  | signal (h : Word) (amt : BitVec 32)
deriving DecidableEq, Repr

/-- An access held: its source, the access, when it arrived in total ns, and whether change-log staging holds it. -/
structure HeldEntry where
  src : Nat
  op  : HeldOp
  ns  : Nat
  log : Bool
deriving DecidableEq, Repr

/-- The change-log unit: staged entries oldest first; whether a loss has been reported since LOST was read; the number
of entries in the line being copied; the tag of the next copy (R475). -/
structure ClogSt where
  staged  : List ClogEntry := []
  lossTold : Bool := false
  line    : Nat := 0
  tag     : Nat := 0
deriving DecidableEq, Repr

/-- An MSI-X table entry (R459). -/
structure MsixEntry where
  masked : Bool := true
  pend   : Bool := false
  addr   : Word := 0
  data   : BitVec 32 := 0
deriving DecidableEq, Repr

/-- A host function: Bus Master Enable, MSI-X Enable (R457, R459). -/
structure FnSt where
  bme  : Bool := false
  msix : Bool := false
deriving DecidableEq, Repr

/-- A Dvoril frame: its virtual channel, its words (30 without link fields and CRC while it waits to be
sent, 32 once sent or received), the send it belongs to, whether it is that send's last, and how many bulk frames have
been sent since link-up, itself included (R211, R216). -/
structure DvTx where
  vc    : Nat
  words : List Word
  send  : Option Nat := none
  last  : Bool := false
  ord   : Nat := 0
deriving DecidableEq, Repr

/-- A Dvoril port (R209-R222): what the partner announced; the own receive window as at link-up; frames
waiting to be sent; sent frames not yet acknowledged, with their link sequence numbers; the next and the
last received link sequence number; credits held and to return; bulk frames received and not landed, with
their numbers; received post frames waiting for the sluice; sends in progress, oldest first, each with the bytes and
poisoned words of its payload; sends whose last frame is acknowledged, with that frame's place among the bulk frames; bulk
frames sent and bulk buffers that the partner has returned since link-up; consecutive resends; frames charged to sources
that are no engines; when DISC became 1. -/
structure DvPort where
  pmgmt   : Option DvPartner := none
  rxLo    : Nat := 0
  rxHi    : Nat := 0
  queue   : List DvTx := []
  replay  : List (Nat × DvTx) := []
  nextSeq : Nat := 0
  gotSeq  : Nat := 65535
  cred    : List Nat := [32, 32, 32, 32]
  back    : List Nat := [0, 0, 0, 0]
  landing : List (Nat × DvTx) := []
  posts   : List (List Post) := []
  sends   : List (Nat × MvDesc × Nat × Nat) := []
  acked   : List (Nat × Nat) := []
  sent0   : Nat := 0
  freed0  : Nat := 0
  nextSend : Nat := 0
  resends : Nat := 0
  charged : Tab Nat := []
  discNs  : Option Nat := none
deriving DecidableEq, Repr

/-- An entry of a page walker's look-aside buffer (R231). -/
structure PwEntry where
  slot : Nat
  gen  : Nat
  idx  : Nat
  ka   : Nat
  va   : Nat
deriving DecidableEq, Repr

/-- A job of an edge engine in progress: its ring index, or none for the diverse job; its 24 words; it has
taken IGATE; the acceptance number at the take; the kernel's width and height (R274-R276, R423). -/
structure EdgeJob where
  idx   : Option Nat
  words : List Word
  taken : Bool := false
  sync  : Nat := 0
  kw    : Nat := 1
  kh    : Nat := 1
deriving DecidableEq, Repr

/-- A frame waiting to be launched by a CAN mailbox (R376): CB_MBX_ID as copied, payload, the payload's
poisoned 8-byte words, launch time, EXP, the stamp of the request, whether its launch time has been reached,
whether it is a safe-state frame, the instant its seal is judged at. -/
structure CanBuf where
  id     : Word
  data   : List Byte
  psn    : List Nat := []
  lt     : Option Nat := none
  exp    : Nat := 0
  req    : Nat := 0
  ready  : Bool := false
  safe   : Bool := false
  inst   : Nat := 0
deriving DecidableEq, Repr

/-- A CAN mailbox: its launch buffer, a held request, the frame in its shadow buffer (R374, R379). -/
structure CanMbx where
  launch : Option CanBuf := none
  held   : Option CanBuf := none
  shadow : Option (Nat × List Byte × Nat) := none
deriving DecidableEq, Repr

/-- A CAN controller: the mailbox on the wire with the stamp of its SOF, the transmit timestamp queue,
whether bus-off recovery runs, whether the bus fault's condition holds, whether the receive error count is
above 127 (R372, R377, R383, R384). -/
structure CanSt where
  wire    : Option (Nat × Nat) := none
  txts    : List (Nat × Nat) := []
  recover : Bool := false
  cond    : Bool := false
  recHigh : Bool := false
deriving DecidableEq, Repr

/-- A frame waiting in an Ethernet servo slot's launch buffer (R364): its bytes, whether a sent byte is
poisoned, launch time, whether it is late, whether its launch time has been reached. -/
structure EthBuf where
  data   : List Byte
  psn    : Bool := false
  lt     : Option Nat := none
  late   : Bool := false
  ready  : Bool := false
deriving DecidableEq, Repr

/-- Where a frame on the wire of an Ethernet port came from. -/
inductive EthSrc where
  | queue (q idx : Nat)
  | slot (i : Nat)
deriving DecidableEq, Repr

/-- An Ethernet port: the servo launch buffers; the frame on the wire with its stamp; the head descriptor of
each transmit queue (0 not looked at, 1 waiting for its launch time, 2 ready, 3 ready and late); the transmit
timestamp queue; the receive queues in a run of discarded frames (R361-R365). -/
structure EthPort where
  slots   : Tab (Option EthBuf) := []
  wire    : Option (EthSrc × EthBuf × Nat) := none
  heads   : Tab Nat := []
  txts    : List (Nat × Nat) := []
  overrun : List Nat := []
deriving DecidableEq, Repr

/-- An arrival latched for the Servo Engine and the seal unit: receive stamp, payload, its number (R340). -/
structure Arrival where
  stamp : Nat
  data  : List Byte
  num   : Nat
deriving DecidableEq, Repr

/-- What a loop selected for an instant (R340, R341): the instant; the measurement, setpoint and feed-forward
values; whether the measurement is stale; whether a conversion saturated; the arrivals or sequence numbers that
the evaluation uses; whether the feed-forward value is stale. -/
structure ServoSel where
  t     : Nat
  meas  : BitVec 32
  sp    : BitVec 32
  ff    : BitVec 32
  stale : Bool
  sat   : Bool := false
  uses  : List (Option Nat) := []
  ffStale : Bool := false
deriving DecidableEq, Repr

/-- The signals of a loop's latest completed evaluation (R349). -/
structure ServoSig where
  meas : BitVec 32 := 0
  sp   : BitVec 32 := 0
  e    : BitVec 32 := 0
  c    : BitVec 32 := 0
  i    : BitVec 32 := 0
  u    : BitVec 32 := 0
  inj  : BitVec 32 := 0
  f    : BitVec 32 := 0
deriving DecidableEq, Repr

/-- A loop slot beyond its registers (R336-R347): the next instant; instants released and not selected; the
selection to be evaluated; an instant that waits for a fresh input in strict mode; the arrivals or sequence
numbers last used and the values last used of IN, SPB and FFB; consecutive stale evaluations; whether the last
evaluation, or the enable, was manual; whether an automatic evaluation now is a transfer from manual (R336, R345);
whether it was in manual when last disabled; the coefficient words in effect; outputs by instant, newest first, for
its children; the latest signals. -/
structure LoopSt where
  next     : Nat := 0
  released : List Nat := []
  sel      : Option ServoSel := none
  waits    : Option Nat := none
  used     : Tab (Option Nat) := []
  prev     : Tab (BitVec 32) := []
  staleRun : Nat := 0
  wasMan   : Bool := false
  preset   : Bool := false
  offMan   : Bool := false
  coef     : Tab Word := []
  hist     : List (Nat × BitVec 32) := []
  sig      : ServoSig := {}
deriving DecidableEq, Repr

/-- The injector's run: evaluations done, phase, PRBS register and its last bit (R348). -/
structure InjSt where
  k     : Nat := 0
  phase : Nat := 0
  prbs  : Nat := 0
  bitv  : Bool := false
deriving DecidableEq, Repr

/-- The capture's run: armed for the injector, evaluations seen, samples written, the instant of sample 0,
ended (R349). -/
structure CapSt where
  armed : Bool := false
  seen  : Nat := 0
  count : Nat := 0
  t0    : Nat := 0
  ended : Bool := false
deriving DecidableEq, Repr

/-- An input held by the journal, or a record it forms: kind, source, stamp, ns until it was presented,
payload, poisoned payload words, header flags, rows of a hashed frame that are streamed (R395-R398). -/
structure JIn where
  kind    : Nat
  src     : Nat
  stamp   : Nat
  delta   : Nat := 0
  payload : List Byte
  psn     : List Nat := []
  flags   : Nat := 0
  rows    : List Byte := []
deriving DecidableEq, Repr

/-- What the journal copies through its staging area: a record or the zero header before a wrap, at a ring
offset, or the rows of a hashed frame on their way to the host frame ring; its bytes and poisoned words; bytes
staged and copied; bytes of the piece in progress and the tags of its copies to the ring and to the host; the
record's SEQ, none for a zero header and for rows (R398). -/
structure JOut where
  rows   : Bool := false
  off    : Nat
  bytes  : List Byte
  psn    : List Nat := []
  staged : Nat := 0
  piece  : Nat := 0
  tag    : Option Nat := none
  host   : Option Nat := none
  seq    : Option Nat := none
  isSeal : Bool := false
deriving DecidableEq, Repr

/-- The journal (R395-R402): held inputs; what is being copied, in order; next SEQ; records lost since the
last LOST record and in total since enable; SEQ of the last whole record; whether a drain's SEAL has been made;
the next copy tag; a feed copy's bytes and outstanding tags, and its runs not yet handed to a mover; offsets in the
host ring and the host frame ring. -/
structure JnlSt where
  held    : List JIn := []
  out     : List JOut := []
  seq     : Nat := 0
  lost    : Nat := 0
  total   : Nat := 0
  lastSeq : Nat := 4294967295
  sealed  : Bool := false
  tag     : Nat := 0
  feed    : Option (Nat × List Nat) := none
  feedLeft : List (Nat × Nat × Nat) := []
  hostOff : Nat := 0
  rowsOff : Nat := 0
deriving DecidableEq, Repr

/-- A designated frame of the lock-step comparison: digest stamp, source, final code (none before it has
one), payload (R404). -/
structure LsFrame where
  stamp   : Nat
  src     : Nat
  mbx     : Nat
  code    : Option Nat := none
  payload : List Byte := []
deriving DecidableEq, Repr

/-- The lock-step comparator: designated frames, the epoch of the next digest, own and partner digests by
epoch (R404, R405). -/
structure LsSt where
  frames  : List LsFrame := []
  epoch   : Nat := 0
  own     : List (Nat × List Byte) := []
  partner : List (Nat × List Byte) := []
deriving DecidableEq, Repr

/-- A guarded stream beyond its registers: the raw fields 0 and 1 of the last frame that left with a valid
seal and of the frame that waits, the result of the waiting frame's checks, its pending ticket (R416-R418). -/
structure SealSt where
  last   : List Nat := []
  now    : List Nat := []
  hw     : Nat := 0
  ticket : Option Nat := none
deriving DecidableEq, Repr

/-- A self-test target (R426, R427): end of its idle window in total ns, whether a slice is in progress,
slices passed in the present pass, total ns of the last pass or of the last report. -/
structure SelfTest where
  idleEnd : Option Nat := none
  running : Bool := false
  passed  : Nat := 0
  since   : Nat := 0
deriving DecidableEq, Repr

/-- The Ditch Rider's units beyond their registers (R409-R432): next inbox record to take and to fill,
whether the firmware watchdog runs, streams, self-test targets, isolated source ids, number of the present
golden window, whether safe state has been entered by a detection, the level of SAFE_HB. -/
structure DrdSt where
  rd     : Nat := 0
  wr     : Nat := 0
  fwRun  : Bool := false
  streams : Tab SealSt := []
  tests  : Tab SelfTest := []
  iso    : List Nat := []
  golden : Nat := 0
  latched : Bool := false
  hb      : Bool := false
deriving DecidableEq, Repr

/-- Timebase requests that act at the next tick: a load, adjustments (R350); the increment of the last tick, when TB_INC
has been written since (R352). -/
structure TbPend where
  load : Option Nat := none
  adj  : List Int := []
  inc  : Option Nat := none
deriving DecidableEq, Repr

/-- A frame that an intake channel holds (R282, R283, R287): stamps of its start and end; frame number; rows as
received, bad and missing ones zero; rows still to be written as zeros; bad rows; TRUNC, LONG and TIMEOUT at
their record bits; the order numbers of its ready stripes; stripes processed; samples of the processed rows
with their poison; black levels, colour matrix and steering boxes
in force; whether an output is poisoned; rows of level RGL that RGATE has been told of. -/
structure ChanFrame where
  fs    : Nat
  fnum  : Nat
  fe    : Option Nat := none
  rows  : List (List Nat) := []
  zeros : List Nat := []
  bad   : Nat := 0
  flags : Nat := 0
  ready : List Nat := []
  done  : Nat := 0
  sam   : List (List (Nat × Bool)) := []
  bl    : Word := 0
  ccm   : List Word := []
  boxes : List (Word × Word × Bool) := []
  psn   : Bool := false
  told  : Nat := 0
deriving DecidableEq, Repr

/-- An intake channel beyond its registers: frames held, oldest first; the active steering table; a copied
table that waits for the next frame start; the copy in progress; frames delivered; frames dropped since the
last delivered one; signature, run of equal signatures and frame number of the last delivered frame
(R287-R293, R424). -/
structure ChanSt where
  frames : List ChanFrame := []
  boxes  : List (Word × Word × Bool) := []
  next   : Option (List (Word × Word × Bool)) := none
  steer  : Option (Nat × Nat) := none
  count  : Nat := 0
  drops  : Nat := 0
  sig    : Option Word := none
  same   : Nat := 0
  fnum   : Nat := 0
deriving DecidableEq, Repr

/-- A Forebay slot: 0 FREE, 1 FILLING, 2 READY, 3 TAKEN; its batch number; the value of ING_TOK_TRIE at the
push; the statuses of the samples that have ended (R296, R299, R301). -/
structure FbSlot where
  state : Nat := 0
  num   : Nat := 0
  trie  : Word := 0
  ends  : Tab (Option Nat) := []
deriving DecidableEq, Repr

/-- The Forebay beyond its registers: slots; pushed slots not yet taken, oldest first; the next batch number;
the running mean of each kind (R296, R303, R305). -/
structure ForebaySt where
  slots : Tab FbSlot := []
  order : List Nat := []
  num   : Nat := 0
  mean  : List Nat := [0, 0, 0]
deriving DecidableEq, Repr

/-- A problem in progress on a lane (R312-R324): its descriptor's offset and words; offers made and retained;
the kept half and whether it holds the warm-start seed; KMERIT; WARM and WARM_REJECTED; pivots regularised;
clauses retired. -/
structure Problem where
  desc     : Nat
  words    : List Word
  offers   : Nat := 0
  retained : Nat := 0
  kept     : Option Nat := none
  seed     : Bool := false
  merit    : Word := 0x7FF0000000000000
  warm     : Bool := false
  rejected : Bool := false
  pivots   : Nat := 0
  clauses  : Nat := 0
deriving DecidableEq, Repr

/-- A primitive in progress: its destination register, its record's address and words, the address of its
clause (R310, R325). -/
structure PrimRun where
  gd   : BitVec 5
  addr : Nat
  words : List Word
  psn  : Bool
  pc   : Nat
deriving DecidableEq, Repr

/-- A `keep` whose offer is being copied: the block, the half that takes it, its merit, the command in which it issued
(R321, R322). -/
structure KeepRun where
  addr  : Nat
  half  : Nat
  merit : Word
  turn  : Nat
deriving DecidableEq, Repr

/-- A solver lane beyond its registers: posted offsets, the problem, the primitive and the `keep` in progress (R315). -/
structure LaneSt where
  fifo : List Nat := []
  prob : Option Problem := none
  run  : Option PrimRun := none
  keep : Option KeepRun := none
deriving DecidableEq, Repr

/-- The boot ROM's and power inputs' state (R461-R464, R484, R501-R503, R508): the flash, fuses and keys
found at the last start; an image has been loaded and its slot (0 A, 1 B), SEQ and SVN; the debug port is
enabled; the OTP SVN; what the module itself last did to the two commit records since it last read them (none:
nothing; erased, or programmed with a SEQ); the boot waits for the cold plate; the reset pins held low; power
is good; VIN is reversed; start-up injection has run since the last reset. The flash and fuse fields survive a
cold reset. -/
structure BootSt where
  last    : Option BootInput := none
  loaded  : Bool := false
  slot    : Nat := 0
  seq     : Nat := 0
  svn     : Nat := 0
  debugOn : Bool := false
  otp     : Nat := 0
  recs    : List (Option (Option Nat)) := [none, none]
  waits   : Bool := false
  rstLow  : Bool := false
  perstLow : Bool := false
  pg      : Bool := true
  reversed : Bool := false
  injDone : Bool := false
deriving DecidableEq, Repr

/-- A decryption job in progress: its ring index, descriptor and key as they were when it began; bytes whose plaintext
has been written; what the piece at hand awaits (0 room for its copy into the staging region, 1 that copy, 2 room for its
copy into DST, 3 that copy; 4 that no piece is left), the tag of that copy, GHASH so far, and whether the job has
failed (R468-R470). -/
structure AesJob where
  idx   : Nat
  words : List Word
  key   : List Word
  pos   : Nat := 0
  phase : Nat := 0
  tag   : Nat := 0
  hash  : Nat := 0
  bad   : Bool := false
deriving DecidableEq, Repr

/-- Island 34's units beyond their registers: words 0-2 of SEC_EXTEND; key words and the slots written since
reset; the report being signed; the job being decrypted and the tag of its next copy (R463, R466, R468-R470). -/
structure SecSt where
  ext   : Tab Word := []
  keys  : Tab Word := []
  keyed : List Nat := []
  report : List Byte := []
  aes   : Option AesJob := none
  aesTag : Nat := 0
deriving DecidableEq, Repr

/-- A loan of allowance: lender, borrower and amount in 10 mW (R481). -/
structure Loan where
  lender   : Nat
  borrower : Nat
  amt      : Nat
deriving DecidableEq, Repr

/-- The Watermaster beyond its registers (R478-R483, R499, R502, R506): loans; islands that a re-evaluation
moves, up or down; thermal limits that differ from the island maximum; throttled dies; a junction has exceeded
CRIT; excursions in progress over CAP, over the input limit and out of the plate range; compact stamps of the
last edge of a GPIO pin. -/
structure WtmSt where
  loans   : List Loan := []
  want    : Tab (Option Bool) := []
  therm   : Tab Nat := []
  hot     : List Nat := []
  crit    : Bool := false
  capOver : Bool := false
  inpOver : Bool := false
  plateOver : Bool := false
  edges   : Tab (Option Nat) := []
deriving DecidableEq, Repr

/-- A request presented at an HBM pseudo-channel: its slot, 4q to 4q + 3 for quadrant q; its age; for a fallback
request, the number of the Cistern write and the 64-byte block of it that the access performs (R163, R164, R175). -/
structure HbmReq where
  slot : Nat
  age  : Nat := 0
  wr   : Option (Nat × Nat) := none
deriving DecidableEq, Repr

/-- The arbiter of an HBM pseudo-channel: requests presented; those that wait for a slot of their quadrant, in order
of arrival; the slot granted last; the grants since the last age step and the slots they used (R164, R175). -/
structure HbmArb where
  reqs : List HbmReq := []
  wait : List (Nat × Option (Nat × Nat)) := []
  last : Nat := 15
  sub  : Nat := 0
  cool : List Nat := []
deriving DecidableEq, Repr

/-- The arbiter of a Basin sub-bank: owner accesses that wait; sibling accesses that wait, with their clocks; the
sibling served last (R161). -/
structure BasinArb where
  owner : Nat := 0
  sibs  : List (Nat × Nat) := []
  last  : Nat := 15
deriving DecidableEq, Repr

/-- The whole machine. -/
structure State where
  /-- Bytes of HBM, Cistern, Basins, edge and lane memories and the Ditch Rider's private memory that are
  not zero (R28; an unlisted byte reads 0, R464, R484). -/
  mem : List Host.Cell := []
  /-- Poisoned 8-byte words, by address / 8, rising (R438). -/
  marks : List Nat := []
  /-- The running command's memory updates, newest first; empty between commands. -/
  wlog : List MemUpd := []
  /-- Code words whose stored code is in error: base address, and whether it is uncorrectable (R437,
  R438). -/
  latent : List (Nat × Bool) := []
  /-- Control-space registers that differ from their reset values: register, then instance. -/
  regs : Tab (Tab Word) := []
  /-- Engines at 0-255, solver lanes at 256-319, the Ditch Rider at 320. -/
  cores : Tab CoreSt := []
  /-- Ring movers at 0-11, engine movers at 16-271 (R165). -/
  movers : Tab MoverSt := []
  /-- Line writes on their way to the banks, in order of acceptance (R177). -/
  pend : List PWrite := []
  /-- Number of the next acceptance. -/
  accSeq : Nat := 0
  /-- Bank arbiters (R175). -/
  banks : Tab BankSt := []
  /-- Writes performed for a source by a quadrant, at key 65536 q + source (R198). -/
  perf : Tab Nat := []
  /-- Gate waiters by gate key, oldest first (R193). -/
  gateW : Tab (List Waiter) := []
  /-- Last signals by gate key (R204). -/
  gateL : Tab GateLast := []
  /-- Check arrivals by check key (R196). -/
  checks : Tab ChkSt := []
  /-- Posts in the sluice, oldest first (R200). -/
  sluice : List Post := []
  /-- Timebase (R350). -/
  tb : TimeSt := {}
  /-- Order code of the module (R3). -/
  part : OrderCode := .m128I
  /-- Detections reported during the command and not yet handled: class and source id (R413). -/
  raised : List (Nat × Nat) := []
  /-- Messages the last command put on the module's wires. -/
  out : List OutMsg := []
  /-- Counter of the free values used so far (the model's own). -/
  freeCtr : Nat := 0
  /-- Accesses that wait for an island's clock or reset, or for change-log staging, in order (R17, R18, R475, R485). -/
  held : List HeldEntry := []
  /-- Change log (R475). -/
  clog : ClogSt := {}
  /-- MSI-X entries by vector 0-255 (R454, R459). -/
  msix : Tab MsixEntry := []
  /-- Host functions (R457, R459). -/
  fns : Tab FnSt := []
  /-- SEC latched for a reader of TB_NOW0, by source id (R355). -/
  nowLatch : Tab Nat := []
  /-- Uncorrectable errors counted against each Cistern bank (R443). -/
  bankUE : Tab Nat := []
  /-- Units other than cores whose gate waiter has been served, by source id (R193). -/
  served : List Nat := []
  /-- Landed frames by receiving port, sending module and source (R213). -/
  landed : Tab Nat := []
  /-- Dvoril ports (R209). -/
  dvl : Tab DvPort := []
  /-- Completions of descriptors handed over by units: source id, tag, CODE (R166). -/
  unitDone : List (Nat × Nat × Nat) := []
  /-- Look-aside buffers of the page walkers by cluster, most recently used first (R231). -/
  walkers : Tab (List PwEntry) := []
  /-- Stalled sequences by cluster in the order they stalled: engine, slot, sequence (R247). -/
  stalls : Tab (List (Nat × Nat × Nat)) := []
  /-- Place of the next `crop` in a sampler's queue (R271). -/
  cropSeq : Nat := 0
  /-- Jobs in progress of the edge engines (R276). -/
  edge : Tab (Option EdgeJob) := []
  /-- Register words that hold poisoned values: mailbox data and servo templates, by register and instance
  (R366, R382). -/
  txPsn : List Nat := []
  /-- CAN mailboxes, by 128 c + n. -/
  mbx : Tab CanMbx := []
  /-- CAN controllers. -/
  can : Tab CanSt := []
  /-- Ethernet ports. -/
  eth : Tab EthPort := []
  /-- The four newest arrivals by binding kind, unit and mailbox or slot, newest first (R340). -/
  arrivals : Tab (List Arrival) := []
  /-- Number of the next arrival. -/
  arrNum : Nat := 0
  /-- Servo loops (R337). -/
  loops : Tab LoopSt := []
  /-- The injector (R348). -/
  inj : InjSt := {}
  /-- The response capture (R349). -/
  cap : CapSt := {}
  /-- The journal (R395). -/
  jnl : JnlSt := {}
  /-- The lock-step comparator (R404). -/
  ls : LsSt := {}
  /-- The Ditch Rider's units. -/
  drd : DrdSt := {}
  /-- Timebase requests awaiting the next tick (R350). -/
  tbPend : TbPend := {}
  /-- Intake channels. -/
  chans : Tab ChanSt := []
  /-- Order number of the next ready stripe (R283). -/
  stripeSeq : Nat := 0
  /-- Total ns at which the newest stripe became ready (R283). -/
  stripeNs : Nat := 0
  /-- Number of the command (the model's own: a `keep` is copied in the commands after its own, R322). -/
  turn : Nat := 0
  /-- The Forebay. -/
  fb : ForebaySt := {}
  /-- Solver lanes. -/
  lanes : Tab LaneSt := []
  /-- When the running scrub passes began, in total ns (R452). -/
  scrubAt : Tab Nat := []
  /-- Boot, flash, fuses and power inputs. -/
  boot : BootSt := {}
  /-- Security units. -/
  sec : SecSt := {}
  /-- The Watermaster. -/
  wtm : WtmSt := {}
  /-- Arbiters of the HBM pseudo-channels, by 64 × stack + pseudo-channel (R164). -/
  hbmArb : Tab HbmArb := []
  /-- Arbiters of the Basin sub-banks, by 16 × engine + sub-bank (R161). -/
  basinArb : Tab BasinArb := []
  /-- Commands waiting, first in, first out (the model's own). -/
  pending : List Instr := []
deriving DecidableEq, Repr

/-- The module right after a cold reset: every register at its reset value, every memory zero without
marks, every queue empty, every engine ENABLED in runtime mode (R12, R464, R484). -/
def State.reset : State := {}

end Sys2Proof.Machine
end

