-- ==== Sys2Proof/Machine/Ops.lean ====
section
/-! DEFINITION. The named operations over registers, time, memory and poison marks, and what every unit
shares: event records, interrupts, detections, the change log, free values, and the end of a command. -/

namespace Sys2Proof.Machine

/-! ## Registers -/

/-- Grid table 0 (R136). -/
def gridLevels : List Nat :=
  [0xBC00, 0xB9CB, 0xB873, 0xB6D9, 0xB523, 0xB33B, 0xB06A, 0xAB2B,
   0x0000, 0x2C19, 0x311F, 0x3442, 0x362D, 0x3837, 0x39A4, 0x3C00]

/-- Clock of an island at its maximum, in units of 50 MHz (R15, R478). DESIGN CHOICE: the 160 MHz of island 26 are no
multiple of 50 MHz and the spec gives no rounding: 3 units, 150 MHz (assumption log 7). -/
def islandMax (i : Nat) : Nat :=
  if i ≤ 7 ∨ (9 ≤ i ∧ i ≤ 16) then 52
  else if i = 8 ∨ i = 17 then 40
  else if i ≤ 23 then 32
  else if i = 24 then 20
  else if i = 25 then 8
  else if i = 26 then 3
  else if i = 27 then 20
  else if i = 28 then 40
  else if i = 29 then 16
  else if i = 30 ∨ i = 31 then 40
  else if i = 32 then 16
  else if i = 33 then 8
  else if i = 34 then 20
  else 32

/-- The cluster islands (R15). -/
def isClusterIsland (i : Nat) : Bool := decide (i ≤ 7) || (decide (9 ≤ i) && decide (i ≤ 16))

/-- The adjustable islands (R477). -/
def isAdjustable (i : Nat) : Bool :=
  decide (i ≤ 17) || decide (i = 28) || decide (i = 30) || decide (i = 31)

/-- Default allowance of an island in units of 10 mW; the 27.6 W of the fixed islands is shared equally
(R478, R480; assumption log 7). -/
def islandAllow (i : Nat) : Nat :=
  if isClusterIsland i then 940
  else if i = 8 ∨ i = 17 then 300
  else if i = 28 then 400
  else if i = 30 ∨ i = 31 then 600
  else 184

/-- Default reactions and thresholds of the detection classes (R413). -/
def reactDefault (k : Nat) : Nat :=
  let two := [5, 6, 8, 9, 10, 14]
  let three := [0, 1, 2, 11, 16, 19, 22, 23, 24, 25]
  let react := if two.contains k then 2 else if three.contains k then 3 else if k = 20 then 0 else 1
  react + 256 * (if k = 5 then 2 else 1)

/-- The reset value of instance `i` of a register: its table's, but for the registers whose reset value
depends on the instance. SH of DET_KEY is the settings hash of the reset values (R389). -/
def regReset (r : RegName) (i : Nat) : Word :=
  match r with
  | .FE_GRID =>
    let w := i % 4
    w64 (gridLevels.getD (4 * w) 0 + gridLevels.getD (4 * w + 1) 0 * 2 ^ 16 +
      gridLevels.getD (4 * w + 2) 0 * 2 ^ 32 + gridLevels.getD (4 * w + 3) 0 * 2 ^ 48)
  | .ING_CH_CTL => r.tableReset ||| w64 (i % 4 * 2 ^ 5)
  | .ETH_CTL => r.tableReset ||| w64 (i % 2 * 4)
  | .HST_WINB => r.tableReset ||| (if i = 0 then 0x8000000000000000 else 0)
  | .DRD_REACT => w64 (reactDefault i)
  | .DET_KEY => r.tableReset ||| w64 (3070617115 * 2 ^ 32)
  | .WTM_ISL =>
    w64 (islandMax i + islandMax i * 2 ^ 6 + islandAllow i * 2 ^ 12 + 160 * 2 ^ 48)
  | r => r.tableReset

/-- The contents of a register. -/
def State.reg (s : State) (r : RegName) (i : Nat) : Word :=
  tget (regReset r) (tget (fun _ => []) s.regs r.ctorIdx) i

/-- Sets the contents of a register. -/
def State.setReg (s : State) (r : RegName) (i : Nat) (v : Word) : State :=
  let row := tput (regReset r) (tget (fun _ => []) s.regs r.ctorIdx) i v
  { s with regs := tput (fun _ => []) s.regs r.ctorIdx row }

/-- A field of a register, as a number. -/
def State.fld (s : State) (f : Fld) (i : Nat) : Nat :=
  ((s.reg f.reg i).extractLsb' f.lo (f.hi + 1 - f.lo)).toNat

/-- A one-bit field. -/
def State.bit (s : State) (f : Fld) (i : Nat) : Bool := (s.reg f.reg i).getLsbD f.lo

/-- A word with bits [hi:lo] replaced. -/
def putBits (w : Word) (hi lo n : Nat) : Word :=
  (w &&& ~~~(maskBits hi lo)) ||| (w64 (n * 2 ^ lo) &&& maskBits hi lo)

/-- Sets a field of a register. -/
def State.setFld (s : State) (f : Fld) (i n : Nat) : State :=
  s.setReg f.reg i (putBits (s.reg f.reg i) f.hi f.lo n)

/-- Sets a one-bit field. -/
def State.setBit (s : State) (f : Fld) (i : Nat) (b : Bool) : State :=
  s.setFld f i (if b then 1 else 0)

/-- The largest value of a field. -/
def Fld.top (f : Fld) : Nat := 2 ^ (f.hi + 1 - f.lo) - 1

/-- Adds to a counter field that saturates. -/
def State.satAdd (s : State) (f : Fld) (i n : Nat) : State :=
  s.setFld f i (min f.top (s.fld f i + n))

/-- Adds to a counter field that wraps. -/
def State.wrapAdd (s : State) (f : Fld) (i n : Nat) : State :=
  s.setFld f i ((s.fld f i + n) % (f.top + 1))

/-- Bits [hi:lo] of a word, as a number. -/
def bitsOf (w : Word) (hi lo : Nat) : Nat := (w.extractLsb' lo (hi + 1 - lo)).toNat

/-! ## Islands and their crossings (R15-R18, R485) -/

/-- Island of a cluster. -/
def islandOf (c : Nat) : Nat := if c < 8 then c else c + 1

/-- The island that holds an instance of a register; 36 for the islands that are never reset apart or gated. -/
def regIsland (r : RegName) (i : Nat) : Nat :=
  match r with
  | .FE_GRID => islandOf (i / 512)
  | .FE_CVTS => islandOf (i / 128)
  | .CST_CGATE => islandOf (i / 256)
  | .CST_CCHK0 | .CST_CCHK1 => islandOf (i / 64)
  | .CST_PW_STAT | .CST_PW_CTL => islandOf i
  | .SLV_LANE_CTL | .SLV_LANE_STAT | .SLV_DOOR | .SLV_LANE_CNT => 30 + i / 32
  | .TB_INC | .TB_NOW0 | .TB_NOW1 | .TB_ADJ | .TB_LOADNS | .TB_LOADSEC | .TB_STAT => 25
  | r => match r.info.cls with
    | 0 => islandOf (i / 16)
    | 1 => 28
    | 4 => 27
    | 6 => 29
    | 7 => 26
    | 8 => 25
    | 9 => 35
    | 12 => 24
    | _ => 36

/-- An island takes no entry from its crossings: its clock is gated or it is in reset (R18, R485). -/
def islandStops (s : State) (i : Nat) : Bool := s.bit WTM_ISL.GATED i || s.bit WTM_ISL.INRST i

/-! ## Time (R38, R350) -/

/-- Total Timebase nanoseconds. -/
def State.totalNs (s : State) : Nat := s.tb.sec * 1000000000 + s.tb.ns

/-- The compact stamp: the low 32 bits of the total nanoseconds. -/
def State.stamp (s : State) : Nat := s.totalNs % 2 ^ 32

/-- An access joins those that wait. -/
def holdEntry (s : State) (src : Nat) (op : HeldOp) (log : Bool) : State :=
  { s with held := s.held ++ [⟨src, op, s.totalNs, log⟩] }

/-- The signed distance from compact stamp `a` to compact stamp `b`. -/
def stampDiff (a b : Nat) : Int := (BitVec.ofInt 32 ((b : Int) - a)).toInt

/-- Compact stamp `t` has been reached. -/
def State.reached (s : State) (t : Nat) : Bool := decide (0 ≤ stampDiff t s.stamp)

/-! ## Free values -/

/-- The next free value. -/
def State.free (s : State) : Word := Config.freeWord s.freeCtr

/-- One free value has been used. -/
def State.useFree (s : State) : State := { s with freeCtr := s.freeCtr + 1 }

/-! ## Addresses (R28, R29, R157) -/

def cisternBase : Nat := 0x4000000000
def runtimeBase : Nat := 0x403F000000
def drdBase : Nat := 0x8000000000

/-- What the physical address map holds at an address. The Ditch Rider's private memory is no part of the
map (R410); the model keeps it above the 40-bit space. -/
inductive Region where
  | hbm
  | cistern
  | basin (e : Nat)
  | edge (x : Nat)
  | lane (l : Nat)
  | control
  | outbound
  | drdPrivate
  | absent
deriving DecidableEq, Repr

/-- The region of an address; the absent upper half of HBM on CVP16-M064-I is `absent` (R5, R28). -/
def regionOf (part : OrderCode) (a : Nat) : Region :=
  if a < 0x2000000000 then
    (if part = .m064I ∧ 0x1000000000 ≤ a then .absent else .hbm)
  else if a < cisternBase then .absent
  else if a < 0x4040000000 then .cistern
  else if a < 0x5000000000 then .absent
  else if a < 0x5020000000 then
    (if (a - 0x5000000000) % 0x200000 < 0x180000 then .basin ((a - 0x5000000000) / 0x200000) else .absent)
  else if a < 0x5100000000 then .absent
  else if a < 0x5100400000 then .edge ((a - 0x5100000000) / 0x200000)
  else if a < 0x5200000000 then .absent
  else if a < 0x5202000000 then .lane ((a - 0x5200000000) / 0x80000)
  else if a < 0x6000000000 then .absent
  else if a < 0x6010000000 then .control
  else if a < 0x7000000000 then .absent
  else if a < 0x8000000000 then .outbound
  else if a < drdBase + 0x40000 then .drdPrivate
  else .absent

def State.region (s : State) (a : Nat) : Region := regionOf s.part a

/-- The memory at an address lies in an island that takes no entry (R15, R18, R485). -/
def memStops (s : State) (a : Nat) : Bool :=
  match s.region a with
  | .basin e => islandStops s (islandOf (e / 16))
  | .edge _ => islandStops s 28
  | .lane l => islandStops s (30 + l / 32)
  | _ => false

/-- Bytes a to a + n - 1 all lie in one region (an access or a footprint of that region). -/
def State.within (s : State) (r : Region) (a n : Nat) : Bool :=
  decide (s.region a = r) && decide (s.region (a + n - 1) = r) && decide (0 < n)

/-- The Cistern bank of an address (R157). -/
def bankOf (a : Nat) : Nat :=
  let o := a - cisternBase
  (o / 2 ^ 7 % 128) ^^^ (o / 2 ^ 14 % 128)

/-- The quadrant of a bank (R157). -/
def quadOf (a : Nat) : Nat := bankOf a / 32

/-- HBM stack of an address (R29). -/
def stackOf (a : Nat) : Nat := a / 2 ^ 35 % 2

/-- Pseudo-channel of an HBM address within its stack (R162). -/
def pchanOf (a : Nat) : Nat := (a / 2 ^ 8 % 64) ^^^ (a / 2 ^ 14 % 64)

/-- Where a byte is held: a Cistern line of the bank under fallback is held in HBM (R435). -/
def State.home (s : State) (a : Nat) : Nat :=
  if s.fld CST_BANKFB.STATE 0 = 2 ∧ cisternBase ≤ a ∧ a < 0x4040000000 ∧
      bankOf a = s.fld CST_BANKFB.BANK 0 then
    s.fld CST_BANKFB.BASE 0 + (a - cisternBase) / 2 ^ 14 * 128 + a % 128
  else a

/-! ## Memory and poison marks (R438, R439) -/

/-- The newest update of a byte, if the running command has made one. -/
def updByte : List MemUpd → Nat → Option Byte
  | [], _ => none
  | .byte a b :: r, k => if a = k then some b else updByte r k
  | .clear lo hi :: r, k => if lo ≤ k ∧ k ≤ hi then some 0 else updByte r k
  | .mark _ _ :: r, k => updByte r k

/-- The newest update of a word's mark, if the running command has made one. -/
def updMark : List MemUpd → Nat → Option Bool
  | [], _ => none
  | .mark w p :: r, k => if w = k then some p else updMark r k
  | .clear lo hi :: r, k => if lo ≤ 8 * k ∧ 8 * k ≤ hi then some false else updMark r k
  | .byte _ _ :: r, k => updMark r k

/-- What an unlisted address reads as (R464, R484): zero. -/
def memDefault (_ : Nat) : Byte := 0

/-- A byte of the storage. -/
def State.cell (s : State) (a : Nat) : Byte := (updByte s.wlog a).getD (tget memDefault s.mem a)

/-- A byte as the module reads it. -/
def State.byte (s : State) (a : Nat) : Byte := s.cell (s.home a)

/-- The mark of the 8-byte word that holds an address. -/
def State.mark (s : State) (a : Nat) : Bool :=
  let w := s.home a / 8
  (updMark s.wlog w).getD (s.marks.contains w)

/-- Records a memory update. -/
def State.upd (s : State) (u : MemUpd) : State := { s with wlog := u :: s.wlog }

/-- Applies one update to the stored bytes. -/
def memApply (m : List Host.Cell) : MemUpd → List Host.Cell
  | .byte a b => tput memDefault m a b
  | .mark _ _ => m
  | .clear lo hi => tclear lo hi m

/-- Applies one update to the stored marks. -/
def marksApply (m : List Nat) : MemUpd → List Nat
  | .mark w true => sinsert m w
  | .mark w false => serase m w
  | .clear lo hi => m.filter fun w => decide (8 * w < lo) || decide (hi < 8 * w)
  | .byte _ _ => m

/-- The stored memory is in canonical form: addresses strictly rising, no zero byte listed, marks strictly
rising. -/
def State.wf (s : State) : Bool := twf memDefault s.mem && sortedFrom 0 s.marks

/-- n bytes from an address. -/
def State.bytes (s : State) (a : Nat) : Nat → List Byte
  | 0 => []
  | n + 1 => s.byte a :: s.bytes (a + 1) n

/-- A little-endian number of n bytes. -/
def State.load (s : State) (a n : Nat) : Nat := leNat (s.bytes a n)

/-- Some word that bytes a to a + n - 1 touch is poisoned. -/
def State.poisoned (s : State) (a n : Nat) : Bool :=
  (upFrom (a / 8) ((a + n - 1) / 8 + 1 - a / 8)).any fun w => s.mark (8 * w)

/-- The first poisoned word that bytes a to a + n - 1 touch. -/
def State.firstPoison (s : State) (a n : Nat) : Option Nat :=
  ((upFrom (a / 8) ((a + n - 1) / 8 + 1 - a / 8)).find? fun w => s.mark (8 * w)).map (8 * ·)

/-- Writes bytes; `pois` says for an 8-byte word whether the value written into it is poisoned. A word
wholly written takes that mark, a word partly written can only gain one (R439). -/
def State.write (s : State) (bs : List (Nat × Byte)) (pois : Nat → Bool) : State :=
  let s₁ := forL bs (fun b s => s.upd (.byte (s.home b.1) b.2)) s
  forL (bs.map fun b => b.1 / 8).eraseDups (fun w s =>
    if (bs.filter fun b => b.1 / 8 == w).length = 8 then s.upd (.mark (s.home (8 * w) / 8) (pois w))
    else if pois w then s.upd (.mark (s.home (8 * w) / 8) true) else s) s₁

/-- Addresses for a run of bytes. -/
def atAddr (a : Nat) (bs : List Byte) : List (Nat × Byte) := (upFrom a bs.length).zip bs

/-- Writes a run of clean bytes. -/
def State.writeRun (s : State) (a : Nat) (bs : List Byte) : State :=
  s.write (atAddr a bs) fun _ => false

/-- Writes a little-endian number of n bytes, clean. -/
def State.store (s : State) (a n v : Nat) : State := s.writeRun a (leBytes n v)

/-- A 64-bit word of memory. -/
def State.word (s : State) (a : Nat) : Word := w64 (s.load a 8)

/-- n consecutive 64-bit words of memory. -/
def State.words (s : State) (a : Nat) : Nat → List Word
  | 0 => []
  | n + 1 => s.word a :: s.words (a + 8) n

/-! ## Interrupts and events (R160, R459, R516, R518, R519) -/

/-- Sends a message on one of the module's wires. -/
def State.send (s : State) (m : OutMsg) : State := { s with out := s.out ++ [m] }

/-- The function of an MSI-X vector (R454). -/
def fnOfVec (v : Nat) : Nat := if v < 64 then 0 else if v < 192 then 1 else if v < 224 then 2 else 3

/-- Sends an MSI-X vector, or sets its pending bit when it is masked or its function's MSI-X Enable is
clear (R459). -/
def sendVec (s : State) (v : Nat) : State :=
  let e := tget (fun _ => ({} : MsixEntry)) s.msix v
  if ! e.masked && (tget (fun _ => ({} : FnSt)) s.fns (fnOfVec v)).msix then s.send (.msi v)
  else { s with msix := tput (fun _ => ({} : MsixEntry)) s.msix v { e with pend := true } }

/-- Address of event queue q (R159). -/
def evqAddr (q : Nat) : Nat := 0x403F210000 + 0x10000 * q

/-- Appends an event record with an explicit stamp, or counts it in LOST when the queue is full (R160,
R516). -/
def eventAt (s : State) (q code src detail stamp : Nat) : State :=
  let wr := s.fld CST_EVQ.WR q
  let rd := s.fld CST_EVQ.RD q
  if (wr + 1) % 4096 = rd then s.satAdd CST_EVQ.LOST q 1
  else
    let a := evqAddr q + 16 * wr
    let s := s.store a 8 (stamp + src * 2 ^ 32 + code * 2 ^ 48)
    let s := s.store (a + 8) 8 detail
    let s := s.setFld CST_EVQ.WR q ((wr + 1) % 4096)
    if wr = rd ∧ s.bit HST_EVQIRQ.EN q then sendVec s (s.fld HST_EVQIRQ.VEC q) else s

/-- Appends an event record stamped now. -/
def event (s : State) (q code src detail : Nat) : State := eventAt s q code src detail s.stamp

/-- The event queue of a cluster (R519). -/
def clusterQ (s : State) (c : Nat) : Nat := s.fld CST_CLEVQ.EVQ c

/-- The event queue of an engine's cluster (R519). -/
def engineQ (s : State) (e : Nat) : Nat := clusterQ s (e / 16)

/-- Reports a detection; the Ditch Rider takes it at the end of the command (R413, R414). -/
def detect (s : State) (k src : Nat) : State := { s with raised := s.raised ++ [(k, src)] }

/-- Appends an event record whose detail no rule gives: a free value (R516; assumption log 5). -/
def eventFree (s : State) (q code src : Nat) : State := event s.useFree q code src s.free.toNat

/-- Work arrives at a self-test target: its idle window ends, and a slice in progress is aborted (R427). -/
def workArrives (s : State) (sid : Nat) : State :=
  let d := fun (_ : Nat) => ({} : SelfTest)
  let t := { tget d s.drd.tests sid with idleEnd := none, running := false }
  { s with drd := { s.drd with tests := tput d s.drd.tests sid t } }

/-- The queue of an event that a unit raises and no rule places (R518). -/
def unitQ (s : State) (src : Nat) : Nat :=
  match src / 0x1000 with
  | 0x0 => if src < 0x100 then engineQ s src else 0
  | 0x5 => s.fld SLV_CTL.EVQ 0
  | 0x6 => s.fld SRV_CTL.EVQ 0
  | 0x7 => s.fld CB_CTL.EVQ (src % 8)
  | 0x8 => s.fld ETH_CTL.EVQ (src % 4)
  | 0xA => s.fld DRD_CTL.EVQ 0
  | _ => 0

/-- A poisoned value is consumed: event POISON-CONSUMED and a detection of class 18 (R447). -/
def consumePoison (s : State) (src kind addr : Nat) : State :=
  detect (event s (unitQ s src) (src / 0x1000 * 0x1000 + 0x0FE) src (addr + kind * 2 ^ 40)) 18 src

/-! ## Code errors of stored words (R437-R444) -/

/-- Size of a code word (R437). -/
def codeSize : Region → Nat
  | .hbm => 64
  | .cistern => 16
  | _ => 8

/-- Adds an error to an address table: index of the first log register of the table, code-word address,
kind, reader (R441). -/
def logError (s : State) (l0 l1 : RegName) (missF : Fld) (missI base a : Nat) (ue : Bool) (src : Nat) : State :=
  let isV := fun i => (s.reg l0 (base + i)).getLsbD 41
  let isUE := fun i => (s.reg l0 (base + i)).getLsbD 40
  let rep := fun i => bitsOf (s.reg l0 (base + i)) 63 48
  let adr := fun i => bitsOf (s.reg l0 (base + i)) 39 0
  let idx := upFrom 0 8
  let fresh := fun i (s : State) =>
    (s.setReg l0 (base + i) (w64 (a + (if ue then 2 ^ 40 else 0) + 2 ^ 41))).setReg l1 (base + i)
      (w64 (s.stamp + src * 2 ^ 32))
  match idx.find? fun i => isV i && decide (adr i = a) && (isUE i == ue) with
  | some i => s.setReg l0 (base + i) (putBits (s.reg l0 (base + i)) 63 48 (min 65535 (rep i + 1)))
  | none =>
    match idx.find? fun i => ! isV i with
    | some i => fresh i s
    | none =>
      let ces := idx.filter fun i => ! isUE i
      if ue && ! ces.isEmpty then
        let m := ces.foldl (fun m i => min m (rep i)) 65536
        match ces.find? fun i => decide (rep i = m) with
        | some i => fresh i s
        | none => s
      else s.satAdd missF missI 1

/-- A correctable error fills a bucket (R442). -/
def bucketCE (s : State) (lvl dep : Fld) (ovf : Fld) (i q code src : Nat) : State :=
  if s.fld lvl i = s.fld dep i then
    let s' := s.setBit ovf i true
    if s.bit ovf i then s' else event s' q code src (i + s.fld dep i * 2 ^ 16)
  else s.setFld lvl i (s.fld lvl i + 1)

/-- Address-table base of an HBM code word: stack, then channel p[5:1] (R440, R162). -/
def hbmLogBase (a : Nat) : Nat := (stackOf a * 32 + pchanOf a / 2) * 8

/-- An error found in a code word, counted and reported; kind 0 demand read, 1 scrub, 2 partial write
(R440, R441, R444). `src` is the reader. -/
def foundError (s : State) (a : Nat) (ue : Bool) (kind src : Nat) : State :=
  let det := a + kind * 2 ^ 40
  match s.region a with
  | .cistern =>
    let q := quadOf a
    let s := s.satAdd (if ue then CST_ECC_CNT.UE else CST_ECC_CNT.CE) q 1
    let s := logError s .CST_ECC_LOG0 .CST_ECC_LOG1 CST_ECC_MISS.MISSED q (8 * q) a ue src
    if ue then event s (s.fld CST_SCRUB_CTL.EVQ 0) 0x2021 (0x2200 + bankOf a) det
    else bucketCE s CST_ECC_BKT.LEVEL CST_ECC_BKT.DEPTH CST_ECC_BKT.OVF q (s.fld CST_SCRUB_CTL.EVQ 0) 0x2020
      (0x2300 + q)
  | .hbm =>
    let k := stackOf a
    let s := s.satAdd (if ue then HBM_ECC_CNT.UE else HBM_ECC_CNT.CE) k 1
    let s := logError s .HBM_ECC_LOG0 .HBM_ECC_LOG1 HBM_ECC_MISS.MISSED k (hbmLogBase a) a ue src
    if ue then event s (s.fld HBM_SCRUB_CTL.EVQ 0) 0x3002 (0x3000 + k) det
    else bucketCE s HBM_ECC_BKT.LEVEL HBM_ECC_BKT.DEPTH HBM_ECC_BKT.OVF k (s.fld HBM_SCRUB_CTL.EVQ 0) 0x3001
      (0x3000 + k)
  | .basin e =>
    let s := s.satAdd (if ue then FE_ECC.UE else FE_ECC.CE) e 1
    let s := (s.setFld FE_ECC.OFFS e (a % 0x200000)).setBit FE_ECC.WASUE e ue
    if ue then event s (engineQ s e) 0x0012 e det else s
  | r =>
    let u := match r with
      | .lane l => l
      | .edge x => 64 + x
      | _ => 66
    let off := match r with
      | .lane _ => a % 0x80000
      | .edge _ => a % 0x200000
      | _ => a - drdBase
    let s := s.satAdd (if ue then CST_HECC.UE else CST_HECC.CE) u 1
    let s := (s.setFld CST_HECC.OFFS u off).setBit CST_HECC.WASUE u ue
    let own := match r with
      | .lane l => 0x5000 + l
      | .edge x => 0x1000 + x
      | _ => 0xA000
    if ue then event s (s.fld CST_SCRUB_CTL.EVQ 0) 0x2023 own (det % 2 ^ 48) else s

/-- Every mark of a code word is set (R438). -/
def markWord (s : State) (a n : Nat) : State :=
  forL (upFrom (a / 8) (n / 8)) (fun w s => s.upd (.mark w true)) s


/-- A read meets the code errors of the code words it touches: correctable ones are counted, uncorrectable
ones poison their code word and are reported once (R438, R440, R444). Bank counts reach BANKUE as class 9
detections (R443). -/
def touchRead (s : State) (src a n kind : Nat) : State :=
  if s.latent.isEmpty then s
  else forL (s.latent.filter fun l =>
      let sz := codeSize (s.region l.1)
      decide (l.1 < a + n) && decide (a < l.1 + sz)) (fun l s =>
    let s := foundError s l.1 l.2 kind src
    if l.2 then
      let s := markWord { s with latent := s.latent.filter fun x => decide (x ≠ l) } l.1
        (codeSize (s.region l.1))
      if s.region l.1 = .cistern then
        let b := bankOf l.1
        let k := tget (fun _ => 0) s.bankUE b + 1
        let s := { s with bankUE := tput (fun _ => 0) s.bankUE b k }
        let lim := s.fld CST_ECC_BKT.BANKUE (b / 32)
        if lim ≠ 0 ∧ k = lim then detect s 9 (0x2200 + b) else s
      else s
    else s) s

/-- The read half of a partial write: an uncorrectable code word is reported with kind 2 and its words are
poisoned before the write (R439, R444). A code word written whole loses its error. -/
def touchWrite (s : State) (src : Nat) (bs : List (Nat × Byte)) : State :=
  if s.latent.isEmpty then s
  else forL s.latent (fun l s =>
    let sz := codeSize (s.region l.1)
    let n := (bs.filter fun b => decide (l.1 ≤ s.home b.1) && decide (s.home b.1 < l.1 + sz)).length
    if n = 0 then s
    else if n = sz then { s with latent := s.latent.filter fun x => decide (x ≠ l) }
    else if l.2 then touchRead s src l.1 1 2
    else { s with latent := s.latent.filter fun x => decide (x ≠ l) }) s

/-- Performs a write at the storage, code errors included (R158, R439). -/
def perform (s : State) (src : Nat) (bs : List (Nat × Byte)) (pois : Nat → Bool) : State :=
  (touchWrite s src bs).write bs pois

/-! ## The change log (R473-R475) -/

/-- The chain head's 32 bytes. -/
def chainHead (s : State) : List Byte := (upFrom 0 4).flatMap fun i => leBytes 8 (s.reg .CLG_HEAD i).toNat

/-- Stages an entry; in LOSE mode a full staging discards its oldest entry, counts it in LOST and reports
the first loss (R475). -/
def stageEntry (s : State) (e : ClogEntry) : State :=
  if s.clog.staged.length < 512 ∨ s.bit CLG_CTL.MODE 0 then
    { s with clog := { s.clog with staged := s.clog.staged ++ [e] } }
  else
    let first := (s.clog.staged.head?.map ClogEntry.n).getD 0
    let told := s.clog.lossTold
    let s := { s with clog := { s.clog with staged := s.clog.staged.tail ++ [e], lossTold := true } }
    let s := s.satAdd CLG_STAT.LOST 0 1
    if told then s else event s (s.fld CLG_CTL.EVQ 0) 0xE020 0xE003 first

/-- Appends a change-log entry and extends the chain (R473, R474). -/
def logEntry (s : State) (src : Nat) (r : RegName) (i : Nat) (ign : Bool) (old new : Word) : State :=
  let h := chainHead s
  let link := leNat (h.take 2)
  let w0 := (r.addr i - 0x6000000000) + src * 2 ^ 28 + (if ign then 2 ^ 46 else 0) + link * 2 ^ 48
  let ws := [w64 w0, w64 s.totalNs, old, new]
  let h' := sha256 (h ++ ws.flatMap fun w => leBytes 8 w.toNat)
  let n := s.fld CLG_SEQ.N 0 + 1
  let s := s.setReg .CLG_SEQ 0 (w64 n)
  let s := forL (upFrom 0 4) (fun k s => s.setReg .CLG_HEAD k (w64 (leNat ((h'.drop (8 * k)).take 8)))) s
  stageEntry s ⟨n, ws⟩

/-- A register write that a rule calls ignored and logged (R473). -/
def logIgnored (s : State) (src : Nat) (r : RegName) (i : Nat) (v : Word) : State :=
  logEntry s src r i true (s.reg r i) v

/-! ## The end of a command -/

/-- Ends a command: its memory updates are applied to the stored memory, and the queue of waiting
commands is as it was. -/
def commit (s₀ s : State) : State :=
  { s with
    mem := s.wlog.foldr (fun u m => memApply m u) s₀.mem
    marks := s.wlog.foldr (fun u m => marksApply m u) s₀.marks
    wlog := []
    pending := s₀.pending }

/-- Starts a command: nothing is on the wires. -/
def State.begin (s : State) : State := { s with out := [], wlog := [], turn := s.turn + 1 }

end Sys2Proof.Machine
end

