-- ==== Sys2Proof/Machine/Operands.lean ====
section
/-! DEFINITION. Operands of instructions and verbs: the cores and their registers, memory as a core sees
it, allotment checks, nouns and their elements, gate handles (R22, R34-R50, R100, R140-R142, R177-R181). -/

namespace Sys2Proof.Machine

/-! ## Cores and registers -/

/-- Key of a core in the state's table. -/
def coreKey : Core → Nat
  | .eng e => e.val
  | .lane l => 256 + l.val
  | .drd => 320

/-- Source id of a core (R9, R515). -/
def coreSrc : Core → Nat
  | .eng e => e.val
  | .lane l => 0x5000 + l.val
  | .drd => 0xA000

/-- The core of a source id, if it has one. -/
def coreOfSrc (src : Nat) : Option Core :=
  if h : src < 256 then some (.eng ⟨src, h⟩)
  else if h : 0x5000 ≤ src ∧ src < 0x5040 then some (.lane ⟨src - 0x5000, by omega⟩)
  else if src = 0xA000 then some .drd
  else none

/-- Special registers of an engine after reset: TRAPVEC is the Cistern's first byte, allotment 0 covers every
address with every right so that runtime code can run (R46), the others grant none; LIMIT's low bits read as
ones (R179; assumption log 4). -/
def resetSpecials : Tab Word :=
  [(0x023, w64 cisternBase), (0x030, maskBits 42 40), (0x038, maskBits 39 0), (0x039, 0x3F), (0x03A, 0x3F),
   (0x03B, 0x3F), (0x03C, 0x3F), (0x03D, 0x3F), (0x03E, 0x3F), (0x03F, 0x3F)]

/-- What an unlisted core is: a core after reset. An engine starts in runtime mode at the Cistern's first
byte (assumption log 4). -/
def coreDefault (k : Nat) : CoreSt :=
  if k < 256 then { sp := resetSpecials, pc := cisternBase } else {}

def State.core (s : State) (c : Core) : CoreSt := tget coreDefault s.cores (coreKey c)

def State.setCore (s : State) (c : Core) (k : CoreSt) : State :=
  { s with cores := tput coreDefault s.cores (coreKey c) k }

def State.modCore (s : State) (c : Core) (f : CoreSt → CoreSt) : State := s.setCore c (f (s.core c))

/-- An engine by number. -/
def engine (e : Nat) : Core := .eng (Fin.ofNat 256 e)

/-- A scalar register; g0 reads as zero (R34). -/
def CoreSt.readG (k : CoreSt) (x : BitVec 5) : PWord :=
  if x = 0 then {} else tget (fun _ => {}) k.g x.toNat

/-- Writes a scalar register; a write to g0 is discarded (R34). -/
def CoreSt.writeG (k : CoreSt) (x : BitVec 5) (w : PWord) : CoreSt :=
  if x = 0 then k else { k with g := tput (fun _ => {}) k.g x.toNat w }

def CoreSt.readV (k : CoreSt) (x : BitVec 5) : VReg := tget (fun _ => {}) k.v x.toNat

def CoreSt.writeV (k : CoreSt) (x : BitVec 5) (w : VReg) : CoreSt :=
  { k with v := tput (fun _ => {}) k.v x.toNat w }

/-- A predicate; p0 reads as all ones (R34). -/
def CoreSt.readP (k : CoreSt) (x : BitVec 3) : Word :=
  if x = 0 then BitVec.allOnes 64 else tget (fun _ => 0) k.p x.toNat

/-- Writes a predicate; a write to p0 is discarded (R34). -/
def CoreSt.writeP (k : CoreSt) (x : BitVec 3) (w : Word) : CoreSt :=
  if x = 0 then k else { k with p := tput (fun _ => 0) k.p x.toNat w }

def CoreSt.special (k : CoreSt) (n : Nat) : Word := tget (fun _ => 0) k.sp n

def CoreSt.setSpecial (k : CoreSt) (n : Nat) (w : Word) : CoreSt :=
  { k with sp := tput (fun _ => 0) k.sp n w }

/-- The eight words of a noun-table entry (R41). -/
def CoreSt.noun (k : CoreSt) (n : Nat) : List Word := (upFrom (8 * n) 8).map (tget (fun _ => 0) k.n)

def CoreSt.setNounWord (k : CoreSt) (n w : Nat) (v : Word) : CoreSt :=
  { k with n := tput (fun _ => 0) k.n (8 * n + w) v }

def CoreSt.setNoun (k : CoreSt) (n : Nat) (ws : List Word) : CoreSt :=
  forL ((upFrom 0 8).zip ws) (fun p k => k.setNounWord n p.1 p.2) k

/-- An accumulator element (R34). -/
def CoreSt.acc (k : CoreSt) (a i j : Nat) : AElem := tget (fun _ => {}) k.a (1024 * a + 32 * i + j)

def CoreSt.setAcc (k : CoreSt) (a i j : Nat) (x : AElem) : CoreSt :=
  { k with a := tput (fun _ => {}) k.a (1024 * a + 32 * i + j) x }

def CoreSt.slot (k : CoreSt) (i : Nat) : Option Verb := tget (fun _ => none) k.slots i

def CoreSt.setSlot (k : CoreSt) (i : Nat) (v : Option Verb) : CoreSt :=
  { k with slots := tput (fun _ => none) k.slots i v }

/-- The verbs in token slots, with their slot numbers. -/
def CoreSt.verbs (k : CoreSt) : List (Nat × Verb) :=
  (upFrom 0 8).filterMap fun i => (k.slot i).map fun v => (i, v)

/-- The verbs in flight: issued and not complete (R58). -/
def CoreSt.inFlight (k : CoreSt) : List Verb := (k.verbs.map Prod.snd).filter fun v => ! v.done

/-- TOKENS: verbs in flight in [7:0], completed verbs with unconsumed tokens in [15:8] (R38). -/
def CoreSt.tokens (k : CoreSt) : Word :=
  w64 (k.verbs.foldl (fun n p => n + 2 ^ (if p.2.done then 8 + p.1 else p.1)) 0)

/-- FMODE of a core (R38). -/
def CoreSt.mode (k : CoreSt) : RMode := RMode.ofWord (k.special 0x008)

/-! ## Traps -/

/-- A fault about to be taken: class, reason, detail, and the poison it consumes as kind and address
(R63, R447). -/
structure Trap where
  cls    : Nat
  reason : Nat := 0
  detail : Word := 0
  psn    : Option (Nat × Nat) := none
deriving DecidableEq, Repr

/-- Why an instruction does not take effect now: it faults, its clause waits, or its clause has issued and it waits
for a verb or store of that clause (R50, R56, R63, R73). -/
inductive Hold where
  | trap (t : Trap)
  | wait
  | late
deriving DecidableEq, Repr

/-- The outcome of one instruction of a clause. -/
abbrev Res := Except Hold State

/-- Raises a fault. -/
def raise (t : Trap) : Res := .error (.trap t)

/-- ILLEGAL; the instruction word and position are filled in when the fault is taken (R63). -/
def trIllegal : Trap := { cls := 1 }

def trFetch (a : Nat) : Trap := { cls := 2, detail := w64 a }
def trAccess (a : Nat) : Trap := { cls := 3, detail := w64 a }
def trAlign (a : Nat) : Trap := { cls := 4, detail := w64 a }

/-- NOUN: ECAUSE[15:8] holds the reason code; EDETAIL holds the noun index, the control-word bit and the reason
code (R63; assumption log 13). -/
def trNoun (n : Nat) (ctlw : Bool) (reason : Nat) : Trap :=
  { cls := 5, reason := reason, detail := w64 (n + (if ctlw then 2 ^ 7 else 0) + reason * 2 ^ 8) }

/-- NOUN-ACCESS: noun, scale-array and record bits, address (R63). -/
def trNounAccess (n : Nat) (scale rec : Bool) (a : Nat) : Trap :=
  { cls := 6, detail := w64 (n + (if scale then 2 ^ 8 else 0) + (if rec then 2 ^ 9 else 0) + a * 2 ^ 24) }

def trToken (reason : Nat) (tok : Word) : Trap := { cls := 7, reason := reason, detail := tok }

/-- POISON of a register, scalar or vector (R63, R447). -/
def trPoisonReg (r : Nat) (vec : Bool) (kind : Nat) : Trap :=
  { cls := 8, detail := w64 (r + if vec then 2 ^ 10 else 0), psn := some (kind, 0) }

/-- POISON of a memory word (R63). -/
def trPoisonWord (a kind : Nat) : Trap :=
  { cls := 8, detail := w64 (2 ^ 9 + a * 2 ^ 24), psn := some (kind, a) }

/-- POISON of an element read through a noun with PSN 1 (R87). -/
def trPoisonNoun (n : Nat) : Trap := { cls := 8, detail := w64 (n + 2 ^ 8), psn := some (3, 0) }

/-- STRICT; the instruction word is filled in when the fault is taken (R63). -/
def trStrict : Trap := { cls := 9 }

/-- Fails with a trap when the condition holds. -/
def trapIf (c : Bool) (t : Trap) : Except Hold Unit := if c then .error (.trap t) else .ok ()

/-- Waits when the condition holds. -/
def waitIf (c : Bool) : Except Hold Unit := if c then .error .wait else .ok ()

/-- Where an instruction of a clause executes: its core, its position in the clause, and the core as it was
at clause start, from which every register operand is read (R53), whether every store of earlier clauses has been
accepted (R101), and whether the clause is only searched for faults. -/
structure Ctx where
  c    : Core
  pos  : Nat
  b    : CoreSt
  calm : Bool
  dry  : Bool

/-- The instruction waits for what its own clause has started; a search for faults passes it. -/
def Ctx.lateIf (x : Ctx) (c : Bool) : Except Hold Unit := if c && ! x.dry then .error .late else .ok ()

/-- The engine number of a context. -/
def Ctx.e (x : Ctx) : Nat := coreKey x.c

/-- Address of the instruction. -/
def Ctx.addr (x : Ctx) : Nat := x.b.pc + 4 * x.pos

/-- A sign-extended field. -/
def sext (w : BitVec n) : Int := w.toInt

/-- An effective address, modulo 2^64. -/
def effAddr (g : Word) (off : Int) : Nat := (g + BitVec.ofInt 64 off).toNat

/-! ## Memory as an ordering point sees it (R177) -/

/-- The state with the writes accepted through an ordering point performed: what a read accepted through
that point observes (R177). -/
def State.view (s : State) (pt : Nat) : State :=
  forL (s.pend.filter fun w => w.pt == pt) (fun w s => s.write w.bytes fun a => w.pois.contains a) s

/-- The ordering point of an engine: its die (R177). -/
def dieOf (e : Nat) : Nat := e / 128

/-- The ordering point of a core: the die of an engine, the hub side otherwise. -/
def corePt : Core → Nat
  | .eng e => dieOf e.val
  | _ => 2

/-- Address of a core's access in the model's address space: the Ditch Rider's private memory lies above
the physical map (R409). -/
def coreAddr (c : Core) (a : Nat) : Nat :=
  match c with
  | .drd => if a < 0x40000 then drdBase + a else a
  | _ => a

/-! ## Reach and allotments (R22, R46, R180, R309, R409) -/

/-- The rights of an allotment record (R179). -/
inductive Right where
  | rd | wr | ex
deriving DecidableEq, Repr

def Right.bit : Right → Nat
  | .rd => 40
  | .wr => 41
  | .ex => 42

/-- Allotment k grants the right over bytes a to a + n - 1 (R46, R180). -/
def allotGrants (k : CoreSt) (i : Nat) (r : Right) (a n : Nat) : Bool :=
  let b := k.special (0x030 + i)
  let l := k.special (0x038 + i)
  b.getLsbD r.bit && decide (bitsOf b 39 0 ≤ a) && decide (a + n ≤ bitsOf l 39 0 + 1)

/-- Some allotment grants the right over the whole access (R46). -/
def someAllot (k : CoreSt) (r : Right) (a n : Nat) : Bool :=
  (upFrom 0 8).any fun i => allotGrants k i r a n

/-- The region lies within an engine's reach; the control space only for scalar accesses (R22, R511). -/
def engineReaches (e : Nat) (scalar : Bool) : Region → Bool
  | .basin x => x / 16 == e / 16
  | .cistern => true
  | .control => scalar
  | _ => false

/-- Lanes of a gang led by lane l: the gang size of SLV_LANE_CTL, ignored unless l is a multiple of it
(R308). -/
def gangSize (s : State) (l : Nat) : Nat :=
  let k := 2 ^ s.fld SLV_LANE_CTL.GSZ l
  if l % k = 0 then k else 1

/-- The access lies wholly within the reach of the core (R22, R309, R409). -/
def coreReaches (s : State) (c : Core) (r : Right) (a n : Nat) : Bool :=
  match c with
  | .eng e =>
    engineReaches e.val true (s.region a) && decide (s.region (a + n - 1) = s.region a) &&
      decide (a + n ≤ 2 ^ 40)
  | .lane l =>
    let lo := 0x5200000000 + l.val * 0x80000
    decide (lo ≤ a) && decide (a + n ≤ lo + gangSize s l.val * 0x80000)
  | .drd =>
    (decide (a + n ≤ 0x40000)) ||
    (decide (cisternBase ≤ a) && decide (a + n ≤ 0x4040000000) && decide (r = .rd)) ||
    (decide (0x6000000000 ≤ a) && decide (a + n ≤ 0x6010000000) && decide (r ≠ .ex))

/-- A scalar access passes reach and, on an engine, in either mode, an allotment (R22, R46, R513; assumption
log 9). -/
def accessOk (s : State) (c : Core) (r : Right) (a n : Nat) : Bool :=
  coreReaches s c r a n &&
    match c with
    | .eng _ => someAllot (s.core c) r a n
    | _ => true

/-- A vector, `nld` or `nst` access of an engine: as a scalar one, without the control space (R511). -/
def accessOkV (s : State) (e : Fin 256) (r : Right) (a n : Nat) : Bool :=
  accessOk s (.eng e) r a n && decide (s.region a ≠ .control)

/-- DET_CTL.STRICT as a core sees it: set globally or by the task's own flag (R40, R183). -/
def strictFor (s : State) (c : Core) : Bool :=
  s.bit DET_STAT.STRICTNOW 0 ||
    match c with
    | .eng _ => ! (s.core c).runtime && ((s.core c).special 0x004).getLsbD 6
    | _ => false

/-! ## Nouns (R41-R44, R140-R142) -/

/-- A noun's fields, decoded. -/
structure Noun where
  base   : Nat
  fmt    : Nat
  rank   : Nat
  allot  : Nat
  psn    : Nat
  satm   : Bool
  grid   : Nat
  ext    : List Nat
  stride : List Int
  sbase  : Nat
  sfmt   : Nat
  sdim   : Nat
  tscale : Nat
  tsen   : Bool
deriving DecidableEq, Repr

/-- Decodes the eight words of a noun (R41). -/
def nounOf (ws : List Word) : Noun :=
  let w := fun i => ws.getD i 0
  let rank := bitsOf (w 0) 46 44
  let dims := (upFrom 1 (min rank 5)).map w
  { base := bitsOf (w 0) 39 0
    fmt := bitsOf (w 0) 43 40
    rank := rank
    allot := bitsOf (w 0) 50 48
    psn := bitsOf (w 0) 52 51
    satm := (w 0).getLsbD 53
    grid := bitsOf (w 0) 56 54
    ext := dims.map fun d => bitsOf d 23 0
    stride := dims.map fun d => (d.extractLsb' 24 40).toInt
    sbase := bitsOf (w 6) 39 0
    sfmt := bitsOf (w 6) 41 40
    sdim := bitsOf (w 6) 44 42
    tscale := bitsOf (w 7) 31 0
    tsen := (w 7).getLsbD 32 }

/-- Bits of an element (R42). -/
def fmtBits (f : Nat) : Nat :=
  match f with
  | 0 => 64 | 1 => 32 | 2 => 16 | 3 => 16 | 4 => 8 | 5 => 8 | 6 => 8 | 7 => 4 | 8 => 4 | 9 => 32
  | _ => 8

/-- Bytes of an element, 1 for 4-bit formats (R43). -/
def fmtBytes (f : Nat) : Nat := max 1 (fmtBits f / 8)

/-- The reason code of the first condition that makes a noun not well formed (R43, then R142). -/
def nounBad (ws : List Word) : Option Nat :=
  let w := fun i => ws.getD i 0
  let n := nounOf ws
  let off := fun i => decide (n.stride.getD i 0 % (fmtBytes n.fmt : Int) ≠ 0)
  if ! (w 0).getLsbD 57 || decide (n.rank = 0) || decide (5 < n.rank) then some 0x18
  else if (w 0).getLsbD 47 || decide (bitsOf (w 0) 63 58 ≠ 0) || decide (bitsOf (w 6) 63 45 ≠ 0) ||
      decide (bitsOf (w 7) 63 33 ≠ 0) || decide (9 < n.fmt) || decide (1 < n.psn) || decide (1 < n.sfmt) ||
      ((upFrom (n.rank + 1) (5 - n.rank)).any fun i => decide (w i ≠ 0)) ||
      decide (n.stride.getD 0 0 ≠ 0) then some 0x19
  else if n.ext.any (· == 0) then some 0x1A
  else if decide (n.base % fmtBytes n.fmt ≠ 0) || (upFrom 1 (n.rank - 1)).any off then some 0x1B
  else if (n.fmt == 7 || n.fmt == 8) && decide (n.ext.getD 0 0 % 2 = 1) then some 0x1C
  else if n.sfmt == 1 && (decide (n.rank ≤ n.sdim) || decide (n.ext.getD n.sdim 0 % 32 ≠ 0)) then some 0x1D
  else if ((n.sfmt == 1 || n.tsen) && (n.fmt == 0 || n.fmt == 9)) || (n.sfmt == 1 && n.sbase % 2 == 1) then
    some 0x0D
  else none

/-- Number of elements. -/
def Noun.count (n : Noun) : Nat := n.ext.foldl (· * ·) 1

/-- The extent of a dimension. -/
def Noun.e (n : Noun) (d : Nat) : Nat := n.ext.getD d 1

/-- The footprint of a noun, lowest and highest byte address (R44). -/
def Noun.foot (n : Noun) : Int × Int :=
  let b0 := (n.e 0 * fmtBits n.fmt + 7) / 8
  (upFrom 1 (n.rank - 1)).foldl (fun p d =>
    let span := ((n.e d : Int) - 1) * n.stride.getD d 0
    if span < 0 then (p.1 + span, p.2) else (p.1, p.2 + span)) ((n.base : Int), (n.base : Int) + b0 - 1)

/-- The footprint of the scale array (R140). -/
def Noun.sfoot (n : Noun) : Int × Int := ((n.sbase : Int), (n.sbase : Int) + 2 * n.count / 32 - 1)

/-- Two byte ranges overlap. -/
def overlaps (p q : Int × Int) : Bool := decide (p.1 ≤ q.2) && decide (q.1 ≤ p.2)

/-- Byte address of the element with the given indices (R43). -/
def Noun.addrOf (n : Noun) (ix : List Nat) : Nat :=
  let outer := (upFrom 1 (n.rank - 1)).foldl (fun a d => a + (ix.getD d 0 : Int) * n.stride.getD d 0) (n.base : Int)
  (outer + (ix.getD 0 0 * fmtBits n.fmt / 8 : Nat)).toNat

/-- All indices of a shape, dimension 0 fastest (R98). -/
def indices : List Nat → List (List Nat)
  | [] => [[]]
  | e :: r => (indices r).flatMap fun t => (upFrom 0 e).map fun i => i :: t

/-- The raw bits of an element (R43). -/
def elemRaw (s : State) (n : Noun) (ix : List Nat) : Nat :=
  let a := n.addrOf ix
  if fmtBits n.fmt = 4 then
    let b := (s.byte a).toNat
    if ix.getD 0 0 % 2 = 0 then b % 16 else b / 16
  else s.load a (fmtBytes n.fmt)

/-- The element's poison mark. -/
def elemPsn (s : State) (n : Noun) (ix : List Nat) : Bool := s.mark (n.addrOf ix)

/-- Address of the block scale of an element (R140). -/
def Noun.scaleAddr (n : Noun) (ix : List Nat) : Nat :=
  let step := fun (p : Nat × Nat) d =>
    let j := if d = n.sdim then ix.getD d 0 / 32 else ix.getD d 0
    let x := if d = n.sdim then n.e d / 32 else n.e d
    (p.1 + j * p.2, p.2 * x)
  n.sbase + 2 * ((upFrom 0 n.rank).foldl step (0, 1)).1

/-- The number one. -/
def fOne : FVal := .fin false 1 0

/-- round32 of a block scale and TSCALE, with the flags of that product (R141). -/
def roundScale (b t : FVal) : FVal × Flags :=
  let r := mRound (exProd b t)
  (r.1, r.2 ||| flagIf (! b.isNaN && ! t.isNaN && r.1.isNaN) flNV)

/-- The effective scale of an element with the flags of its forming (R141). -/
def effScaleFl (s : State) (n : Noun) (ix : List Nat) : FVal × Flags :=
  let t := fDecode .f32 n.tscale
  if n.sfmt = 1 then
    let b := fDecode .f16 (s.load (n.scaleAddr ix) 2)
    if n.tsen then roundScale b t else (b, 0)
  else (if n.tsen then t else fOne, 0)

/-- The effective scale of an element (R141). -/
def effScale (s : State) (n : Noun) (ix : List Nat) : FVal := (effScaleFl s n ix).1

/-- The effective scale as the matrix unit takes it (R131). -/
def matScale (s : State) (n : Noun) (ix : List Nat) : FVal × Flags :=
  let r := effScaleFl s n ix
  (mScale r.1, r.2)

/-- The scale word of an element is poisoned. -/
def scalePsn (s : State) (n : Noun) (ix : List Nat) : Bool := n.sfmt = 1 && s.mark (n.scaleAddr ix)

/-- The floating-point format of a tag, if it is one (R42). -/
def fmtFloat (f : Nat) : Option FFmt :=
  match f with
  | 0 => some .f64 | 1 => some .f32 | 2 => some .f16 | 3 => some .bf16 | 4 => some .e4m3 | 5 => some .e5m2
  | _ => none

/-- The value of an integer number. -/
def fInt (i : Int) : FVal := .fin (decide (i < 0)) i.natAbs 0

/-- The decoded value of raw bits, before scaling: float, integer or grid level (R109, R141). -/
def decRaw (grid : Tab Nat) (fmt g raw : Nat) : FVal :=
  match fmtFloat fmt with
  | some f => fDecode f raw
  | none =>
    if fmt = 8 then fDecode .f16 (tget (fun k => gridLevels.getD (k % 16) 0) grid (16 * g + raw))
    else fInt (bitsInt (fmtBits fmt) true raw)

/-- The decoded value of an element, before scaling. -/
def decElem (s : State) (grid : Tab Nat) (n : Noun) (ix : List Nat) : FVal :=
  decRaw grid n.fmt n.grid (elemRaw s n ix)

/-- A NaN grid level follows R131 outside the matrix unit too: the canonical NaN, signalling where the level
is (R137). -/
def gridNaN (n : Noun) (v : FVal) : FVal := if n.fmt = 8 && v.isNaN then .nan false v.isSig (2 ^ 51) else v

/-- The value of an element under FMODE: the decoded value, a subnormal of a flushed format read as zero, times the
effective scale, exact (R119, R141). -/
def elemValMd (s : State) (grid : Tab Nat) (md : RMode) (n : Noun) (ix : List Nat) : FVal :=
  let d := decElem s grid n ix
  let d := match fmtFloat n.fmt with
    | some f => ftzOperand f md d
    | none => gridNaN n d
  if n.sfmt = 0 ∧ ¬ n.tsen then d else exProd d (effScale s n ix)

/-- The value of an element: decoded value times effective scale, exact (R141). -/
def elemVal (s : State) (grid : Tab Nat) (n : Noun) (ix : List Nat) : FVal := elemValMd s grid rne n ix

/-- Bytes and mark of an element write: its raw bits at its address, read-modify-write of a nibble. -/
def putElem (s : State) (n : Noun) (ix : List Nat) (raw : Nat) (p : Bool) : State :=
  let a := n.addrOf ix
  if fmtBits n.fmt = 4 then
    let b := (s.byte a).toNat
    let b' := if ix.getD 0 0 % 2 = 0 then b / 16 * 16 + raw % 16 else b % 16 + raw % 16 * 16
    s.write [(a, BitVec.ofNat 8 b')] fun _ => p
  else s.write (atAddr a (leBytes (fmtBytes n.fmt) raw)) fun _ => p

/-! ## Gate handles (R100) -/

/-- A handle that a unit other than an engine holds is valid: none of R100's conditions makes it invalid, and it names
an object of this module of the right kind. MOD means nothing without REMOTE, nor DIE at level 2. -/
def handleOkUnit (h : Word) (chk : Bool) : Bool :=
  let idx := bitsOf h 9 0
  let lvl := bitsOf h 11 10
  let cl := bitsOf h 15 12
  let die := bitsOf h 16 16
  decide (bitsOf h 63 21 = 0) && decide (lvl ≠ 3) && (h.getLsbD 20 == chk) && ! h.getLsbD 19 &&
  (if lvl = 0 then decide (idx < if chk then 64 else 256) && decide (die = cl / 8)
   else if lvl = 1 then decide (idx < 1024) && decide (cl = 0)
   else decide (idx < if chk then 256 else 512) && decide (cl = 0))

/-- A handle that an engine uses in `gsig`, `gwait`, `chka` or `move`: CL, DIE, MOD and REMOTE are 0. -/
def handleOkEngine (h : Word) (chk : Bool) : Bool :=
  let idx := bitsOf h 9 0
  let lvl := bitsOf h 11 10
  decide (bitsOf h 63 21 = 0) && decide (bitsOf h 19 12 = 0) && decide (lvl ≠ 3) && (h.getLsbD 20 == chk) &&
  (if lvl = 0 then decide (idx < if chk then 64 else 256)
   else if lvl = 1 then decide (idx < 1024)
   else decide (idx < if chk then 256 else 512))

/-- The handle as a unit would write it, for an engine's own cluster and die (R100). -/
def handleOfEngine (e : Nat) (h : Word) : Word :=
  let lvl := bitsOf h 11 10
  if lvl = 0 then h ||| w64 (e / 16 * 2 ^ 12 + e / 128 * 2 ^ 16)
  else if lvl = 1 then h ||| w64 (e / 128 * 2 ^ 16)
  else h

/-- Key of the gate or check that a unit's handle names: cluster objects below 0x10000, then die, then
module objects. -/
def handleKey (h : Word) : Nat :=
  let idx := bitsOf h 9 0
  match bitsOf h 11 10 with
  | 0 => bitsOf h 15 12 * 256 + idx
  | 1 => 0x10000 + bitsOf h 16 16 * 1024 + idx
  | _ => 0x20000 + idx

/-- The handle of a gate or check by its key. -/
def keyHandle (chk : Bool) (k : Nat) : Nat :=
  (if k < 0x10000 then k % 256 + k / 256 * 2 ^ 12 + k / 2048 * 2 ^ 16
   else if k < 0x20000 then (k - 0x10000) % 1024 + 2 ^ 10 + (k - 0x10000) / 1024 * 2 ^ 16
   else k - 0x20000 + 2 ^ 11) + (if chk then 2 ^ 20 else 0)

/-- Key of a gate operand. -/
def gateKey : GateId → Nat
  | .cluster c i => c.val * 256 + i.val
  | .die d i => 0x10000 + d.val * 1024 + i.val
  | .module i => 0x20000 + i.val

/-- Key of a check operand. -/
def checkKey : CheckId → Nat
  | .cluster c k => c.val * 256 + k.val
  | .die d k => 0x10000 + d.val * 1024 + k.val
  | .module k => 0x20000 + k.val

end Sys2Proof.Machine
end

