-- ==== Sys2Proof/Machine/Gates.lean ====
section
/-! DEFINITION. Gates, checks and the sluice (R192-R204). -/

namespace Sys2Proof.Machine

/-! ## Gate words -/

/-- Address of a die gate word (R192). -/
def dieGateAddr (k : Nat) : Nat := 0x403F200000 + 0x2000 * ((k - 0x10000) / 1024) + 8 * ((k - 0x10000) % 1024)

/-- The word of a gate (R192). -/
def gateWord (s : State) (k : Nat) : Word :=
  if k < 0x10000 then s.reg .CST_CGATE k
  else if k < 0x20000 then s.word (dieGateAddr k)
  else s.reg .CST_MGATE (k - 0x20000)

def setGateWord (s : State) (k : Nat) (w : Word) : State :=
  if k < 0x10000 then s.setReg .CST_CGATE k w
  else if k < 0x20000 then s.store (dieGateAddr k) 8 w.toNat
  else s.setReg .CST_MGATE (k - 0x20000) w

/-- VALUE of a gate word, signed. -/
def gateValue (w : Word) : Int := (w.extractLsb' 0 32).toInt

/-- A gate word with another VALUE. -/
def withValue (w : Word) (v : Int) : Word := putBits w 31 0 (BitVec.ofInt 32 v).toNat

def State.waiters (s : State) (k : Nat) : List Waiter := tget (fun _ => []) s.gateW k

def State.setWaiters (s : State) (k : Nat) (l : List Waiter) : State :=
  { s with gateW := tput (fun _ => []) s.gateW k l }

/-- A waiter or arrival is let go: a core's waiting clause may issue, another unit's wait ends. -/
def letGo (s : State) (who : Nat) : State :=
  match coreOfSrc who with
  | some c => s.modCore c fun k => if k.arrived then { k with granted := true } else k
  | none => { s with served := s.served ++ [who] }

/-- Serves waiters in order while the oldest asks no more than the value: the value left, the waiters
left, and the waiters served (R193). -/
def serveList : Int → List Waiter → Int × List Waiter × List Nat
  | v, [] => (v, [], [])
  | v, w :: r =>
    if (w.amt : Int) ≤ v then
      let t := serveList (v - w.amt) r
      (t.1, t.2.1, w.who :: t.2.2)
    else (v, w :: r, [])

/-- The gate serves its waiters and rewrites WAITERS (R193, R194). -/
def serveGate (s : State) (k : Nat) : State :=
  let w := gateWord s k
  let t := serveList (gateValue w) (s.waiters k)
  let s := (s.setWaiters k t.2.1)
  let s := setGateWord s k (putBits (withValue w t.1) 40 32 (min 256 t.2.1.length))
  forL t.2.2 (fun who s => letGo s who) s

/-- A signal of a signed amount: VALUE saturates with OVF and an event, LASTSRC and the debug record are
set, and waiters are served (R193, R204). `h` is the signaller's handle, `pc` its clause or 0. -/
def signalGate (s : State) (k src h pc : Nat) (amt : BitVec 32) : State :=
  let w := gateWord s k
  let v := gateValue w + amt.toInt
  let lo : Int := -(2 ^ 31)
  let hi : Int := 2 ^ 31 - 1
  let sat := decide (v < lo) || decide (hi < v)
  let w := withValue w (max lo (min hi v))
  let w := if sat then w ||| maskBits 41 41 else w
  let s := setGateWord s k (putBits w 63 48 src)
  let s := { s with gateL := tput (fun _ => {}) s.gateL k ⟨pc, s.stamp, amt⟩ }
  let s := if sat then
      event s (if src < 256 then engineQ s src else 0) 0x2010 src (h % 2 ^ 21 + amt.toNat * 2 ^ 32)
    else s
  serveGate s k

/-- A cluster gate or check of an isolated cluster refuses operations (R432). -/
def keyIsolated (s : State) (k : Nat) : Bool := decide (k < 0x10000) && s.drd.iso.contains (0x100 + k / 256)

/-- The island of a gate's or check's cluster takes no entry now. -/
def keyStops (s : State) (k : Nat) : Bool := decide (k < 0x10000) && islandStops s (islandOf (k / 256))

/-- A signal of a unit reaches its gate; one of an isolated cluster refuses it. -/
def unitSignal (s : State) (src : Nat) (h : Word) (amt : BitVec 32) : State :=
  if keyIsolated s (handleKey h) then s else signalGate s (handleKey h) src h.toNat 0 amt

/-- A signal by a unit other than an engine, through a handle the unit holds (R100): it waits in the crossing of an
island that takes none (R17, R18). A handle that names no gate of this module signals nothing (assumption log 42). -/
def signalHandle (s : State) (src : Nat) (h : Word) (amt : BitVec 32) : State :=
  if ! handleOkUnit h false then s
  else if keyStops s (handleKey h) then holdEntry s src (.signal h amt) false
  else unitSignal s src h amt

/-- A write of a gate word: VALUE, flags and LASTSRC as written; then the waiters are served (R194). -/
def writeGate (s : State) (k : Nat) (v : Word) : State :=
  serveGate (setGateWord s k (v &&& ~~~(maskBits 47 43))) k

/-- A `gwait` or a unit's wait joins the waiters, and the gate serves (R102, R193). -/
def waitGate (s : State) (k who amt pc : Nat) : State :=
  serveGate (s.setWaiters k (s.waiters k ++ [⟨who, amt, pc⟩])) k

/-- A source leaves every gate's waiter record without taking; each such gate serves its waiters at its next clock
(R193, R203). -/
def leaveGates (s : State) (who : Nat) : State :=
  forL (s.gateW.map Prod.fst) (fun k s =>
    let l := s.waiters k
    let l' := l.filter fun w => w.who != who
    if l.length = l'.length then s else serveGate (s.setWaiters k l') k) s

/-- A write performed at the storage; gate words of the die gates that it touches serve their waiters
(R160, R194). -/
def performG (s : State) (src : Nat) (bs : List (Nat × Byte)) (pois : Nat → Bool) : State :=
  let s := perform s src bs pois
  let gs := ((bs.filter fun b => decide (0x403F200000 ≤ b.1) && decide (b.1 < 0x403F204000)).map
    fun b => 0x10000 + (b.1 - 0x403F200000) / 8).eraseDups
  forL gs (fun k s => serveGate s k) s

/-! ## Checks (R195-R197) -/

/-- Address of a die check record (R192). -/
def dieCheckAddr (k : Nat) : Nat :=
  0x403F204000 + 0x4000 * ((k - 0x10000) / 1024) + 16 * ((k - 0x10000) % 1024)

/-- Register instance of a cluster check. -/
def cchkIndex (k : Nat) : Nat := k / 256 * 64 + k % 256

/-- Words 0 and 1 of a check record. -/
def checkWord (s : State) (k w : Nat) : Word :=
  if k < 0x10000 then s.reg (if w = 0 then .CST_CCHK0 else .CST_CCHK1) (cchkIndex k)
  else if k < 0x20000 then s.word (dieCheckAddr k + 8 * w)
  else s.reg (if w = 0 then .CST_MCHK0 else .CST_MCHK1) (k - 0x20000)

def setCheckWord (s : State) (k w : Nat) (v : Word) : State :=
  if k < 0x10000 then s.setReg (if w = 0 then .CST_CCHK0 else .CST_CCHK1) (cchkIndex k) v
  else if k < 0x20000 then s.store (dieCheckAddr k + 8 * w) 8 v.toNat
  else s.setReg (if w = 0 then .CST_MCHK0 else .CST_MCHK1) (k - 0x20000) v

def State.chk (s : State) (k : Nat) : ChkSt := tget (fun _ => {}) s.checks k

def State.setChk (s : State) (k : Nat) (c : ChkSt) : State :=
  { s with checks := tput (fun _ => {}) s.checks k c }

/-- PART of a check. -/
def partOf (s : State) (k : Nat) : Nat := bitsOf (checkWord s k 0) 8 0

/-- Count of the even (false) or odd round in flight. -/
def chkCount (s : State) (k : Nat) (odd : Bool) : Nat :=
  if odd then bitsOf (checkWord s k 0) 40 32 else bitsOf (checkWord s k 0) 24 16

def setChkCount (s : State) (k : Nat) (odd : Bool) (n : Nat) : State :=
  setCheckWord s k 0 (if odd then putBits (checkWord s k 0) 40 32 n else putBits (checkWord s k 0) 24 16 n)

/-- Parity of the oldest round not fully departed. -/
def roundOdd (s : State) (k : Nat) : Bool := (checkWord s k 1).getLsbD 0

/-- Sets a field of word 1 of a check. -/
def setChk1 (s : State) (k hi lo n : Nat) : State := setCheckWord s k 1 (putBits (checkWord s k 1) hi lo n)

/-- HELD follows the list of held arrivals. -/
def syncHeld (s : State) (k : Nat) : State := setChk1 s k 49 42 (s.chk k).held.length

/-- Counts an arrival in the oldest round below PART, or holds it (R196). -/
def countArrival (s : State) (k who : Nat) (fresh : Bool) : State :=
  let c := s.chk k
  let g := roundOdd s k
  let add := fun (odd : Bool) =>
    let c' := if odd then { c with odd := c.odd ++ [who] } else { c with even := c.even ++ [who] }
    setChkCount (s.setChk k c') k odd (chkCount s k odd + 1)
  let hold := s.setChk k { c with held := c.held ++ [who] }
  if fresh ∧ ¬ c.held.isEmpty then hold
  else if chkCount s k g < partOf s k then add g
  else if chkCount s k (! g) < partOf s k then add (! g)
  else hold

/-- An arrival at a check whose PART is not 0 (R103, R196, R204). -/
def arriveCheck (s : State) (k who pc : Nat) : State :=
  let n := (s.chk k).held.length
  let s := countArrival s k who true
  let s := s.setChk k { s.chk k with pc := pc, stamp := s.stamp, src := who }
  if n < (s.chk k).held.length then
    setChk1 (syncHeld s k) k 63 50 (min 16383 (bitsOf (checkWord s k 1) 63 50 + 1))
  else s

/-- The oldest round is complete. -/
def roundComplete (s : State) (k : Nat) : Bool :=
  decide (partOf s k ≠ 0) && decide (chkCount s k (roundOdd s k) = partOf s k)

/-- Counts the held arrivals, in order, into the freed counter while it is below PART (R196). -/
def countHeld (s : State) (k : Nat) : State :=
  let l := (s.chk k).held
  let s := s.setChk k { s.chk k with held := [] }
  syncHeld (forL l (fun who s => countArrival s k who ! (s.chk k).held.isEmpty) s) k

/-- CHECK_DEPARTURE_RELEASE: in one gate clock a complete oldest round departs and releases its next
arrival; after its last one the round has fully departed and the held arrivals are counted (R196). Waiters beyond
written counts stay recorded (R197). -/
def departCheck (s : State) (k : Nat) : State :=
  if ! roundComplete s k then s
  else
    let odd := roundOdd s k
    let s := if (checkWord s k 1).getLsbD 32 then s
      else setChk1 (setChk1 s k 32 32 1) k 41 33 (partOf s k)
    let c := s.chk k
    let l := if odd then c.odd else c.even
    let s := s.setChk k (if odd then { c with odd := l.tail } else { c with even := l.tail })
    let s := match l.head? with
      | some who => letGo s who
      | none => s
    let left := bitsOf (checkWord s k 1) 41 33 - 1
    let s := setChk1 s k 41 33 left
    if left = 0 then
      let s := setChkCount s k odd 0
      let s := setChk1 (setChk1 s k 32 32 0) k 31 0 (bitsOf (checkWord s k 1) 31 0 + 1)
      countHeld s k
    else s

/-- A write of word w of a check (R197): its writable fields as written. A write clears EARLY's count to
the written value. -/
def writeCheck (s : State) (k w : Nat) (v : Word) : State :=
  if w = 0 then setCheckWord s k 0 (v &&& (maskBits 8 0 ||| maskBits 24 16 ||| maskBits 41 32))
  else
    let keep := maskBits 32 32 ||| maskBits 41 33 ||| maskBits 49 42
    setCheckWord s k 1 ((v &&& (maskBits 31 0 ||| maskBits 63 50)) ||| (checkWord s k 1 &&& keep))

/-- Source id that stands for an arrival whose engine has left: its release affects no engine (R203). -/
def nobody : Nat := 0xFFFF

/-- A source leaves the checks: its held arrival is removed, a counted one stays counted but its release
affects no engine (R203). -/
def leaveChecks (s : State) (who : Nat) : State :=
  forL (s.checks.map Prod.fst) (fun k s =>
    let c := s.chk k
    let sw := fun (l : List Nat) => l.map fun x => if x = who then nobody else x
    let s := s.setChk k { c with even := sw c.even, odd := sw c.odd, held := c.held.filter (· != who) }
    if c.held.contains who then syncHeld s k else s) s

/-! ## Posts and the sluice (R104, R198-R200) -/

/-- The carried count has been reached, modulo 2^24 (R199). -/
def countReached (have_ want : Nat) : Bool := decide ((have_ + 2 ^ 24 - want) % 2 ^ 24 < 2 ^ 23)

/-- Sets OCC from the list of held posts, and PEAK. -/
def syncSluice (s : State) : State :=
  let n := s.sluice.length
  let s := s.setFld CST_SLUICE.OCC 0 n
  s.setFld CST_SLUICE.PEAK 0 (max (s.fld CST_SLUICE.PEAK 0) n)

/-- A post enters the sluice (R199, R200). -/
def enterSluice (s : State) (p : Post) : State := syncSluice { s with sluice := s.sluice ++ [p] }

/-- The queue of an event about a post or a signal (R518). -/
def posterQ (s : State) (src : Nat) (local_ : Bool) : Nat := if local_ && decide (src < 256) then engineQ s src else 0

/-- A post that cannot be delivered is discarded with CST-POST-LOST (R200). -/
def lostPost (s : State) (src : Nat) (h : Word) (local_ : Bool) : State :=
  event s (posterQ s src local_) 0x2011 src (h.toNat % 2 ^ 21)

/-- Landed frames by receiving port, sending module and source, for posts from other modules (R213). -/
def landedKey (port smod src : Nat) : Nat := port * 2 ^ 20 + smod * 2 ^ 16 + src

/-- The writes a post waits for have been performed (R199). -/
def postReady (s : State) (p : Post) : Bool :=
  match p.remote with
  | none => ((upFrom 0 4).zip p.counts).all fun x =>
      countReached (tget (fun _ => 0) s.perf (65536 * x.1 + p.src)) x.2
  | some smod => (pieces 2 p.counts).all fun x =>
      countReached (tget (fun _ => 0) s.landed (landedKey (x.getD 0 0) smod p.src)) (x.getD 1 0)

/-- A post's handle in the module that signals it: REMOTE and MOD have brought the post here (R100, R200). -/
def Post.here (p : Post) : Word := putBits p.handle 19 17 0

/-- SLUICE_RELEASE: the i-th held post is released when its awaited writes are performed and no earlier
post of its source is held, unless the island of its gate takes no entry (R17, R485): it leaves the sluice and signals
its gate (R199, R200). A post from another module with an invalid handle, or to an isolated cluster's gate (R432), is
discarded. -/
def releasePost (s : State) (i : Nat) : State :=
  match s.sluice[i]? with
  | none => s
  | some p =>
    if ! postReady s p || keyStops s (handleKey p.here) || (s.sluice.take i).any fun q => q.src == p.src && q.remote == p.remote then s
    else
      let s := syncSluice { s with sluice := s.sluice.eraseIdx i }
      let s := s.setFld CST_SLUICE.LONGEST 0 (max (s.fld CST_SLUICE.LONGEST 0) (min CST_SLUICE.LONGEST.top (s.totalNs - p.ns)))
      if handleOkUnit p.here false && ! keyIsolated s (handleKey p.here) then
        signalGate s (handleKey p.here) p.src p.handle.toNat p.pc p.amt
      else lostPost s p.src p.handle p.remote.isNone

/-! ## The debug view (R204) -/

/-- Eight engine numbers of a word, 0xFF where there is none. -/
def idBytes (l : List Nat) : Word := w64 (leNat ((upFrom 0 8).map fun i => BitVec.ofNat 8 (l.getD i 0xFF)))

/-- The eight words of the selected object's view. -/
def debugView (s : State) (h : Word) : List Word :=
  let chk := h.getLsbD 20
  if ! handleOkUnit h chk then List.replicate 8 0
  else
    let k := handleKey h
    if chk then
      let c := s.chk k
      [checkWord s k 0, checkWord s k 1, idBytes c.held,
       w64 (c.even.length + c.odd.length + c.held.length), w64 c.pc, w64 (c.stamp + c.src * 2 ^ 32), 0, 0]
    else
      let ws := s.waiters k
      let l := tget (fun _ => ({} : GateLast)) s.gateL k
      let ids := ws.map Waiter.who
      [gateWord s k, idBytes ids, idBytes (ids.drop 8),
       w64 (ws.length + (ws.head?.map Waiter.amt).getD 0 * 2 ^ 32), w64 l.pc,
       w64 (l.stamp + l.amt.toNat * 2 ^ 32), 0, 0]

/-- Captures the view into CST_GDBG (R204). -/
def captureView (s : State) : State :=
  forL ((upFrom 0 8).zip (debugView s (s.reg .CST_GDBG_SEL 0))) (fun p s => s.setReg .CST_GDBG p.1 p.2) s

end Sys2Proof.Machine
end

