-- ==== Sys2Proof/Machine/Cistern.lean ====
section
/-! DEFINITION. The Cistern switch: acceptance of engine writes, presentation slots, age-based grants,
data-fence counts (R158, R174-R177, R198); the Basin and HBM arbiters (R161, R164). -/

namespace Sys2Proof.Machine

/-- The 24-bit data-fence counts (R198). -/
def fenceTop : Nat := 2 ^ 24

/-- Charges one write of an engine to a path: quadrants 0-3, Dvoril ports 4-5 (R198). -/
def charge (s : State) (src path : Nat) : State :=
  if src < 256 then
    s.modCore (engine src) fun k =>
      { k with fence := tput (fun _ => 0) k.fence path ((tget (fun _ => 0) k.fence path + 1) % fenceTop) }
  else s

/-- A quadrant has performed one charged write of an engine (R198). -/
def countPerformed (s : State) (src q : Nat) : State :=
  if src < 256 then
    let k := 65536 * q + src
    { s with perf := tput (fun _ => 0) s.perf k ((tget (fun _ => 0) s.perf k + 1) % fenceTop) }
  else s

def bankDefault (_ : Nat) : BankSt := {}

/-- The presentation slots of a source at a bank: 14 for a cluster port, 1 for a hub mover, 2 for a
quadrant mover (R174). -/
def slotsOf (src : Nat) : List Nat :=
  if src < 256 then upFrom (14 * (src / 16)) 14
  else if 0x2004 ≤ src ∧ src < 0x200C then [224 + (src - 0x2004)]
  else if 0x2000 ≤ src ∧ src < 0x2004 then upFrom (232 + 2 * (src - 0x2000)) 2
  else []

/-- Presents waiting requests of a bank in order of arrival while a slot of their source is free and, for
an engine, no other request of it is presented there (R174, R175). A slot granted since the
last age step is not used again before the next one. Presentation is acceptance. -/
def presentAll (b : Nat) (cool : List Nat) (done : List PWrite) (acc : Nat) :
    List PWrite → List PWrite × Nat
  | [] => (done, acc)
  | w :: r =>
    let here := done.filter fun x => x.bank == b && x.slot.isSome
    let later := r.filter fun x => x.bank == b && x.slot.isSome
    let used := (here ++ later).filterMap fun x => x.slot
    if w.bank = b ∧ w.slot = none then
      match (slotsOf w.src).find? fun k => ! used.contains k && ! cool.contains k with
      | some k =>
        if (here ++ later).any fun x => x.src == w.src then presentAll b cool (done ++ [w]) acc r
        else presentAll b cool (done ++ [{ w with slot := some k, seq := acc }]) (acc + 1) r
      | none => presentAll b cool (done ++ [w]) acc r
    else presentAll b cool (done ++ [w]) acc r

/-- Presents what a bank's free slots can take. -/
def present (s : State) (b : Nat) : State :=
  let r := presentAll b (tget bankDefault s.banks b).cool [] s.accSeq s.pend
  { s with pend := r.1, accSeq := r.2 }

/-- The bytes of a write grouped by 128-byte line, lines in order of first appearance. -/
def byLine (bs : List (Nat × Byte)) : List (List (Nat × Byte)) :=
  ((bs.map fun b => b.1 / 128).eraseDups).map fun l => bs.filter fun b => b.1 / 128 == l

/-- An engine's line write: performed at once in a Basin, sent to the Cistern switch otherwise (R158,
R177, R198). -/
def engineLine (s : State) (e : Nat) (bs : List (Nat × Byte)) (pois : Nat → Bool) : State :=
  let a := (bs.head?.map Prod.fst).getD 0
  match s.region a with
  | .cistern =>
    let b := bankOf a
    let ps := ((bs.map fun x => x.1 / 8).eraseDups).filter pois
    let w : PWrite := { bank := b, pt := dieOf e, src := e, seq := 0, bytes := bs, pois := ps }
    present (charge { s with pend := s.pend ++ [w] } e (b / 32)) b
  | _ => performG s e bs pois

/-- A store or verb output of an engine (R158, R198). -/
def engineWrite (s : State) (e : Nat) (bs : List (Nat × Byte)) (pois : Nat → Bool) : State :=
  forL (byLine bs) (fun l s => engineLine s e l pois) s

/-- A core's store: an engine's through the Cistern switch, a lane's or the Ditch Rider's into its own
memory. -/
def coreWrite (s : State) (c : Core) (bs : List (Nat × Byte)) (pois : Nat → Bool) : State :=
  match c with
  | .eng e => engineWrite s e.val bs pois
  | c => performG s (coreSrc c) bs pois

/-- Every store of the engine has been accepted by its ordering point (R101, R177). -/
def storesAccepted (s : State) (e : Nat) : Bool := ! s.pend.any fun w => w.src == e && w.slot.isNone

/-- Distance of a slot after the slot granted last (R175). -/
def slotDist (last k : Nat) : Nat := (k + 239 - last) % 240

/-- The presented requests of a bank that no write accepted earlier through the same ordering point precedes
(R177). -/
def firstAccepted (s : State) (b : Nat) : List PWrite :=
  let l := s.pend.filter fun w => w.bank == b && w.slot.isSome
  l.filter fun w => ! l.any fun x => x.pt == w.pt && decide (x.seq < w.seq)

/-- The request a bank grants: the oldest presented one; among equals the slot nearest after the last
granted (R175), writes of one ordering point in the order of their acceptance (R177). -/
def pickGrant (s : State) (b : Nat) : Option PWrite :=
  let last := (tget bankDefault s.banks b).last
  (firstAccepted s b).foldl (fun best w =>
    match best with
    | none => some w
    | some x =>
      if x.age < w.age ∨ (w.age = x.age ∧ slotDist last (w.slot.getD 0) < slotDist last (x.slot.getD 0))
      then some w else some x) none

/-- After a grant: the other presented requests of the bank have been passed once more, and at every
fourth grant their ages gain 1, saturating at 63 (R175). -/
def ageBank (b : Nat) (step : Bool) (l : List PWrite) : List PWrite :=
  l.map fun w =>
    if w.bank = b ∧ w.slot.isSome then
      { w with waited := w.waited + 1, age := if step then min 63 (w.age + 1) else w.age }
    else w

/-- Requests to the bank are granted under the pseudo-channel rule: its fallback is active (R435). -/
def inFallback (s : State) (b : Nat) : Bool :=
  decide (s.fld CST_BANKFB.STATE 0 = 2) && decide (s.fld CST_BANKFB.BANK 0 = b)

/-- CISTERN_BANK_GRANT: the bank performs the request it grants (R158, R175-R177), and counts it in
CST_ARB_STAT. A bank with no presented request does nothing. -/
def bankGrant (s : State) (b : Nat) : State :=
  match (if inFallback s b then none else pickGrant s b) with
  | none => s
  | some w =>
    let bk := tget bankDefault s.banks b
    let step := decide (bk.sub = 3)
    let rest := s.pend.filter fun x => ! (x.bank == b && x.seq == w.seq && x.slot == w.slot)
    let s := { s with
      pend := ageBank b step rest
      banks := tput bankDefault s.banks b
        { last := w.slot.getD 0, sub := if step then 0 else bk.sub + 1,
          cool := if step then [] else bk.cool ++ [w.slot.getD 0], busy := min 64 (bk.busy + 1) } }
    let s := performG s w.src w.bytes fun a => w.pois.contains a
    let s := countPerformed s w.src (b / 32)
    let s := s.wrapAdd CST_ARB_STAT.GRANTS b 1
    let s := s.setFld CST_ARB_STAT.MAXWAIT b (max (s.fld CST_ARB_STAT.MAXWAIT b) (min 255 w.waited))
    present s b

/-! ## Reads -/

/-- A core reads n bytes: code errors are met, and the data is what its ordering point observes (R177,
R438). Answers the state after the read and the state to take the data from. -/
def coreRead (s : State) (c : Core) (a n : Nat) : State × State :=
  let s := touchRead s (coreSrc c) a n 0
  (s, s.view (corePt c))

end Sys2Proof.Machine
end

