-- ==== Sys2Proof/Machine/Movers.lean ====
section
/-! DEFINITION. Movers: descriptors, their checks, copies and fills, completion, refusal and abort
(R27, R165-R173). -/

namespace Sys2Proof.Machine

/-! ## Bulk writes -/

/-- A byte on its way into memory: address, value, poison of the value it belongs to. -/
abbrev Bulk := List (Nat × Byte × Bool)

/-- The plain bytes of a bulk write. -/
def Bulk.plain (b : Bulk) : List (Nat × Byte) := b.map fun x => (x.1, x.2.1)

/-- The words into which a bulk write puts a poisoned value. -/
def Bulk.marked (b : Bulk) : List Nat := ((b.filter fun x => x.2.2).map fun x => x.1 / 8).eraseDups

/-- The lines of a bulk write, in order of first appearance. -/
def Bulk.lines (b : Bulk) : List Bulk :=
  ((b.map fun x => x.1 / 128).eraseDups).map fun l => b.filter fun x => x.1 / 128 == l

/-- The bytes that stay, of several for one address the last (R44). -/
def lastBytes : Bulk → Bulk
  | [] => []
  | x :: r => if r.any fun y => y.1 == x.1 then lastBytes r else x :: lastBytes r

/-- A bulk write without the bytes that it overwrites itself (R44, R439). -/
def Bulk.final (b : Bulk) : Bulk := b.lines.flatMap lastBytes

/-- Performs a bulk write at the storage. -/
def bulkPerform (s : State) (src : Nat) (b : Bulk) : State :=
  let b := b.final
  let m := b.marked
  performG s src b.plain fun w => m.contains w

/-- Every word of the 128-byte line of an address is poisoned where it is held. -/
def markLine (s : State) (a : Nat) : State :=
  forL (upFrom 0 16) (fun i s => s.upd (.mark (s.home (a / 128 * 128 + 8 * i) / 8) true)) s

/-- How a bulk write is cut short: the lines that are written, those before a free one; and, when a line is being
written at that moment and is not completed, an address of that line (R62, R173, R488). -/
def cutPlan (s : State) (b : Bulk) (writing : Bool) : List Bulk × Option Nat :=
  let ls := b.lines
  let k := s.free.toNat % (ls.length + 1)
  let whole := s.useFree.free.getLsbD 0
  match ls[k]? with
  | none => (ls, none)
  | some l =>
    if writing && whole then (ls.take (k + 1), none)
    else (ls.take k, if writing then some ((l.head?.map Prod.fst).getD 0) else none)

/-- A bulk write cut short: the lines written before the cut are performed, the line being written is complete or
poisoned, the rest keep their contents (R62, R173, R488). -/
def bulkCut (s : State) (src : Nat) (b : Bulk) (writing : Bool) : State :=
  let p := cutPlan s b writing
  let s := forL p.1 (fun l s => bulkPerform s src l) s.useFree.useFree
  match p.2 with
  | none => s
  | some a => markLine s a

/-- A bulk write cut short in the middle of a line. -/
def bulkAbort (s : State) (src : Nat) (b : Bulk) : State := bulkCut s src b true

/-! ## Descriptors (R167) -/

def MvDesc.w (d : MvDesc) (i : Nat) : Word := d.words.getD i 0
def MvDesc.kind (d : MvDesc) : Nat := bitsOf (d.w 0) 1 0
def MvDesc.sig (d : MvDesc) : Bool := (d.w 0).getLsbD 2
def MvDesc.evt (d : MvDesc) : Bool := (d.w 0).getLsbD 3
def MvDesc.evq (d : MvDesc) : Nat := bitsOf (d.w 0) 6 4
def MvDesc.req (d : MvDesc) : Nat := bitsOf (d.w 3) 15 0
def MvDesc.tag (d : MvDesc) : Nat := bitsOf (d.w 3) 47 16
def MvDesc.srcWords (d : MvDesc) : List Word := (d.words.drop 8).take 8
def MvDesc.dstWords (d : MvDesc) : List Word := (d.words.drop 16).take 8
def MvDesc.srcN (d : MvDesc) : Noun := nounOf d.srcWords
def MvDesc.dstN (d : MvDesc) : Noun := nounOf d.dstWords

/-- The descriptor an engine or unit builds for a copy (R166, R167). -/
def buildDesc (o : MvOrigin) (sig : Bool) (gate : Word) (evq req tag : Nat) (src dst : List Word) : MvDesc :=
  ⟨o, [w64 ((if sig then 4 else 0) + evq * 16), gate ||| w64 (if sig then 2 ^ 32 else 0), 0,
    w64 (req + tag * 2 ^ 16), 0, 0, 0, 0] ++ src ++ dst⟩

/-- A flat INT8 noun over n bytes from a, in two dimensions when n exceeds one extent. -/
def flatNoun (a n : Nat) : List Word :=
  let head := w64 (a + 6 * 2 ^ 40 + 2 ^ 57)
  if n < 2 ^ 24 then [head ||| w64 (1 * 2 ^ 44), w64 n, 0, 0, 0, 0, 0, 0]
  else [head ||| w64 (2 * 2 ^ 44), w64 (2 ^ 20), w64 (n / 2 ^ 20 + 2 ^ 20 * 2 ^ 24), 0, 0, 0, 0, 0]

/-- Source id of a mover (R165). -/
def moverSrc : MoverId → Nat
  | .engine e => 0x2100 + e.val
  | .ring m => 0x2000 + m.val

/-- Key of a mover's state. -/
def moverKey : MoverId → Nat
  | .engine e => 16 + e.val
  | .ring m => m.val

def State.mover (s : State) (m : MoverId) : MoverSt := tget (fun _ => {}) s.movers (moverKey m)

def State.setMover (s : State) (m : MoverId) (k : MoverSt) : State :=
  { s with movers := tput (fun _ => {}) s.movers (moverKey m) k }

/-- Descriptors a mover has in progress at most (R165). -/
def moverDepth : MoverId → Nat
  | .engine _ => 2
  | .ring m => if m.val < 4 then 4 else 2

/-- A hub mover serving a Dvoril port: its port (R210). -/
def sendPort : MoverId → Option Nat
  | .ring m => if m.val = 8 then some 0 else if m.val = 9 then some 1 else none
  | .engine _ => none

/-- The region lies within a mover's reach (R27, R28). -/
def moverReaches (m : MoverId) : Region → Bool
  | .hbm => match m with | .ring r => decide (r.val < 4) | _ => false
  | .cistern => true
  | .basin x => match m with | .engine e => x / 16 == e.val / 16 | _ => false
  | .edge _ | .lane _ | .outbound => match m with | .ring r => decide (4 ≤ r.val) | _ => false
  | _ => false

/-- Every byte from lo to hi passes a test of regions: both ends do and they lie in one region or in
neighbouring mapped ones. -/
def footIn (s : State) (p : Region → Bool) (f : Int × Int) : Bool :=
  decide (0 ≤ f.1) && p (s.region f.1.toNat) && p (s.region f.2.toNat) &&
    (decide (s.region f.1.toNat = s.region f.2.toNat) ||
      ((upFrom (f.1.toNat / 0x80000) (f.2.toNat / 0x80000 + 1 - f.1.toNat / 0x80000)).all fun b =>
        p (s.region (b * 0x80000))))

/-- Some byte from lo to hi passes a test of regions; regions begin at multiples of 512 KiB. -/
def footAny (s : State) (p : Region → Bool) (f : Int × Int) : Bool :=
  (decide (0 ≤ f.1) && p (s.region f.1.toNat)) || p (s.region f.2.toNat) ||
    (decide (s.region f.1.toNat ≠ s.region f.2.toNat) &&
      ((upFrom (f.1.toNat / 0x80000) (f.2.toNat / 0x80000 + 1 - f.1.toNat / 0x80000)).any fun b =>
        decide (f.1.toNat ≤ b * 0x80000) && p (s.region (b * 0x80000))))

/-- The footprints of a noun: its elements, and its scale array when it has one. -/
def footsOf (n : Noun) : List (Int × Int) := n.foot :: if n.sfmt = 1 then [n.sfoot] else []

/-- Format, element count and scales of a copy agree (R98). -/
def copyAgrees (a b : Noun) : Bool :=
  (a.fmt == b.fmt) && (a.count == b.count) &&
    (if a.sfmt = 1 then b.sfmt == 1 && a.e a.sdim == b.e b.sdim else true)

/-- Bytes of the destination's elements. -/
def Noun.bytesOf (n : Noun) : Nat := n.count * fmtBits n.fmt / 8

/-- The host function on whose behalf an outbound access is made: the requesting function, function 2 for
the journal's movers, otherwise function 0 (R457; assumption log 15). -/
def outboundFn (m : MoverId) (req : Nat) : Nat :=
  if req / 0x1000 = 0xC then req % 4
  else match m with
    | .ring r => if 10 ≤ r.val then 2 else 0
    | .engine _ => 0

/-- The reason of the first check a descriptor fails (R168, R215, R457). `up` says whether the Dvoril port
is UP and `win` its partner's receive window. -/
def descReason (s : State) (m : MoverId) (enabled : Bool) (d : MvDesc) : Option Nat :=
  let a := d.srcN
  let b := d.dstN
  let copy := decide (d.kind = 0)
  let send := sendPort m
  let nouns := if copy then [a, b] else [b]
  let feet := nouns.flatMap footsOf
  let reserved := decide (1 < d.kind) || decide (bitsOf (d.w 0) 63 7 ≠ 0) || decide (bitsOf (d.w 1) 31 21 ≠ 0) ||
    decide (bitsOf (d.w 3) 63 48 ≠ 0) || decide (d.w 6 ≠ 0) || decide (d.w 7 ≠ 0) ||
    decide (bitsOf (d.w 5) 63 32 ≠ 0) || (! copy && d.srcWords.any fun w => decide (w ≠ 0)) ||
    (! copy && send.isSome)
  let bad := if copy then (nounBad d.srcWords).orElse fun _ => nounBad d.dstWords else nounBad d.dstWords
  let port := tget (fun _ => ({} : DvPort)) s.dvl (send.getD 0)
  let win := port.pmgmt.map fun p => ((p.rxBase.toNat : Int), (p.rxLimit.toNat : Int))
  let mapped := fun r => match r with | Region.absent | Region.drdPrivate => false | _ => true
  let reach := match send with
    | none => ! feet.any (footAny s fun r => mapped r && ! moverReaches m r)
    | some _ => (footsOf a).all (footIn s fun r => decide (r = .cistern)) &&
        match win with
        | some w => (footsOf b).all fun f => decide (w.1 ≤ f.1) && decide (f.2 ≤ w.2)
        | none => true
  let there := match send with
    | none => (feet.all (footIn s mapped)) &&
        ! (feet.any fun f => decide (s.region f.1.toNat = .outbound) &&
          ! (tget (fun _ => ({} : FnSt)) s.fns (outboundFn m d.req)).bme)
    | some p => decide (s.fld DVL_STAT.STATE p = 2)
  if reserved then some 0x01
  else if bad.isSome then bad
  else if copy && ! copyAgrees a b then some 0x06
  else if copy && send.isNone && (footsOf a).any fun f => (footsOf b).any (overlaps f) then some 0x0E
  else if decide (2 ^ 26 < b.bytesOf) then some 0x0F
  else if ! reach then some 0x10
  else if ! there then some 0x11
  else if (d.sig && ! handleOkUnit (w64 (bitsOf (d.w 1) 20 0)) false) || ! enabled then some 0x12
  else none

/-- Address of a ring entry (R159). -/
def ringEntry (m i : Nat) : Nat := 0x403F290000 + 0x6000 * m + 0xC0 * i

/-- Writes CODE, REASON, BYTES and PWORDS where the descriptor came from: its ring entry, or the record of
the unit that handed it over (R166, R167). -/
def writeCode (s : State) (m : MoverId) (d : MvDesc) (code reason bytes pwords : Nat) : State :=
  match d.origin, m with
  | .ring i, .ring r =>
    let a := ringEntry r.val i
    (s.store (a + 32) 8 (code + reason * 2 ^ 8 + bytes * 2 ^ 16)).store (a + 40) 8 (min pwords (2 ^ 32 - 1))
  | .unit src n, _ => { s with unitDone := s.unitDone ++ [(src, n, code)] }
  | _, _ => s

/-- The detail of the mover events (R168, R170). -/
def moveDetail (d : MvDesc) (reason : Nat) : Nat := d.req + reason * 2 ^ 16 + d.tag * 2 ^ 24

/-- A refused descriptor writes no byte and signals no gate (R168). -/
def refuseDesc (s : State) (m : MoverId) (d : MvDesc) (reason : Nat) : State :=
  event (writeCode s m d 3 reason 0 0) d.evq 0x2002 (moverSrc m) (moveDetail d reason)

/-! ## Copy and fill (R98, R170) -/

/-- A 4-bit noun seen as bytes: dimension 0 holds half as many elements (its extent is even, R43). -/
def byteView (n : Noun) : Noun :=
  if fmtBits n.fmt = 4 then { n with fmt := 6, ext := (n.e 0 / 2) :: n.ext.drop 1 } else n

/-- The noun's elements as runs of bytes in index order: the address of each. -/
def elemAddrs (n : Noun) : List Nat :=
  let n := byteView n
  (indices n.ext).map n.addrOf

/-- The bytes and marks a copy puts into its destination. `host` supplies bytes read through the outbound
window. -/
def copyBulk (s : State) (d : MvDesc) (host : List Byte) : Bulk :=
  let w := fmtBytes d.srcN.fmt
  let fromHost := decide (s.region d.srcN.base = .outbound)
  let pairs := (elemAddrs d.srcN).zip (elemAddrs d.dstN)
  let elems := (upFrom 0 pairs.length).zip pairs
  let body := elems.flatMap fun x =>
    let bs := if fromHost then (upFrom 0 w).map fun i => host.getD (x.1 * w + i) 0 else s.bytes x.2.1 w
    let p := ! fromHost && s.mark x.2.1
    (atAddr x.2.2 bs).map fun y => (y.1, y.2, p)
  let scales := if d.srcN.sfmt = 1 then
      (upFrom 0 (d.srcN.count / 32)).flatMap fun i =>
        (atAddr (d.dstN.sbase + 2 * i) (s.bytes (d.srcN.sbase + 2 * i) 2)).map fun y =>
          (y.1, y.2, s.mark (d.srcN.sbase + 2 * i))
    else []
  body ++ scales

/-- The bytes a fill puts into its destination (R167). -/
def fillBulk (d : MvDesc) : Bulk :=
  let v := (d.w 2).toNat
  if fmtBits d.dstN.fmt = 4 then
    (elemAddrs d.dstN).map fun a => (a, BitVec.ofNat 8 (v % 16 * 17), false)
  else
    (elemAddrs d.dstN).flatMap fun a => (atAddr a (leBytes (fmtBytes d.dstN.fmt) v)).map fun y => (y.1, y.2, false)

/-- What a descriptor writes. -/
def descBulk (s : State) (d : MvDesc) (host : List Byte) : Bulk :=
  if d.kind = 0 then copyBulk s d host else fillBulk d

/-- A write through the outbound window goes to host memory as TLPs, one a line, poisoned ones with EP set
and, but for the journal's movers, a consumption (R448, R457). -/
def outboundWrite (s : State) (m : MoverId) (b : Bulk) : State :=
  let hb := (s.reg .HST_OBW 0).toNat
  let s := forL b.lines (fun l s =>
    let a := (l.head?.map Prod.fst).getD 0
    s.send (.hostWrite (hb + (a - 0x7000000000)) (l.map fun x => x.2.1) (! l.marked.isEmpty))) s
  let quiet := match m with
    | .ring r => decide (10 ≤ r.val)
    | .engine _ => false
  if b.marked.isEmpty || quiet then s else consumePoison s (moverSrc m) 4 0

/-- The engine or unit a descriptor's writes bear the source id of (R165, R167). -/
def descSrc (d : MvDesc) : Nat :=
  match d.origin with
  | .engine e _ => e
  | _ => d.req

/-- Where the elements and scales of a descriptor's destination begin. -/
def destStarts (d : MvDesc) : List Nat :=
  elemAddrs d.dstN ++
    if d.kind = 0 ∧ d.srcN.sfmt = 1 then (upFrom 0 (d.srcN.count / 32)).map fun i => d.dstN.sbase + 2 * i else []

/-- The charged writes of a descriptor, each by its quadrant: one for each line of a Cistern bank, one for each
64-byte HBM access of the mover's quadrant (R198). -/
def descCharges (s : State) (m : MoverId) (d : MvDesc) : List Nat :=
  match s.region d.dstN.base, m with
  | .cistern, _ => ((destStarts d).map fun a => a / 128).eraseDups.map fun l => quadOf (128 * l)
  | .hbm, .ring q => ((destStarts d).map fun a => a / 64).eraseDups.map fun _ => q.val
  | _, _ => []

/-- The mover accepts a descriptor: its writes are charged to their source (R198). -/
def chargeDesc (s : State) (m : MoverId) (d : MvDesc) : State :=
  forL (descCharges s m d) (fun q s => charge s (descSrc d) q) s

/-- The charged writes of a descriptor that has ended count as performed (R198; assumption log 20). -/
def countDesc (s : State) (m : MoverId) (d : MvDesc) : State :=
  forL (descCharges s m d) (fun q s => countPerformed s (descSrc d) q) s

/-- Writes a descriptor's bytes at their destination (R170). -/
def moveWrite (s : State) (m : MoverId) (d : MvDesc) (b : Bulk) : State :=
  match s.region d.dstN.base with
  | .outbound => outboundWrite s m b
  | _ => bulkPerform s (moverSrc m) b

/-- The ordering point through which a mover reads: its engine's die, the hub side otherwise (R177). -/
def moverPt : MoverId → Nat
  | .engine e => dieOf e.val
  | .ring _ => 2

/-- The reads of a descriptor, of elements and of scales, meet code errors (R170). -/
def moveReads (s : State) (m : MoverId) (d : MvDesc) : State :=
  if d.kind = 0 then
    let s := forL (elemAddrs d.srcN) (fun a s => touchRead s (moverSrc m) a (fmtBytes d.srcN.fmt) 0) s
    if d.srcN.sfmt = 1 then touchRead s (moverSrc m) d.srcN.sbase (2 * (d.srcN.count / 32)) 0 else s
  else s

/-- The end of a descriptor: the gate signal, then the event, then CODE (R170). -/
def finishDesc (s : State) (m : MoverId) (d : MvDesc) (bytes pwords : Nat) : State :=
  let s := if d.sig then
      signalHandle s (moverSrc m) (w64 (bitsOf (d.w 1) 20 0)) (BitVec.ofNat 32 (bitsOf (d.w 1) 63 32))
    else s
  let s := if d.evt then event s d.evq 0x2001 (moverSrc m) (moveDetail d 0) else s
  writeCode s m d (if pwords = 0 then 1 else 2) 0 bytes pwords

/-- Stores to the source of an engine's move are still to be performed: the engine's own, and those accepted before
through its die, whose data a gate of the die has made visible (R178). -/
def sourcePending (s : State) (d : MvDesc) : Bool :=
  match d.origin with
  | .engine e _ => s.pend.any fun w =>
      (w.src == e || (w.pt == dieOf e && w.slot.isSome)) &&
        w.bytes.any fun b => (footsOf d.srcN).any (overlaps ((b.1 : Int), (b.1 : Int)))
  | _ => false

/-- BUSY follows the descriptors in progress. -/
def syncBusy (s : State) (m : MoverId) : State :=
  match m with
  | .ring r => s.setFld CST_MVR_PTR.BUSY r.val (s.mover m).prog.length
  | .engine _ => s

/-- MOVER_DESCRIPTOR_COMPLETE: the oldest descriptor in progress ends (R170). `obFail` is a failed
completion of an outbound access (R457), `host` the data read from host memory. A send of a Dvoril mover
completes by its acknowledgment instead (R216), and a copy waits for an island that takes no entry (R17, R485). -/
def completeDesc (s : State) (m : MoverId) (obFail : Bool) (host : List Byte) : State :=
  let k := s.mover m
  match k.prog with
  | [] => s
  | d :: rest =>
    if (sendPort m).isSome || sourcePending s d || memStops s d.srcN.base || memStops s d.dstN.base then s
    else
      let s := syncBusy (s.setMover m { k with prog := rest }) m
      if obFail && (decide (s.region d.srcN.base = .outbound) || decide (s.region d.dstN.base = .outbound)) then
        let s := (countDesc s m d).satAdd HST_STAT.OBERR 0 1
        event (refuseDesc s m d 0x11) 0 0xC003 (moverSrc m) d.req
      else
        let s := moveReads s m d
        let b := descBulk (s.view (moverPt m)) d host
        let s := countDesc (moveWrite s m d b) m d
        finishDesc s m d (b.length % 2 ^ 48) b.final.marked.length

/-- The mover takes no descriptor unless it is ENABLED (R173). -/
def moverState (s : State) (m : MoverId) : Nat :=
  match m with
  | .ring r => s.fld CST_MVR_PTR.STATE r.val
  | .engine _ => 0

/-- A descriptor reaches its mover: refused, or in progress. A send is started by its Dvoril port. -/
def acceptDesc (start : State → Nat → MvDesc → State) (s : State) (m : MoverId) (d : MvDesc) : State :=
  match descReason s m (decide (moverState s m = 0)) d with
  | some r => refuseDesc s m d r
  | none =>
    let k := s.mover m
    let s := s.setMover m { k with prog := k.prog ++ [d] }
    match sendPort m with
    | some p => start s p d
    | none => chargeDesc s m d

/-- MOVER_TAKE_DESCRIPTOR: an ENABLED ring mover with room takes its next descriptor, alternating between
its ring and its handoff queue (R165, R172). A mover that is not ENABLED refuses its handoff entries with
reason 0x12 (R173). -/
def takeDesc (start : State → Nat → MvDesc → State) (s : State) (m : MoverId) : State :=
  match m with
  | .engine _ => s
  | .ring r =>
    let k := s.mover m
    let head := s.fld CST_MVR_PTR.HEAD r.val
    let tail := s.fld CST_MVR_PTR.TAIL r.val
    let enabled := decide (moverState s m = 0)
    let hasRing := decide (head ≠ tail) && enabled
    let takeHand := fun (s : State) => match k.handoff with
      | d :: rest => acceptDesc start (s.setMover m { k with handoff := rest, fromHand := false }) m d
      | [] => s
    let takeRing := fun (s : State) =>
      let d : MvDesc := ⟨.ring head, s.words (ringEntry r.val head) 24⟩
      let s := s.setFld CST_MVR_PTR.HEAD r.val ((head + 1) % 128)
      acceptDesc start (s.setMover m { k with fromHand := true }) m d
    if ! enabled then (if k.handoff.isEmpty then s else takeHand s)
    else if moverDepth m ≤ k.prog.length then s
    else
      let s := if hasRing && (k.handoff.isEmpty || ! k.fromHand) then takeRing s
        else if ! k.handoff.isEmpty then takeHand s else s
      syncBusy s m

/-- Bytes from host memory that the model leaves free. -/
def freeBytes (s : State) (n : Nat) : List Byte := (upFrom 0 n).map fun i => (Config.freeWord (s.freeCtr + i)).setWidth 8

/-- Ends a descriptor in progress with CODE ABORTED and no gate signal: BYTES and PWORDS count what has been
written, and the line being written is complete or poisoned (R167, R173). -/
def abortDesc (s : State) (m : MoverId) (d : MvDesc) : State :=
  if (sendPort m).isSome || decide (s.region d.dstN.base = .outbound) then writeCode s m d 4 0 0 0
  else
    let n := if s.region d.srcN.base = .outbound then d.dstN.bytesOf else 0
    let b := descBulk (s.view (moverPt m)) d (freeBytes s n)
    let s := { s with freeCtr := s.freeCtr + n }
    let done : Bulk := (cutPlan s b true).1.flatMap id
    writeCode (countDesc (bulkAbort s (moverSrc m) b) m d) m d 4 0 (done.length % 2 ^ 48) done.marked.length

/-- Ends every descriptor in progress (R173). -/
def abortProg (s : State) (m : MoverId) : State :=
  let k := s.mover m
  syncBusy (forL k.prog (fun d s => abortDesc s m d) (s.setMover m { k with prog := [] })) m

/-- An abort of a ring mover: the descriptors in progress end, and the mover is DISABLED (R173, R488). -/
def moverAbort (s : State) (m : Fin 12) : State :=
  let s := abortProg s (.ring m)
  (s.setBit CST_MVR_CTL.EN m.val false).setFld CST_MVR_PTR.STATE m.val 2

/-- EN written 1 while DISABLED enables the mover (R488). -/
def moverEnable (s : State) (m : Nat) : State :=
  if s.fld CST_MVR_PTR.STATE m = 2 then s.setFld CST_MVR_PTR.STATE m 0 else s

/-- EN written 0: DRAINING; the descriptors in progress complete (R173, R488). -/
def moverDrain (s : State) (m : Nat) : State :=
  if s.fld CST_MVR_PTR.STATE m = 0 then s.setFld CST_MVR_PTR.STATE m 1 else s

/-- The drained mover becomes DISABLED once nothing is in progress (R488). -/
def moverDrained (s : State) (m : Fin 12) : State :=
  if s.fld CST_MVR_PTR.STATE m.val = 1 ∧ (s.mover (.ring m)).prog = [] then
    s.setFld CST_MVR_PTR.STATE m.val 2 else s

/-- Hands a descriptor to the handoff queue of the quadrant mover of a Cistern address (R98, R166). -/
def handOver (s : State) (q : Nat) (d : MvDesc) : State :=
  let m : MoverId := .ring (Fin.ofNat 12 (q % 4))
  let k := s.mover m
  s.setMover m { k with handoff := k.handoff ++ [d] }

/-- The handoff queue of a quadrant mover is full (R165). -/
def handFull (s : State) (q : Nat) : Bool :=
  decide (32 ≤ (s.mover (.ring (Fin.ofNat 12 (q % 4)))).handoff.length)

/-- Whether a descriptor was handed over by a unit. -/
def MvDesc.ofUnit (src : Nat) (d : MvDesc) : Bool :=
  match d.origin with
  | .unit u _ => u == src
  | _ => false

/-- The descriptors of a unit leave a ring mover: those in progress count as performed (R198). -/
def dropUnit (src : Nat) (m : Fin 12) (s : State) : State :=
  let k := s.mover (.ring m)
  let s := forL (k.prog.filter (MvDesc.ofUnit src)) (fun d s => countDesc s (.ring m) d) s
  syncBusy (s.setMover (.ring m) { k with prog := k.prog.filter fun d => ! d.ofUnit src,
                                          handoff := k.handoff.filter fun d => ! d.ofUnit src }) (.ring m)

end Sys2Proof.Machine
end

