-- ==== Sys2Proof/Machine/Dvoril.lean ====
section
/-! DEFINITION. Dvoril ports: frames, virtual channels, sends, link errors, link state and the Timebase
discipline (R209-R222), and remote posts (R104, R199, R200, R214). -/

namespace Sys2Proof.Machine

def State.dv (s : State) (p : Nat) : DvPort := tget (fun _ => {}) s.dvl p

def State.setDv (s : State) (p : Nat) (d : DvPort) : State := { s with dvl := tput (fun _ => {}) s.dvl p d }

def State.modDv (s : State) (p : Nat) (f : DvPort → DvPort) : State := s.setDv p (f (s.dv p))

/-- Source id of a Dvoril port (R515). -/
def dvSrc (p : Nat) : Nat := 0x9000 + p

/-- The port is UP. -/
def dvUp (s : State) (p : Nat) : Bool := decide (s.fld DVL_STAT.STATE p = 2)

/-! ## Frames (R211) -/

/-- The fields of a frame before its link fields are known. -/
structure DvHead where
  vc    : Nat
  last  : Bool := false
  len   : Nat
  src   : Nat := 0
  seq   : Nat := 0
  addr  : Nat := 0
  pmask : Nat := 0

/-- Words 0 to 29 of a frame: header and payload (R211). -/
def dvWords (s : State) (p : Nat) (h : DvHead) (payload : List Word) : List Word :=
  let w0 := h.vc + s.fld DVL_GRP.IDX 0 * 4 + s.fld DVL_STAT.PIDX p * 16 + (if h.last then 64 else 0) +
    h.len * 2 ^ 8 + h.src % 2 ^ 16 * 2 ^ 16 + h.seq % 2 ^ 24 * 2 ^ 32 + h.addr % 2 ^ 8 * 2 ^ 56
  let w1 := h.addr / 2 ^ 8 % 2 ^ 32 + h.pmask % 2 ^ 28 * 2 ^ 32
  [w64 w0, w64 w1] ++ (upFrom 0 28).map fun i => payload.getD i 0

/-- The last word of a frame: the credits of channels 2 and 3 and the CRC over bytes 0-251 (R211). -/
def sealFrame (ws : List Word) (c2 c3 : Nat) : List Word :=
  let low := c2 % 2 ^ 16 + c3 % 2 ^ 16 * 2 ^ 16
  let c := crc32 (ws.flatMap (fun w => leBytes 8 w.toNat) ++ leBytes 4 low)
  ws ++ [w64 (low + c.toNat * 2 ^ 32)]

/-- The link sequence number this port acknowledges: the last received in order (R211). -/
def DvPort.ack (d : DvPort) : Nat := d.gotSeq

/-- Words 0-29 of a frame with its link fields: LSEQ, LACK, the credits and the CRC. -/
def linkFrame (ws : List Word) (seq ack : Nat) (cred : List Nat) : List Word :=
  let w30 := seq % 2 ^ 16 + ack % 2 ^ 16 * 2 ^ 16 + cred.getD 0 0 % 2 ^ 16 * 2 ^ 32 +
    cred.getD 1 0 % 2 ^ 16 * 2 ^ 48
  sealFrame (ws.take 30 ++ [w64 w30]) (cred.getD 2 0) (cred.getD 3 0)

/-- Fields of a received frame. -/
def dvVc (ws : List Word) : Nat := bitsOf (ws.getD 0 0) 1 0
def dvSmod (ws : List Word) : Nat := bitsOf (ws.getD 0 0) 3 2
def dvLen (ws : List Word) : Nat := bitsOf (ws.getD 0 0) 15 8
def dvSid (ws : List Word) : Nat := bitsOf (ws.getD 0 0) 31 16
def dvAddr (ws : List Word) : Nat := bitsOf (ws.getD 0 0) 63 56 + bitsOf (ws.getD 1 0) 31 0 * 2 ^ 8
def dvPmask (ws : List Word) : Nat := bitsOf (ws.getD 1 0) 59 32
def dvLseq (ws : List Word) : Nat := bitsOf (ws.getD 30 0) 15 0
def dvLack (ws : List Word) : Nat := bitsOf (ws.getD 30 0) 31 16
def dvCred (ws : List Word) : List Nat :=
  [bitsOf (ws.getD 30 0) 47 32, bitsOf (ws.getD 30 0) 63 48, bitsOf (ws.getD 31 0) 15 0,
   bitsOf (ws.getD 31 0) 31 16]

/-- The frame passes its CRC (R219). -/
def dvCrcOk (ws : List Word) : Bool :=
  decide (crc32 (((ws.flatMap fun w => leBytes 8 w.toNat).take 252)) =
    BitVec.ofNat 32 (bitsOf (ws.getD 31 0) 63 32))

/-- The payload of a received frame as a bulk write at its address, PMASK marking its poisoned words. -/
def dvPayload (ws : List Word) : Bulk :=
  let bs := ((ws.drop 2).take 28).flatMap fun w => leBytes 8 w.toNat
  ((upFrom 0 (dvLen ws)).zip (bs.take (dvLen ws))).map fun x =>
    (dvAddr ws + x.1, x.2, (dvPmask ws).testBit (x.1 / 8))

/-! ## Sends (R215-R217) -/

/-- Inserts a byte into a bulk write that rises by address. -/
def insBulk (x : Nat × Byte × Bool) : Bulk → Bulk
  | [] => [x]
  | y :: r => if x.1 ≤ y.1 then x :: y :: r else y :: insBulk x r

/-- The bytes of a bulk write in address order. -/
def Bulk.sorted (b : Bulk) : Bulk := b.foldr insBulk []

/-- How many leading bytes go into one frame: contiguous, at most 224, crossing at most one 128-byte line
boundary (R216). -/
def frameRun (a : Nat) : Nat → Bulk → Nat
  | _, [] => 0
  | n, x :: r =>
    if x.1 = a + n ∧ n < 224 ∧ (a + n) / 128 ≤ a / 128 + 1 then frameRun a (n + 1) r + 1 else 0

/-- Cuts a bulk write in address order into frames. -/
def cutFrames : Nat → Bulk → List Bulk
  | 0, _ => []
  | _ + 1, [] => []
  | fuel + 1, x :: r =>
    let n := max 1 (frameRun x.1 0 (x :: r))
    (x :: r).take n :: cutFrames fuel ((x :: r).drop n)

/-- The words of a frame's payload. -/
def payloadWords (bs : List Byte) : List Word := (pieces 8 bs).map fun p => w64 (leNat p)

/-- Charges a frame to a source's count for a port; the count (R198). -/
def dvCharge (s : State) (p src : Nat) : State × Nat :=
  if src < 256 then
    let s := charge s src (4 + p)
    (s, tget (fun _ => 0) (s.core (engine src)).fence (4 + p))
  else
    let d := s.dv p
    let n := (tget (fun _ => 0) d.charged src + 1) % 2 ^ 24
    (s.setDv p { d with charged := tput (fun _ => 0) d.charged src n }, n)

/-- Queues one bulk frame of a send. -/
def queueBulk (s : State) (p id req : Nat) (last : Bool) (f : Bulk) : State :=
  let c := dvCharge s p req
  let a := (f.head?.map Prod.fst).getD 0
  let pm := (((upFrom 0 f.length).zip f).filter fun x => x.2.2.2).map fun x => x.1 / 8
  let h : DvHead := { vc := 0, last := last, len := f.length, src := req, seq := c.2, addr := a,
                      pmask := pm.eraseDups.foldl (fun m w => m + 2 ^ w) 0 }
  let ws := dvWords s p h (payloadWords (f.map fun x => x.2.1))
  c.1.modDv p fun d => { d with queue := d.queue ++ [{ vc := 0, words := ws, send := some id, last := last }] }

/-- A hub mover takes a send: its payload is read, every frame is charged to REQ and waits in the port (R216, R217). -/
def dvStart (s : State) (p : Nat) (m : MvDesc) : State :=
  let s := moveReads s (.ring (Fin.ofNat 12 (8 + p))) m
  let b := (copyBulk s m []).sorted
  let fs := cutFrames b.length b
  let id := (s.dv p).nextSend
  let s := s.modDv p fun d => { d with
    nextSend := id + 1
    sends := d.sends ++ [(id, m, b.length % 2 ^ 48, b.final.marked.length)] }
  forL ((upFrom 1 fs.length).zip fs) (fun f s => queueBulk s p id m.req (f.1 == fs.length) f.2) s

/-- The partner has acknowledged a send's last frame, and its bulk buffer has come back: the frame has landed (R213, R216;
assumption log 16). -/
def DvPort.sendLanded (d : DvPort) (id : Nat) : Bool := d.acked.any fun a => a.1 == id && decide (a.2 ≤ d.freed0)

/-- DVORIL_SEND_COMPLETE: the oldest send whose last frame the partner has acknowledged as landed ends: gate signal,
event, CODE (R216, R217). -/
def dvSendComplete (s : State) (p : Nat) : State :=
  let d := s.dv p
  match d.sends with
  | (id, m, bytes, pwords) :: rest =>
    if d.sendLanded id then
      let mv : MoverId := .ring (Fin.ofNat 12 (8 + p))
      let s := s.setDv p { d with sends := rest, acked := d.acked.filter fun a => a.1 != id }
      let k := s.mover mv
      let s := syncBusy (s.setMover mv { k with prog := k.prog.tail }) mv
      finishDesc s mv m bytes pwords
    else s
  | [] => s

/-! ## Posts to other modules (R104, R199, R200, R214) -/

/-- The port is linked to a module: UP, or still completing what it has sent. -/
def dvReaches (s : State) (md p : Nat) : Bool :=
  (dvUp s p || decide (s.fld DVL_STAT.STATE p = 3)) && decide (s.fld DVL_STAT.PIDX p = md)

/-- A post of an engine to another module: a post record on the first UP port that reaches it, with the counts of both
when both do, or discarded (R199, R200, R214; assumption log 16). -/
def remotePost (s : State) (e : Nat) (h : Word) (amt : BitVec 32) : State :=
  let k := s.core (engine e)
  let cnt := fun p => tget (fun _ => 0) k.fence (4 + p)
  let md := bitsOf h 18 17
  match (upFrom 0 2).find? fun p => dvUp s p && dvReaches s md p with
  | none => lostPost s e h true
  | some p =>
    let xv := dvReaches s md (1 - p)
    let w0 := h.toNat % 2 ^ 21 + (if xv then 2 ^ 21 else 0) + amt.toNat * 2 ^ 32
    let w1 := e + cnt p * 2 ^ 16 + (if xv then cnt (1 - p) * 2 ^ 40 else 0)
    let ws := dvWords s p { vc := 1, len := 16, src := e, seq := cnt p } [w64 w0, w64 w1]
    s.modDv p fun d => { d with queue := d.queue ++ [{ vc := 1, words := ws }] }

/-- The post of a received post record. -/
def recordPost (s : State) (p smod : Nat) (w0 w1 : Word) : Post :=
  let one := [p, bitsOf w1 39 16]
  { src := bitsOf w1 15 0
    pc := 0
    handle := w0 &&& maskBits 20 0
    amt := BitVec.ofNat 32 (bitsOf w0 63 32)
    counts := if w0.getLsbD 21 then one ++ [1 - p, bitsOf w1 63 40] else one
    remote := some smod
    ns := s.totalNs }

/-- The posts of a received post frame. -/
def framePosts (s : State) (p : Nat) (ws : List Word) : List Post :=
  (upFrom 0 (dvLen ws / 16)).map fun i =>
    recordPost s p (dvSmod ws) (ws.getD (2 + 2 * i) 0) (ws.getD (3 + 2 * i) 0)

/-- Returns one credit of a channel to the partner (R212). -/
def DvPort.giveBack (d : DvPort) (vc : Nat) : DvPort := { d with back := lmod (· + 1) d.back vc }

/-- Received posts enter the sluice in order while it has room (R200). -/
def pumpFrames (s : State) (p : Nat) : List (List Post) → State
  | [] => s.modDv p fun d => { d with posts := [] }
  | f :: r =>
    let room := 64 - s.sluice.length
    let s := forL (f.take room) (fun x s => enterSluice s x) s
    if f.length ≤ room then pumpFrames (s.modDv p fun d => d.giveBack 1) p r
    else s.modDv p fun d => { d with posts := f.drop room :: r }

/-- Both ports' received posts enter the sluice while it has room. -/
def pumpPosts (s : State) : State :=
  if (s.dv 0).posts.isEmpty && (s.dv 1).posts.isEmpty then s
  else forL (upFrom 0 2) (fun p s => pumpFrames s p (s.dv p).posts) s

/-! ## Sending and receiving (R212, R213, R219) -/

/-- The first waiting frame of the highest class that has credit: time, management, post, bulk. -/
def nextFrame (d : DvPort) : Option DvTx :=
  [2, 3, 1, 0].findSome? fun vc =>
    if d.cred.getD vc 0 = 0 then none else d.queue.find? fun f => f.vc == vc

/-- The next frame that a port may send: any while UP, a management frame while TRAINING (R218). -/
def sendable (s : State) (p : Nat) : Option DvTx :=
  if dvUp s p then nextFrame (s.dv p)
  else if s.fld DVL_STAT.STATE p = 1 then (nextFrame (s.dv p)).filter fun f => f.vc == 3
  else none

/-- DVORIL_FRAME_SEND: a port with room in its 64-frame replay buffer sends its next frame (R212, R219). -/
def dvSend (s : State) (p : Nat) : State :=
  let d := s.dv p
  match if 64 ≤ d.replay.length then none else sendable s p with
  | none => s
  | some f =>
    let ws := linkFrame f.words d.nextSeq d.ack d.back
    let n := if f.vc = 0 then d.sent0 + 1 else d.sent0
    let d := { d with
      queue := d.queue.erase f
      replay := d.replay ++ [(d.nextSeq, { f with words := ws, ord := n })]
      nextSeq := (d.nextSeq + 1) % 65536
      cred := lmod (· - 1) d.cred f.vc
      back := [0, 0, 0, 0]
      sent0 := n }
    (s.setDv p d).send (.dvFrame p ws)

/-- A frame sent again: as it was, with the current acknowledgment. -/
def resealed (ack : Nat) (ws : List Word) : List Word := linkFrame ws (dvLseq ws) ack (dvCred ws)

/-- The frames of a link are covered by an acknowledgment up to `ack`. -/
def ackedBy (ack seq : Nat) : Bool := decide ((ack + 65536 - seq) % 65536 < 32768)

/-- A received post awaits frames of port p that have not landed. -/
def awaitsPort (s : State) (p : Nat) (x : Post) : Bool :=
  match x.remote with
  | none => false
  | some smod => (pieces 2 x.counts).any fun c =>
      c.getD 0 2 == p && ! countReached (tget (fun _ => 0) s.landed (landedKey p smod x.src)) (c.getD 1 0)

/-- The post without its count of port p, whose frames have landed: counts restart at link-up (R220). -/
def Post.without (x : Post) (p : Nat) : Post :=
  if x.remote.isSome then { x with counts := ((pieces 2 x.counts).filter fun c => c.getD 0 2 != p).flatMap id } else x

/-- Posts that wait in the sluice or a port for frames of a failed link are discarded, and those that wait to be sent
on it (R200, R220). -/
def dropPosts (s : State) (p : Nat) : State :=
  let hit := awaitsPort s p
  let keep := fun (l : List Post) => (l.filter fun x => ! hit x).map fun x => x.without p
  let gone := s.sluice.filter hit ++ (((s.dv 0).posts ++ (s.dv 1).posts).flatten).filter hit
  let s := syncSluice { s with sluice := keep s.sluice }
  let s := forL (upFrom 0 2) (fun q s => s.modDv q fun d => { d with posts := d.posts.map keep }) s
  let s := forL gone (fun x s => lostPost s x.src x.handle false) s
  let own := (s.dv p).queue.filter fun f => f.vc == 1
  forL own (fun f s => lostPost s (dvSid f.words) (w64 (bitsOf (f.words.getD 2 0) 20 0)) true) s

/-- The link goes DOWN with a REASON: event DVL-LINK-DOWN, a detection of class 20 (R413), sends in progress ABORTED, posts waiting for
its frames discarded, frames on their way dropped (R220). -/
def dvDown (s : State) (p reason : Nat) : State :=
  let s := (s.setFld DVL_STAT.STATE p 0).setFld DVL_STAT.REASON p reason
  let s := detect (event s 0 0x9002 (dvSrc p) reason) 20 (dvSrc p)
  let s := dropPosts s p
  let d := s.dv p
  let mv : MoverId := .ring (Fin.ofNat 12 (8 + p))
  let s := s.setDv p { d with queue := [], replay := [], landing := [], sends := [], acked := [], resends := 0 }
  let s := syncBusy (s.setMover mv { s.mover mv with prog := [] }) mv
  pumpPosts (forL d.sends (fun x s => writeCode s mv x.2.1 4 0 0 0) s)

/-- An acknowledgment frees replay frames and marks sends whose last frame it covers (R216, R219). -/
def takeAck (d : DvPort) (ack : Nat) : DvPort :=
  let done := d.replay.takeWhile fun x => ackedBy ack x.1
  if done.isEmpty then d
  else { d with
    replay := d.replay.drop done.length
    resends := 0
    acked := d.acked ++ done.filterMap fun x => if x.2.last then x.2.send.map fun id => (id, x.2.ord) else none }

/-- Counts a frame for its source and module, landed or refused (R213). -/
def countLanded (s : State) (p : Nat) (ws : List Word) : State :=
  let k := landedKey p (dvSmod ws) (dvSid ws)
  { s with landed := tput (fun _ => 0) s.landed k ((tget (fun _ => 0) s.landed k + 1) % 2 ^ 24) }

/-- The range of a bulk frame lies in the receive window of the port, in the Cistern (R215, R219). -/
def inWindow (s : State) (d : DvPort) (ws : List Word) : Bool :=
  decide (d.rxLo ≤ dvAddr ws) && decide (dvAddr ws + dvLen ws ≤ d.rxHi + 1) && decide (0 < dvLen ws) &&
    s.within .cistern (dvAddr ws) (dvLen ws)

/-- A frame received in order is delivered to its channel. -/
def deliverFrame (s : State) (p : Nat) (ws : List Word) : State :=
  let d := s.dv p
  match dvVc ws with
  | 0 =>
    if inWindow s d ws then s.setDv p { d with landing := d.landing ++ [(dvLseq ws, { vc := 0, words := ws })] }
    else
      let s := countLanded (s.setDv p (d.giveBack 0)) p ws
      let s := s.satAdd DVL_ERR.RXREF p 1
      event s 0 0x9003 (dvSrc p) (dvSid ws + dvAddr ws * 2 ^ 16)
  | 1 => pumpPosts (s.setDv p { d with posts := d.posts ++ [framePosts s p ws] })
  | vc => s.setDv p (d.giveBack vc)

/-- DVORIL_FRAME_RECEIVE: FEC corrections are counted; a frame that fails its CRC or follows a gap is
discarded; a frame in order acknowledges, returns credits and is delivered (R212, R219). -/
def dvReceive (s : State) (p : Nat) (f : DvFrame) : State :=
  if s.fld DVL_STAT.STATE p < 2 then s
  else
    let s := s.satAdd DVL_ERR.FECCOR p f.fecFix
    let d := s.dv p
    let seq := dvLseq f.words
    if ! dvCrcOk f.words || decide (seq ≠ (d.gotSeq + 1) % 65536) then s
    else
      let d := takeAck { d with gotSeq := seq } (dvLack f.words)
      let d := { d with cred := (d.cred.zip (dvCred f.words)).map fun c => c.1 + c.2
                        freed0 := d.freed0 + (dvCred f.words).getD 0 0 }
      deliverFrame (s.setDv p d) p f.words

/-- DVORIL_FRAME_LANDED: the oldest bulk payload is performed at its banks, in order; the landed count of
its source advances and its buffer is returned (R212, R213, R217). -/
def dvLanded (s : State) (p : Nat) : State :=
  let d := s.dv p
  match d.landing with
  | [] => s
  | x :: r =>
    let s := s.setDv p ({ d with landing := r }.giveBack 0)
    countLanded (bulkPerform s (dvSrc p) (dvPayload x.2.words)) p x.2.words

/-- DVORIL_RESEND: the frames not covered by the last acknowledgment are sent again; after eight
consecutive resends of one frame the link goes DOWN (R219, R220). -/
def dvResend (s : State) (p : Nat) : State :=
  let d := s.dv p
  if s.fld DVL_STAT.STATE p < 2 ∨ d.replay = [] then s
  else
    let fs := d.replay.map fun x => (x.1, { x.2 with words := resealed d.ack x.2.words })
    let s := s.setDv p { d with replay := fs, resends := d.resends + 1 }
    let s := s.satAdd DVL_ERR.RETRY p fs.length
    let s := forL fs (fun x s => s.send (.dvFrame p x.2.words)) s
    if d.resends + 1 = 8 then dvDown s p 5 else s

/-! ## Link state (R218, R220, R221, R488) -/

/-- The management frame that announces this module to the partner: group id and index, receive window, equivalence key
(R218; assumption log 16). -/
def dvManage (s : State) (p : Nat) : State :=
  let body := [w64 (s.fld DVL_GRP.GID 0 + s.fld DVL_GRP.IDX 0 * 2 ^ 32), w64 (s.fld DVL_RXWIN0.BASE p),
    w64 (s.fld DVL_RXWIN1.LIMIT p), s.reg .DET_KEY 0, w64 (if s.bit DET_CTL.STRICT 0 then 1 else 0)]
  let ws := dvWords s p { vc := 3, len := 40, src := dvSrc p } body
  s.setDv p { ({} : DvPort) with
    queue := [{ vc := 3, words := ws }], posts := (s.dv p).posts, nextSend := (s.dv p).nextSend, discNs := (s.dv p).discNs }

/-- Training begins: the port is TRAINING and has its management frame to send (R218). -/
def dvTrain (s : State) (p : Nat) : State := dvManage (s.setFld DVL_STAT.STATE p 1) p

/-- DVORIL_LINK_UP: training and the management exchange have ended; the port goes UP with fresh counts,
or stays DOWN when the group id or the index does not fit (R218, R220). -/
def dvLinkUp (s : State) (p : Nat) (q : DvPartner) : State :=
  if s.fld DVL_STAT.STATE p ≠ 1 then s
  else if q.gid.toNat ≠ s.fld DVL_GRP.GID 0 then dvDown s p 2
  else if q.idx.toNat = s.fld DVL_GRP.IDX 0 ∨ s.fld DVL_GRP.SIZE 0 < q.idx.toNat then dvDown s p 3
  else
    let d := s.dv p
    let s := s.setDv p { ({} : DvPort) with
      pmgmt := some q
      rxLo := s.fld DVL_RXWIN0.BASE p
      rxHi := s.fld DVL_RXWIN1.LIMIT p
      posts := d.posts
      nextSend := d.nextSend
      discNs := d.discNs }
    let s := { s with landed := s.landed.filter fun x => decide (x.1 / 2 ^ 20 ≠ p) }
    let s := forL (upFrom 0 256) (fun e s =>
      if tget (fun _ => 0) (s.core (engine e)).fence (4 + p) = 0 then s
      else s.modCore (engine e) fun k => { k with fence := tput (fun _ => 0) k.fence (4 + p) 0 }) s
    let s := (s.setFld DVL_STAT.STATE p 2).setFld DVL_STAT.PIDX p q.idx.toNat
    eventFree s 0 0x9001 (dvSrc p)

/-- DVORIL_TRAINING_TIMEOUT: training fails within 20 ms (R218). -/
def dvTrainFail (s : State) (p : Nat) : State := if s.fld DVL_STAT.STATE p = 1 then dvDown s p 4 else s

/-- DVORIL_LOCK_LOSS: FEC lock is lost for 1 µs (R220). -/
def dvLockLoss (s : State) (p : Nat) : State := if s.fld DVL_STAT.STATE p ≠ 0 then dvDown s p 6 else s

/-- ABORT takes the link down at once (R220, R488). -/
def dvAbort (s : State) (p : Nat) : State :=
  let s := s.setBit DVL_CTL.EN p false
  if s.fld DVL_STAT.STATE p ≠ 0 then dvDown s p 7 else s

/-- The effects of a write of DVL_CTL[p]: training, draining, abort, discipline (R218, R220-R222). -/
def dvCtl (s : State) (p : Nat) (old v : Word) : State :=
  let s := if v.getLsbD 2 && ! old.getLsbD 2 then s.modDv p fun d => { d with discNs := some s.totalNs }
    else if ! v.getLsbD 2 then s.modDv p fun d => { d with discNs := none } else s
  let st := s.fld DVL_STAT.STATE p
  if v.getLsbD 1 then dvAbort s p
  else if v.getLsbD 0 then (if st = 0 then dvTrain s p else s)
  else if st = 2 then s.setFld DVL_STAT.STATE p 3
  else if st = 1 then dvDown s p 1
  else s

/-- The drained port goes DOWN with REASON 1 once every frame is acknowledged (R221). -/
def dvDrained (s : State) (p : Nat) : State :=
  if s.fld DVL_STAT.STATE p = 3 ∧ (s.dv p).replay = [] then dvDown s p 1 else s

/-- The drain bound of 10 µs passes (R221, R489). -/
def dvDrainTimeout (s : State) (p : Nat) : State := if s.fld DVL_STAT.STATE p = 3 then dvDown s p 1 else s

/-! ## Timebase discipline (R222) -/

/-- Nominal TB_INC: 2.5 ns a tick, in units of 2^-32 ns (R351). -/
def tbNominal : Nat := 0x0280000000

/-- DVORIL_TIME_EXCHANGE: OFFSET is measured; with DISC set TB_INC moves, by a free amount of at most 200
ppm of its nominal value, so as to drive the offset towards 0; after 100 ms of discipline an offset above
5 ns is reported (R222). -/
def dvTime (s : State) (p t1 t2 t3 t4 : Nat) : State :=
  if ! dvUp s p then s
  else
    let off : Int := Int.tdiv (((t2 : Int) - t1) - ((t4 : Int) - t3)) 2
    let s := s.setFld DVL_STAT.OFFSET p (BitVec.ofInt 32 off).toNat
    let ws := dvWords s p { vc := 2, len := 16, src := dvSrc p } [w64 t1, w64 t2]
    let s := s.modDv p fun d => { d with queue := d.queue ++ [{ vc := 2, words := ws }] }
    if ! s.bit DVL_CTL.DISC p then s
    else
      let amt := s.free.toNat % (tbNominal / 5000 + 1)
      let s := s.useFree
      let inc := if 0 < off then tbNominal + amt else if off < 0 then tbNominal - amt else tbNominal
      let s := s.setFld TB_INC.INC 0 inc
      match (s.dv p).discNs with
      | some t => if t + 100000000 ≤ s.totalNs ∧ 5 < off.natAbs then eventFree s 0 0x9004 (dvSrc p) else s
      | none => s

end Sys2Proof.Machine
end

