-- ==== Sys2Proof/Machine/Flags.lean ====
section
/-! DEFINITION. Exception flags: how instructions and verbs add to FFLAGS (R38, R61, R75, R114). -/

namespace Sys2Proof.Machine

/-- FFLAGS of a core. -/
def CoreSt.flags (k : CoreSt) : Flags := (k.special 0x009).setWidth 5

/-- ORs flags into FFLAGS (R75, R114). -/
def CoreSt.orFlags (k : CoreSt) (f : Flags) : CoreSt :=
  k.setSpecial 0x009 (k.special 0x009 ||| f.setWidth 64)

/-- ORs flags into a core's FFLAGS. -/
def State.orFlags (s : State) (c : Core) (f : Flags) : State :=
  if f = 0 then s else s.modCore c fun k => k.orFlags f

/-- The flags of a verb's status word (R61). -/
def statusFlags (w : Word) : Flags := w.extractLsb' 8 5

/-- All flags of a list of results. -/
def allFlags (l : List Flags) : Flags := l.foldl (· ||| ·) 0

end Sys2Proof.Machine
end

