-- ==== Sys2Proof/Machine/Vector.lean ====
section
/-! DEFINITION. The V class: vector arithmetic, compares, predicates, loads, stores, conversions
(R35, R83-R85, R110-R123), and the residue check of its results (R421). -/

namespace Sys2Proof.Machine

/-! ## Elements -/

/-- The raw bits of element i of w bytes (R35). -/
def VReg.el (r : VReg) (w i : Nat) : Nat := (r.v.extractLsb' (8 * w * i) (8 * w)).toNat

/-- The element's poison mark. -/
def VReg.psn (r : VReg) (w i : Nat) : Bool := decide (r.p.extractLsb' (w * i) w ≠ 0)

/-- Replaces an element and its mark. -/
def VReg.put (r : VReg) (w i bits : Nat) (p : Bool) : VReg :=
  let m : VWord := ((BitVec.allOnes (8 * w)).setWidth 512) <<< (8 * w * i)
  let pm : BitVec 64 := ((BitVec.allOnes w).setWidth 64) <<< (w * i)
  { v := (r.v &&& ~~~m) ||| ((BitVec.ofNat 512 (bits % 2 ^ (8 * w))) <<< (8 * w * i))
    p := if p then r.p ||| pm else r.p &&& ~~~pm }

/-- The predicate enables element i of w bytes (R35). -/
def enabled (pg : Word) (w i : Nat) : Bool := pg.getLsbD (w * i)

/-- A vector element type: bytes, and the floating-point format or the signedness (R83). -/
inductive ElTy where
  | fp (f : FFmt)
  | int (w : Nat) (sgn : Bool)

/-- Bytes of an element. -/
def ElTy.bytes : ElTy → Nat
  | .fp f => f.width / 8
  | .int w _ => w

/-- Elements of a vector. -/
def ElTy.count (t : ElTy) : Nat := 64 / t.bytes

/-- The types of the ET field (R83); the saturating ones are types of `vcvt` destinations only. -/
def elTy (et : BitVec 5) : Option ElTy :=
  match et.toNat with
  | 0x00 => some (.fp .f32) | 0x01 => some (.fp .f16) | 0x02 => some (.fp .bf16) | 0x03 => some (.fp .f64)
  | 0x04 => some (.fp .e4m3) | 0x05 => some (.fp .e5m2)
  | 0x08 => some (.int 1 true) | 0x09 => some (.int 2 true) | 0x0A => some (.int 4 true)
  | 0x0B => some (.int 8 true)
  | 0x0C => some (.int 1 false) | 0x0D => some (.int 2 false) | 0x0E => some (.int 4 false)
  | 0x0F => some (.int 8 false)
  | _ => none

/-- The types that the arithmetic instructions accept: FP and int, no FP8 (R84, R85). -/
def arithTy (et : BitVec 5) : Option ElTy :=
  match elTy et with
  | some (.fp f) => if f.isFp8 then none else some (.fp f)
  | t => t

/-! ## Elementwise operations -/

/-- An operation on one element: from the operands' raw bits to the result's raw bits and flags. -/
abbrev ElOp := List Nat → Nat × Flags

/-- Applies an operation to every enabled element of w bytes: the result register and the flags. A result
is poisoned when a source element is, or when the residue check finds a mismatch (R74, R421). -/
def mapEl (w : Nat) (old : VReg) (srcs : List VReg) (pg : Word) (bad : BitVec 64) (f : ElOp) : VReg × Flags :=
  forL (upFrom 0 (64 / w)) (fun i r =>
    if enabled pg w i then
      let x := f (srcs.map fun v => v.el w i)
      let p := (srcs.any fun v => v.psn w i) || decide (bad.extractLsb' (w * i) w ≠ 0)
      (r.1.put w i x.1 p, r.2 ||| x.2)
    else r) (old, 0)

/-- Some enabled element of w bytes is marked as a residue mismatch. -/
def anyBad (w : Nat) (pg : Word) (bad : BitVec 64) : Bool :=
  (upFrom 0 (64 / w)).any fun i => enabled pg w i && decide (bad.extractLsb' (w * i) w ≠ 0)

/-- Reports a residue mismatch as a detection of class 5 (R421). -/
def reportBad (s : State) (src : Nat) (b : Bool) : State := if b then detect s 5 src else s

/-- Writes an elementwise result: the register, the flags, the residue detection. -/
def putVec (x : Ctx) (s : State) (w : Nat) (vd : BitVec 5) (srcs : List VReg) (pg : BitVec 3)
    (bad : BitVec 64) (f : ElOp) : State :=
  let p := x.b.readP pg
  let r := mapEl w ((s.core x.c).readV vd) srcs p bad f
  let s := s.modCore x.c fun k => (k.writeV vd r.1).orFlags r.2
  reportBad s (coreSrc x.c) (anyBad w p bad)

/-- The binary operations of the table (R84). -/
inductive VecOp where
  | add | sub | mul | min | max

/-- The integer result: wraps, keeps the low half (R75, R84). -/
def intOp (o : VecOp) (w : Nat) (sgn : Bool) (x y : Nat) : Nat :=
  let a := bitsInt (8 * w) sgn x
  let b := bitsInt (8 * w) sgn y
  intBits (8 * w) (match o with
    | .add => a + b
    | .sub => a - b
    | .mul => a * b
    | .min => min a b
    | .max => max a b)

/-- The floating-point result (R110-R117). -/
def fpOp (o : VecOp) (f : FFmt) (md : RMode) (x y : Nat) : Nat × Flags :=
  match o with
  | .add => fAdd f md x y
  | .sub => fSub f md x y
  | .mul => fMul f md x y
  | .min => fMinMax false f md x y
  | .max => fMinMax true f md x y

/-- The operation on the raw bits of a type. -/
def tyOp (o : VecOp) (md : RMode) : ElTy → ElOp
  | .fp f => fun l => fpOp o f md (l.getD 0 0) (l.getD 1 0)
  | .int w sgn => fun l => (intOp o w sgn (l.getD 0 0) (l.getD 1 0), 0)

/-- The residue codes cover integer add, subtract and multiply, and floating-point products (R421). -/
def covered (o : VecOp) : ElTy → Bool
  | .fp _ => match o with | .mul => true | _ => false
  | .int _ _ => match o with | .min | .max => false | _ => true

/-- A binary vector instruction (R84). -/
def vecBin (o : VecOp) (x : Ctx) (s : State) (vd va vb et : BitVec 5) (pg : BitVec 3) (bad : BitVec 64) : Res :=
  match arithTy et with
  | none => raise trIllegal
  | some t =>
    .ok (putVec x s t.bytes vd [x.b.readV va, x.b.readV vb] pg (if covered o t then bad else 0)
      (tyOp o x.b.mode t))

/-- `vdiv` and `vsqrt` accept FP32 only (R84, R126, R133). -/
def vecF32 (x : Ctx) (s : State) (vd : BitVec 5) (srcs : List (BitVec 5)) (et : BitVec 5) (pg : BitVec 3)
    (f : RMode → ElOp) : Res :=
  if et ≠ 0 then raise trIllegal
  else .ok (putVec x s 4 vd (srcs.map x.b.readV) pg 0 (f x.b.mode))

/-- `vfma`: one rounding (R84, R110). -/
def vecFma (f : FFmt) (x : Ctx) (s : State) (vd va vb vc : BitVec 5) (pg : BitVec 3) (bad : BitVec 64) : Res :=
  .ok (putVec x s (f.width / 8) vd [x.b.readV va, x.b.readV vb, x.b.readV vc] pg bad fun l =>
    fFma f x.b.mode (l.getD 0 0) (l.getD 1 0) (l.getD 2 0))

/-- Bitwise instructions, predicated per byte lane (R84). -/
def vecBit (f : Nat → Nat → Nat) (x : Ctx) (s : State) (vd va vb : BitVec 5) (pg : BitVec 3) : Res :=
  .ok (putVec x s 1 vd [x.b.readV va, x.b.readV vb] pg 0 fun l => (f (l.getD 0 0) (l.getD 1 0), 0))

/-! ## Compares and predicates -/

/-- Integer comparison by condition code. -/
def intCmp (cc : Nat) (a b : Int) : Bool :=
  match cc with
  | 0 => decide (a = b)
  | 1 => decide (a ≠ b)
  | 2 => decide (a < b)
  | 3 => decide (a ≤ b)
  | 4 => decide (b < a)
  | _ => decide (b ≤ a)

/-- One comparison of a type. -/
def tyCmp (cc : Nat) (md : RMode) : ElTy → Nat → Nat → Bool × Flags
  | .fp f, x, y => fCmp f md cc x y
  | .int w sgn, x, y => (intCmp cc (bitsInt (8 * w) sgn x) (bitsInt (8 * w) sgn y), 0)

/-- The byte lanes of element i of w bytes. -/
def laneMask (w i : Nat) : Word := w64 ((2 ^ w - 1) * 2 ^ (w * i))

/-- The compare accepts this condition for this type (R84). -/
def ccOk (cc : Nat) : ElTy → Bool
  | .fp _ => decide (cc ≤ 6)
  | .int _ _ => decide (cc ≤ 5)

/-- `vcmp` (R74, R84, R421). DESIGN CHOICE: of two poisoned sources EDETAIL names va (assumption log 13). -/
def vecCmp (x : Ctx) (s : State) (pd : BitVec 3) (va vb : BitVec 5) (cc : BitVec 3) (et : BitVec 5)
    (bad : BitVec 64) : Res :=
  match arithTy et with
  | none => raise trIllegal
  | some t => do
    let a := x.b.readV va
    let b := x.b.readV vb
    trapIf (! ccOk cc.toNat t) trIllegal
    trapIf (decide (a.p ≠ 0)) (trPoisonReg va.toNat true 8)
    trapIf (decide (b.p ≠ 0)) (trPoisonReg vb.toNat true 8)
    let w := t.bytes
    let r := forL (upFrom 0 t.count) (fun i (r : Word × Flags) =>
      let c := tyCmp cc.toNat x.b.mode t (a.el w i) (b.el w i)
      (if c.1 then r.1 ||| laneMask w i else r.1, r.2 ||| c.2)) (0, 0)
    let s := s.modCore x.c fun k => (k.writeP pd r.1).orFlags r.2
    let check := match t with
      | .int _ _ => true
      | .fp _ => false
    pure (reportBad s (coreSrc x.c) (check && decide (bad ≠ 0)))

/-- A predicate instruction (R84). -/
def predOp (f : Word → Word → Word) (x : Ctx) (s : State) (pd pa pb : BitVec 3) : Res :=
  .ok (s.modCore x.c fun k => k.writeP pd (f (x.b.readP pa) (x.b.readP pb)))

/-! ## Moves between register files, conversion -/

/-- `vbcast` (R84). -/
def vecBcast (x : Ctx) (s : State) (vd ga et : BitVec 5) : Res :=
  match elTy et with
  | none => raise trIllegal
  | some t =>
    let g := x.b.readG ga
    let r := forL (upFrom 0 t.count) (fun i r => r.put t.bytes i g.v.toNat g.p) ({} : VReg)
    .ok (s.modCore x.c fun k => k.writeV vd r)

/-- `vget` (R74, R84). -/
def vecGet (x : Ctx) (s : State) (gd va gi et : BitVec 5) : Res :=
  match elTy et with
  | none => raise trIllegal
  | some t => do
    let i := x.b.readG gi
    trapIf i.p (trPoisonReg gi.toNat false 8)
    let v := x.b.readV va
    let k := i.v.toNat % t.count
    let raw := v.el t.bytes k
    let out : Word := match t with
      | .int w true => BitVec.ofInt 64 (bitsInt (8 * w) true raw)
      | _ => w64 raw
    pure (s.modCore x.c fun c => c.writeG gd ⟨out, v.psn t.bytes k⟩)

/-- The destination type of `vcvt`, and whether it saturates (R83, R85). -/
def cvtDst (et : BitVec 5) : Option (ElTy × Bool) :=
  match et.toNat with
  | 0x14 => some (.fp .e4m3, true)
  | 0x15 => some (.fp .e5m2, true)
  | _ => (elTy et).map fun t => (t, false)

/-- One conversion; no conversion between FP8 and integer types (R120-R123). -/
def cvtEl (md : RMode) (sat : Bool) : ElTy → ElTy → Option (Nat → Nat × Flags)
  | .fp a, .fp b => some fun x => fCvt a b md sat x
  | .fp a, .int w sgn => if a.isFp8 then none else some fun x => fToInt a md (8 * w) sgn x
  | .int w sgn, .fp b =>
    if b.isFp8 then none else some fun x => fFromInt b md (bitsInt (8 * w) sgn x)
  | .int w sgn, .int w' _ => some fun x => (intBits (8 * w') (bitsInt (8 * w) sgn x), 0)

/-- `vcvt` (R85). -/
def vecCvt (x : Ctx) (s : State) (vd va dst src : BitVec 5) : Res :=
  match elTy src, cvtDst dst with
  | some a, some b =>
    match cvtEl x.b.mode b.2 a b.1 with
    | none => raise trIllegal
    | some f =>
      let v := x.b.readV va
      let r := forL (upFrom 0 b.1.count) (fun i (r : VReg × Flags) =>
        if i < a.count then
          let y := f (v.el a.bytes i)
          (r.1.put b.1.bytes i y.1 (v.psn a.bytes i), r.2 ||| y.2)
        else r) ({}, 0)
      .ok (s.modCore x.c fun k => (k.writeV vd r.1).orFlags r.2)
  | _, _ => raise trIllegal

/-- `pmov pd,ga` (R74, R84). -/
def pmovTo (x : Ctx) (s : State) (pd : BitVec 3) (ga : BitVec 5) : Res := do
  let g := x.b.readG ga
  trapIf g.p (trPoisonReg ga.toNat false 8)
  pure (s.modCore x.c fun k => k.writeP pd g.v)

/-- `pmov gd,pa` (R74, R84). -/
def pmovFrom (x : Ctx) (s : State) (gd : BitVec 5) (pa : BitVec 3) : Res :=
  .ok (s.modCore x.c fun k => k.writeG gd ⟨x.b.readP pa, false⟩)

/-! ## Waits on verbs in flight (R50) -/

/-- The footprints a verb reads and writes, elements, scale arrays and records: sources, destinations. -/
structure VerbFeet where
  src : List (Int × Int) := []
  dst : List (Int × Int) := []

/-- Footprint and scale footprint of a noun. -/
def nounFeet (n : Noun) : List (Int × Int) := n.foot :: if n.sfmt = 1 then [n.sfoot] else []

/-- The footprints of a verb in flight (R50). Its first noun is its destination when it has one; `attn`
also writes its page list, its staging ring, its statistics in forward form and its kept probabilities
(R234); `smax` writes its statistics unless it reads them. -/
def verbFeet (v : Verb) : VerbFeet :=
  let ns := v.nouns.map nounOf
  let all := ns.flatMap nounFeet
  let rest := (ns.drop 1).flatMap nounFeet
  let first := (ns.take 1).flatMap nounFeet
  match v.kind with
  | .mma _ _ => { src := all }
  | .attn rc =>
    let at_ := fun (l : List Nat) => l.flatMap fun i => (ns.drop i).take 1 |>.flatMap nounFeet
    let app := if v.ctl.getLsbD 1 then 2 else 0
    let keep := if v.ctl.getLsbD 2 then [5 + app] else []
    { src := at_ ([1, 2, 4 + app] ++ (if rc then [3] else []) ++ (if app = 2 then [4, 5] else []))
      dst := at_ ([0, 2, 4 + app] ++ (if rc then [] else [3]) ++ keep) }
  | .smax rd => { src := rest, dst := first ++ if rd then [] else (ns.drop 2).flatMap nounFeet }
  | .cvt | .cvtAcc _ =>
    let rec_ := bitsOf v.ctl 39 0 / 64 * 64
    let r : List (Int × Int) := if v.ctl.getLsbD 4 then [((rec_ : Int), (rec_ : Int) + 63)] else []
    { src := rest, dst := first ++ r }
  | _ => { src := rest, dst := first }

/-- A load from a range waits: it overlaps the destination of a verb in flight (R50). -/
def loadWaits (k : CoreSt) (f : Int × Int) : Bool :=
  k.inFlight.any fun v => (verbFeet v).dst.any (overlaps f)

/-- A store to a range waits: it overlaps a footprint of a verb in flight (R50). -/
def storeWaits (k : CoreSt) (f : Int × Int) : Bool :=
  k.inFlight.any fun v => (verbFeet v).dst.any (overlaps f) || (verbFeet v).src.any (overlaps f)

/-- A byte range. -/
def span (a n : Nat) : Int × Int := ((a : Int), (a : Int) + n - 1)

/-- The checks of a 64-byte access of an engine: address poison, alignment, reach and allotment (R48, R74,
R85). -/
def vecAccess (x : Ctx) (s : State) (e : Fin 256) (r : Right) (ga : BitVec 5) (off : BitVec 10) :
    Except Hold Nat := do
  let g := x.b.readG ga
  trapIf g.p (trPoisonReg ga.toNat false 1)
  let a := effAddr g.v (sext off * 64)
  trapIf (decide (a % 64 ≠ 0)) (trAlign a)
  trapIf (! accessOkV s e r a 64) (trAccess a)
  pure a

/-- `vld` (R84, R85). -/
def vecLoad (x : Ctx) (s : State) (e : Fin 256) (vd ga : BitVec 5) (pg : BitVec 3) (off : BitVec 10) : Res := do
  let a ← vecAccess x s e .rd ga off
  waitIf (loadWaits x.b (span a 64))
  x.lateIf (loadWaits (s.core x.c) (span a 64))
  let r := coreRead s x.c a 64
  let p := x.b.readP pg
  let new : VReg := forL (upFrom 0 64) (fun i v =>
    if p.getLsbD i then v.put 1 i (r.2.byte (a + i)).toNat (r.2.mark (a + i)) else v) ((r.1.core x.c).readV vd)
  pure (r.1.modCore x.c fun k => k.writeV vd new)

/-- `vst` (R84, R85). -/
def vecStore (x : Ctx) (s : State) (e : Fin 256) (vs ga : BitVec 5) (pg : BitVec 3) (off : BitVec 10) : Res := do
  let a ← vecAccess x s e .wr ga off
  waitIf (storeWaits x.b (span a 64))
  x.lateIf (storeWaits (s.core x.c) (span a 64))
  let v := x.b.readV vs
  let p := x.b.readP pg
  let lanes := (upFrom 0 64).filter fun i => p.getLsbD i
  let bs := lanes.map fun i => (a + i, BitVec.ofNat 8 (v.el 1 i))
  pure (coreWrite s x.c bs fun w => lanes.any fun i => decide ((a + i) / 8 = w) && v.psn 1 i)

end Sys2Proof.Machine
end

