-- ==== Sys2Proof/Machine/Verbs.lean ====
section
/-! DEFINITION. Verbs: the issue checks and waits every verb shares, token slots, completion, status words,
`waitv`, and the writing of a verb's output (R45, R47, R50, R58-R62, R86, R87, R96). -/

namespace Sys2Proof.Machine

/-! ## Issue -/

/-- What a verb names: noun indices in the order nd, na, nb, further entries, each with the right it needs. -/
abbrev VerbNouns := List (Nat × Right)

/-- The footprint passes the allotment that its noun names, and lies in a reach (R46, R47; assumption log 9). -/
def footAllowed (s : State) (reach : Region → Bool) (k : CoreSt) (r : Right) (allot : Nat) (f : Int × Int) : Bool :=
  footIn s reach f && allotGrants k allot r f.1.toNat (f.2 - f.1 + 1).toNat

/-- A footprint touches the control space (R511). -/
def inControl (f : Int × Int) : Bool := overlaps f (0x6000000000, 0x600FFFFFFF)

/-- Every noun is well formed (R43, R142), and none touches the control space (R511). -/
def nounForms (x : Ctx) (ns : VerbNouns) : Except Hold Unit := do
  ns.forM fun n => match nounBad (x.b.noun n.1) with
    | some r => throw (Hold.trap (trNoun n.1 false r))
    | none => pure ()
  ns.forM fun n =>
    let f := (nounOf (x.b.noun n.1)).foot
    trapIf (inControl f) (trAccess f.1.toNat)

/-- The footprint of a noun's elements is allowed. DESIGN CHOICE: EDETAIL[63:24] of a footprint whose lo lies below address
0 is 0 (R63 gives no value; assumption log 13). -/
def elemFoot (x : Ctx) (s : State) (reach : Region → Bool) (n : Nat × Right) : Except Hold Unit :=
  let q := nounOf (x.b.noun n.1)
  trapIf (! footAllowed s reach x.b n.2 q.allot q.foot) (trNounAccess n.1 false false q.foot.1.toNat)

/-- The footprint of a noun's scale array is allowed. -/
def scaleFoot (x : Ctx) (s : State) (reach : Region → Bool) (n : Nat × Right) : Except Hold Unit :=
  let q := nounOf (x.b.noun n.1)
  trapIf (decide (q.sfmt = 1) && ! footAllowed s reach x.b n.2 q.allot q.sfoot)
    (trNounAccess n.1 true false q.sfoot.1.toNat)

/-- The checks of a verb's nouns, in the order of R86. -/
def nounChecks (x : Ctx) (s : State) (e : Fin 256) (ns : VerbNouns) : Except Hold Unit := do
  let reach := engineReaches e.val false
  nounForms x ns
  ns.forM fun n => do
    elemFoot x s reach n
    scaleFoot x s reach n

/-- The checks of the nouns of `move` and `pref`, in the order of R98: their reach is the mover's. DESIGN CHOICE: a
footprint that an allotment covers passes here also in unmapped or absent HBM; `move` then answers NOUN reason 0x07 and
`pref` goes on (assumption log 14). -/
def moveChecks (x : Ctx) (s : State) (ns : VerbNouns) : Except Hold Unit := do
  nounForms x ns
  ns.forM (elemFoot x s fun _ => true)
  ns.forM (scaleFoot x s fun _ => true)

/-- The lowest free token slot (R58). -/
def freeSlot (k : CoreSt) : Option Nat := (upFrom 0 8).find? fun i => (k.slot i).isNone

/-- A verb waits: a source overlaps a destination, or a destination a footprint, of a verb in flight (R50,
R56). -/
def verbWaits (k : CoreSt) (v : Verb) : Bool :=
  let f := verbFeet v
  (f.src.any (loadWaits k)) || (f.dst.any (storeWaits k))

/-- The accumulator a verb names. -/
def verbAcc (v : Verb) : Option Nat :=
  match v.kind with
  | .mma _ a => some a
  | .cvtAcc a => some a
  | _ => none

/-- An accumulator named by a verb in flight waits (R60). -/
def accBusy (k : CoreSt) (a : Nat) : Bool := k.inFlight.any fun v => verbAcc v == some a

/-- The token of a slot and a sequence number (R59). -/
def tokenOf (slot seq : Nat) : Word := w64 (slot + seq % 2 ^ 24 * 2 ^ 8)

/-- The verb takes the lowest free slot; its token goes to g[gt] (R58, R59, R86). -/
def takeSlot (x : Ctx) (s : State) (gt : BitVec 5) (v : Verb) : Res :=
  match freeSlot (s.core x.c) with
  | none => raise (trToken 1 0)
  | some i =>
    .ok (s.modCore x.c fun k =>
      ({ k.setSlot i (some { v with seq := k.seq }) with seq := (k.seq + 1) % 2 ^ 24 }).writeG gt
        ⟨tokenOf i k.seq, false⟩)

/-- The control word has a bit set outside a mask. -/
def outside (mask : Word) (w : Word) : Bool := decide (w &&& ~~~mask ≠ 0)

/-- Issues a verb: the checks of R86 in order, with the verb's own NOUN reasons, accumulator tag and any
further trap, then the waits, then the slot. The wait for an accumulator comes before its tag is looked at, since an
earlier verb may still set it (R36, R60). `ctlBad` says that the control word holds a field or value the
verb does not define. -/
def issueVerb (x : Ctx) (s : State) (e : Fin 256) (gt : BitVec 5) (kind : VerbKind) (ctlBad : Word → Bool)
    (ns : VerbNouns) (own : Word → List Noun → List (Bool × Trap)) : Res := do
  let g := x.b.readG gt
  trapIf (decide (gt = 0)) trIllegal
  trapIf g.p (trPoisonReg gt.toNat false 8)
  trapIf (ctlBad g.v) (trNoun 0 true 0x01)
  nounChecks x s e ns
  let v : Verb := { kind := kind, seq := 0, ctl := g.v, nidx := ns.map Prod.fst,
                    nouns := ns.map fun n => x.b.noun n.1, fmode := x.b.special 0x008,
                    srseed := x.b.special 0x00A }
  match verbAcc v with
  | some a => waitIf (accBusy x.b a)
  | none => pure ()
  (own g.v (v.nouns.map nounOf)).forM fun t => trapIf t.1 t.2
  waitIf (verbWaits x.b v)
  takeSlot x s gt v

/-! ## Results -/

/-- What a verb that has run delivers: bytes for memory, accumulator elements, status, the first noun with
PSN 1 through which it read poison, the first poisoned word it met as an address, a statistics record, and
how many free values it used. -/
structure VerbOut where
  bulk    : Bulk := []
  acc     : List (Nat × Nat × Nat × AElem) := []
  tag     : Option (Nat × Bool) := none
  status  : Nat := 0
  flags   : Flags := 0
  pcount  : Nat := 0
  vdetail : Nat := 0
  psn     : Option Nat := none
  eaten   : Option Nat := none
  cvts    : Option (List Word) := none
  freed   : Nat := 0

/-- The status word (R61): POISONED when an output is poisoned or a PSN noun gave poison, and of several
codes the smallest. -/
def VerbOut.word (o : VerbOut) : Word :=
  let poisoned := decide (0 < o.pcount) || o.psn.isSome
  let st := if o.status = 0 then (if poisoned then 2 else 0)
    else if poisoned then min 2 o.status else o.status
  w64 (st + o.flags.toNat * 2 ^ 8 + min o.pcount (2 ^ 32 - 1) * 2 ^ 16 + min o.vdetail 0xFFFF * 2 ^ 48)

/-- The bytes that write elements of a noun, in order; nibbles are read, merged and written (R43). -/
def elemBulk (s : State) (n : Noun) (els : List (List Nat × Nat × Bool)) : Bulk :=
  if fmtBits n.fmt = 4 then
    (els.foldl (fun (b : Bulk) x =>
      let a := n.addrOf x.1
      let old := match b.find? fun y => y.1 == a with
        | some y => (y.2.1.toNat, y.2.2)
        | none => ((s.byte a).toNat, false)
      let new := if x.1.getD 0 0 % 2 = 0 then old.1 / 16 * 16 + x.2.1 % 16 else old.1 % 16 + x.2.1 % 16 * 16
      (a, BitVec.ofNat 8 new, x.2.2 || old.2) :: b) []).reverse
  else els.flatMap fun x =>
    (atAddr (n.addrOf x.1) (leBytes (fmtBytes n.fmt) x.2.1)).map fun y => (y.1, y.2, x.2.2)

/-- Writes a verb's output through the engine's paths (R158, R177, R198). -/
def engineBulk (s : State) (e : Nat) (b : Bulk) : State :=
  let b := b.final
  let m := b.marked
  engineWrite s e b.plain fun w => m.contains w

/-- Puts accumulator elements and their tag. -/
def putAccs (k : CoreSt) (l : List (Nat × Nat × Nat × AElem)) (tag : Option (Nat × Bool)) : CoreSt :=
  let k := forL l (fun x k => k.setAcc x.1 x.2.1 x.2.2.1 x.2.2.2) k
  match tag with
  | some (a, true) => { k with aInt := if k.aInt.contains a then k.aInt else a :: k.aInt }
  | some (a, false) => { k with aInt := k.aInt.filter (· ≠ a) }
  | none => k

/-- Delivers a verb's results and marks its slot complete; poison met as an address is consumed (R65, R445). -/
def finishVerb (s : State) (e : Nat) (slot : Nat) (v : Verb) (o : VerbOut) : State :=
  let s := match o.eaten with
    | some a => consumePoison s e 1 a
    | none => s
  let s := engineBulk { s with freeCtr := s.freeCtr + o.freed } e o.bulk
  let s := match o.cvts with
    | some ws => forL ((upFrom 0 8).zip ws) (fun p (s : State) => s.setReg .FE_CVTS (8 * e + p.1) p.2) s
    | none => s
  s.modCore (engine e) fun k => (putAccs k o.acc o.tag).setSlot slot
    (some { v with done := true, status := o.word, psn := o.psn })

/-- Sequence number a precedes b, modulo 2^24. -/
def seqBefore (a b : Nat) : Bool := decide (a ≠ b) && decide ((b + 2 ^ 24 - a) % 2 ^ 24 < 2 ^ 23)

/-- No verb of the given kinds that issued earlier is still in flight. -/
def isOldest (k : CoreSt) (v : Verb) (same : VerbKind → Bool) : Bool :=
  ! k.inFlight.any fun u => same u.kind && seqBefore u.seq v.seq

/-- The verb in flight in a slot, if it is of a kind and may complete now. -/
def readyVerb (s : State) (e slot : Nat) (kind : VerbKind → Bool) (inOrder : VerbKind → Bool) : Option Verb :=
  let k := s.core (engine e)
  match k.slot slot with
  | some v => if ! v.done && kind v.kind && isOldest k v inOrder then some v else none
  | none => none

/-- The verbs of the matrix unit, which completes them in issue order (R91, R244, R260). -/
def usesMatrix : VerbKind → Bool
  | .mma .. | .conv _ | .dwconv _ | .attn _ => true
  | _ => false

/-- The first noun with PSN 1 whose element was poisoned, in the order nd, na, nb: noun positions with
whether poison was read through them (R87). -/
def firstPsn (v : Verb) (read : List (Nat × Bool)) : Option Nat :=
  (read.find? fun r => r.2 && decide ((nounOf (v.nouns.getD r.1 [])).psn = 1)).map fun r => v.nidx.getD r.1 0

/-- A mismatch found by the matrix unit's checksum lane is a detection of class 5 (R421). -/
def laneMismatch (s : State) (e : Nat) (bad : Bool) : State := if bad then detect s 5 e else s

/-! ## `waitv` (R59, R87, R96) -/

/-- The slot a token names. -/
def tokenSlot (t : Word) : Nat := bitsOf t 2 0

/-- The token names a slot that holds the verb with its sequence number (R59). -/
def tokenOk (k : CoreSt) (t : Word) : Bool :=
  decide (bitsOf t 7 3 = 0) && decide (bitsOf t 63 32 = 0) &&
    match k.slot (tokenSlot t) with
    | some v => decide (v.seq = bitsOf t 31 8)
    | none => false

/-- `waitv` (R96): a token that matches no verb raises TOKEN reason 2; the clause waits for the verb; a
verb that read poison through a PSN noun raises POISON; otherwise the status word and the flags are
delivered and the slot is freed. -/
def waitvEff (x : Ctx) (s : State) (gd gk : BitVec 5) : Res := do
  let t := (x.b.readG gk).v
  trapIf (! tokenOk x.b t) (trToken 2 t)
  match x.b.slot (tokenSlot t) with
  | none => raise (trToken 2 t)
  | some v =>
    waitIf (! v.done)
    match v.psn with
    | some n => raise (trPoisonNoun n)
    | none => pure (s.modCore x.c fun k =>
        ((k.setSlot (tokenSlot t) none).writeG gd ⟨v.status, false⟩).orFlags (statusFlags v.status))

/-! ## Abort (R62) -/

/-- Discards the verbs in flight and frees every slot: of each one's output a free part has been written, the one line
being written at that moment, of a free one of them, is complete or poisoned, accumulators keep what has not been
written and their tags (DESIGN CHOICE: only a completed verb sets a tag; R62 names none; assumption log 19). `run` is what a verb would deliver. -/
def abortVerbs (run : State → Nat → Verb → VerbOut) (s : State) (e : Nat) : State :=
  let k := s.core (engine e)
  let w := s.free.toNat % max 1 k.inFlight.length
  let s := forL ((upFrom 0 k.inFlight.length).zip k.inFlight) (fun iv s =>
    let o := run s e iv.2
    let n := s.free.toNat % (o.acc.length + 1)
    let s := bulkCut s.useFree e o.bulk (iv.1 == w)
    s.modCore (engine e) fun k => putAccs k (o.acc.take n) none) s.useFree
  s.modCore (engine e) fun k => { k with slots := [] }

end Sys2Proof.Machine
end

