-- ==== Sys2Proof/Machine/Matrix.lean ====
section
/-! DEFINITION. Matrix multiply-accumulate, `norm`, `gath`, `scat` and accumulator access (R88-R95,
R130, R131). -/

namespace Sys2Proof.Machine

/-! ## The matrix unit's arithmetic (R90, R130, R131) -/

/-- A value on its way through the matrix unit with the flags raised so far. -/
abbrev MVal := FVal × Flags

/-- One level of the pairwise tree: sums of neighbours, each rounded to FP32. -/
def pairUp : List MVal → List MVal
  | a :: b :: r =>
    let x := mAdd a.1 b.1
    (x.1, a.2 ||| b.2 ||| x.2) :: pairUp r
  | l => l

/-- The pairwise sum of 32 products: 16 sums of neighbours, then 8, 4, 2, 1 (R90). -/
def pairSum (l : List MVal) : MVal :=
  ((pairUp (pairUp (pairUp (pairUp (pairUp l))))).head?).getD (.fin false 0 0, 0)

/-- An FP8 subnormal is read as zero of its sign by the matrix unit (R90, R130). -/
def mFlush (fmt : Nat) (v : FVal) : FVal :=
  match fmtFloat fmt with
  | some f =>
    if f.isFp8 then
      match v with
      | .fin s m e => if m < 2 ^ f.fbits then .fin s 0 e else .fin s m e
      | v => v
    else v
  | none => v

/-- An element as the matrix unit decodes it: unscaled, G4 as its table level (R90). -/
def matElem (s : State) (grid : Tab Nat) (n : Noun) (ix : List Nat) : FVal := mFlush n.fmt (decElem s grid n ix)

/-- A noun counts as scaled (R89). -/
def Noun.scaled (n : Noun) : Bool := decide (n.sfmt = 1) || n.tsen

/-- The format is INT8 or INT4. -/
def isNarrowInt (f : Nat) : Bool := f == 6 || f == 7

/-- The format is E4M3, E5M2 or G4. -/
def isNarrowFp (f : Nat) : Bool := f == 4 || f == 5 || f == 8

/-- The accumulate type of a format pair: `some true` INT32, `some false` FP32, `none` no such pair (R89). -/
def pairType (a b : Noun) : Option Bool :=
  if isNarrowInt a.fmt && isNarrowInt b.fmt then some (! (a.scaled || b.scaled))
  else if (isNarrowFp a.fmt && isNarrowFp b.fmt) || (a.fmt == 3 && b.fmt == 3) || (a.fmt == 2 && b.fmt == 2)
  then some false
  else none

/-- One block of 32 products added into a running FP32 sum: pairwise sum, block scale with the flags of its own
rounding, sum (R90, R130; assumption log 19). -/
def blockAdd (acc : MVal) (xs : List MVal) (scale : Option MVal) : MVal :=
  let q := pairSum xs
  let q := match scale with
    | some sc =>
      let y := mMul q.1 sc.1
      (y.1, q.2 ||| sc.2 ||| y.2)
    | none => q
  let r := mAdd acc.1 q.1
  (r.1, acc.2 ||| q.2 ||| r.2)

/-- The products of two rows of decoded elements. -/
def products (a b : List FVal) : List MVal := (a.zip b).map fun p => mMulExact p.1 p.2

/-- The rounded product of two effective scales, with its flags and those of the scales (R90, R131). -/
def scalePair (a b : MVal) : MVal :=
  let p := mMul a.1 b.1
  (p.1, a.2 ||| b.2 ||| p.2)

/-- The bits of an accumulator element as an FP32 value. -/
def accVal (x : AElem) : FVal := fDecode .f32 x.v.toNat

/-- The integer that a decoded INT8 or INT4 element holds. -/
def intElem (s : State) (n : Noun) (ix : List Nat) : Int := bitsInt (fmtBits n.fmt) true (elemRaw s n ix)

/-- Some element or scale of row r of a rank-2 noun from k0, len of them, is poisoned. -/
def rowPsn (s : State) (n : Noun) (k0 len r : Nat) : Bool :=
  (upFrom k0 len).any fun k => elemPsn s n [k, r] || scalePsn s n [k, r]

/-- K0 and the number of reduction elements (R88). -/
def mmaRange (ctl : Word) (a : Noun) : Nat × Nat :=
  let k0 := bitsOf ctl 23 0
  let kl := bitsOf ctl 47 24
  (k0, if kl = 0 then a.e 0 - k0 else kl)

/-- The result of an MMA (R90); `bad` is a mismatch of the checksum lane, which poisons the tile (R421). -/
def mmaRun (s : State) (e : Nat) (v : Verb) (set : Bool) (d : Nat) (bad : Bool) : VerbOut :=
  let k := s.core (engine e)
  let a := nounOf (v.nouns.getD 0 [])
  let b := nounOf (v.nouns.getD 1 [])
  let (k0, len) := mmaRange v.ctl a
  let isInt := (pairType a b).getD false
  let scaled := a.scaled || b.scaled
  let rows := upFrom 0 (a.e 1)
  let cols := upFrom 0 (b.e 1)
  let pa := rows.map fun i => rowPsn s a k0 len i
  let pb := cols.map fun j => rowPsn s b k0 len j
  let blocks := upFrom (k0 / 32) (len / 32)
  let ra := rows.map fun i => blocks.map fun x => (upFrom (32 * x) 32).map fun t => matElem s k.grid a [t, i]
  let rb := cols.map fun j => blocks.map fun x => (upFrom (32 * x) 32).map fun t => matElem s k.grid b [t, j]
  let ia := rows.map fun i => (upFrom k0 len).map fun t => intElem s a [t, i]
  let ib := cols.map fun j => (upFrom k0 len).map fun t => intElem s b [t, j]
  let old := fun i j => k.acc d i j
  let one := fun i j =>
    let o := old i j
    let p := pa.getD i false || pb.getD j false || (! set && o.p) || bad
    if isInt then
      let q := ((ia.getD i []).zip (ib.getD j [])).foldl (fun (x : Int) y => x + y.1 * y.2) 0
      (d, i, j, ({ v := (if set then 0 else o.v) + BitVec.ofInt 32 q, p := p } : AElem), (0 : Flags))
    else
      let init : MVal := (if set then .fin false 0 0 else accVal o, 0)
      let r := (blocks.zip ((ra.getD i []).zip (rb.getD j []))).foldl (fun (x : MVal) y =>
        blockAdd x (products y.2.1 y.2.2)
          (if scaled then some (scalePair (matScale s a [32 * y.1, i]) (matScale s b [32 * y.1, j])) else none)) init
      (d, i, j, ({ v := BitVec.ofNat 32 (mBits r.1), p := p } : AElem), r.2)
  let els := rows.flatMap fun i => cols.map fun j => one i j
  { acc := els.map fun x => (x.1, x.2.1, x.2.2.1, x.2.2.2.1)
    tag := if set then some (d, isInt) else none
    flags := allFlags (els.map fun x => x.2.2.2.2)
    pcount := (els.filter fun x => x.2.2.2.1.p).length
    psn := firstPsn v [(0, pa.any id), (1, pb.any id)] }

/-- The NOUN reasons of MMA, then its accumulator tag (R88, R89, R36). -/
def mmaChecks (k : CoreSt) (na nb : Nat) (set : Bool) (d : Nat) (ctl : Word) (ns : List Noun) :
    List (Bool × Trap) :=
  let a := ns.getD 0 (nounOf [])
  let b := ns.getD 1 (nounOf [])
  let t := fun n c => trNoun n c 0x02
  let k0 := bitsOf ctl 23 0
  let kl := bitsOf ctl 47 24
  [(decide (a.rank ≠ 2), t na false), (decide (b.rank ≠ 2), t nb false),
   (decide (32 < a.e 1), t na false), (decide (32 < b.e 1), t nb false),
   (decide (a.e 0 ≠ b.e 0), t na false), (decide (a.e 0 % 32 ≠ 0), t na false),
   (decide (a.sfmt = 1 ∧ a.sdim ≠ 0), t na false), (decide (b.sfmt = 1 ∧ b.sdim ≠ 0), t nb false),
   (decide (k0 % 32 ≠ 0 ∨ kl % 32 ≠ 0), t 0 true), (decide (a.e 0 < k0 + kl), t na true),
   ((pairType a b).isNone, trNoun na false 0x03),
   (! set && decide ((pairType a b).getD false ≠ k.aInt.contains d), trIllegal)]

/-- `mma` and `mma.set` (R86-R90). -/
def mmaIssue (x : Ctx) (s : State) (e : Fin 256) (set : Bool) (gt : BitVec 5) (acc : BitVec 3)
    (na nb : BitVec 6) : Res :=
  issueVerb x s e gt (.mma set acc.toNat) (outside (maskBits 47 0)) [(na.toNat, .rd), (nb.toNat, .rd)]
    (mmaChecks x.b na.toNat nb.toNat set acc.toNat)

/-! ## `norm` (R93) -/

/-- The mode of a verb that rounds per FMODE: CNAN concerns vector instructions only (R117, R119). -/
def verbMode (w : Word) : RMode := { RMode.ofWord w with cnan := false }

/-- Converts an element's exact value to FP32 under FMODE (R115, R119, R141). -/
def elemF32 (s : State) (grid : Tab Nat) (md : RMode) (n : Noun) (ix : List Nat) : Nat × Flags :=
  let v := elemValMd s grid md n ix
  let r := roundV .f32 md false v
  (r.1, r.2 ||| flagIf v.isSig flNV)

/-- One level of a pairwise FP32 sum; an odd element passes through. -/
def pairUp32 (md : RMode) : List (Nat × Flags) → List (Nat × Flags)
  | a :: b :: r =>
    let x := fAdd .f32 md a.1 b.1
    (x.1, a.2 ||| b.2 ||| x.2) :: pairUp32 md r
  | l => l

/-- The pairwise sum of a group of at most 16 (R93). -/
def groupSum (md : RMode) (l : List (Nat × Flags)) : Nat × Flags :=
  ((pairUp32 md (pairUp32 md (pairUp32 md (pairUp32 md l)))).head?).getD (0, 0)

/-- Sums pairwise within groups of 16, then over the groups in ascending order (R93). -/
def sum32 (md : RMode) (l : List (Nat × Flags)) : Nat × Flags :=
  match (pieces 16 l).map (groupSum md) with
  | [] => (0, 0)
  | g :: r => r.foldl (fun a b =>
      let x := fAdd .f32 md a.1 b.1
      (x.1, a.2 ||| b.2 ||| x.2)) g

/-- A binary FP32 operation on values with flags. -/
def op32 (f : Nat → Nat → Nat × Flags) (a b : Nat × Flags) : Nat × Flags :=
  let x := f a.1 b.1
  (x.1, a.2 ||| b.2 ||| x.2)

/-- The normalised values of one row of FP32 elements (R93). -/
def normRow (md : RMode) (rms : Bool) (eps : Nat) (xs gam bet : List (Nat × Flags)) : List (Nat × Flags) :=
  let n := fFromInt .f32 md xs.length
  let mu := if rms then (0, 0) else op32 (fDiv .f32 md) (sum32 md xs) n
  let ds := xs.map fun x => op32 (fSub .f32 md) x mu
  let var := op32 (fDiv .f32 md) (sum32 md (ds.map fun d => op32 (fMul .f32 md) d d)) n
  let ve := op32 (fAdd .f32 md) var (eps, 0)
  let sq := fSqrt .f32 md ve.1
  let r := op32 (fDiv .f32 md) (0x3F800000, 0) (sq.1, ve.2 ||| sq.2)
  (ds.zip (gam.zip bet)).map fun p =>
    let y := op32 (fMul .f32 md) (op32 (fMul .f32 md) p.1 r) p.2.1
    op32 (fAdd .f32 md) y (if rms then (0, 0) else p.2.2)

/-- The rows of a noun: the indices of its outer dimensions. -/
def outerIx (n : Noun) : List (List Nat) := indices (n.ext.drop 1)

/-- Converts FP32 bits into a destination noun's element (R121), saturating FP8 when SATM is set. -/
def putF32 (md : RMode) (d : Noun) (x : Nat) : Nat × Flags :=
  match fmtFloat d.fmt with
  | some f => if f = .f32 then (x, 0) else fCvt .f32 f md d.satm x
  | none => (0, 0)

/-- The result of `norm` (R93). -/
def normRun (s : State) (e : Nat) (v : Verb) (rms : Bool) : VerbOut :=
  let grid := (s.core (engine e)).grid
  let md := verbMode v.fmode
  let nd := nounOf (v.nouns.getD 0 [])
  let na := nounOf (v.nouns.getD 1 [])
  let nb := nounOf (v.nouns.getD 2 [])
  let n := na.e 0
  let cols := upFrom 0 n
  let gam := cols.map fun c => elemF32 s grid md nb [c, 0]
  let bet := cols.map fun c => elemF32 s grid md nb [c, 1]
  let psn := fun ix => elemPsn s nb ix || scalePsn s nb ix
  let pgb := cols.map fun c => psn [c, 0] || (! rms && psn [c, 1])
  let rows := (outerIx na).map fun o =>
    let xs := cols.map fun c => elemF32 s grid md na (c :: o)
    let p := cols.any fun c => elemPsn s na (c :: o) || scalePsn s na (c :: o)
    let ys := normRow md rms (bitsOf v.ctl 31 0) xs gam bet
    (p, (cols.zip (ys.zip pgb)).map fun z =>
      let y := putF32 md nd z.2.1.1
      ((z.1 :: o, y.1, p || z.2.2), z.2.1.2 ||| y.2))
  let els := rows.flatMap Prod.snd
  { bulk := elemBulk s nd (els.map Prod.fst)
    flags := allFlags (els.map Prod.snd)
    pcount := (els.filter fun x => x.1.2.2).length
    psn := firstPsn v [(1, rows.any Prod.fst), (2, pgb.any id)] }

/-- The format is a floating-point one. -/
def isFloatFmt (f : Nat) : Bool := decide (f ≤ 5)

/-- The checks of `norm` (R93). DESIGN CHOICE: nb must have a floating-point format too (assumption log 19). The spec gives no reason code for a shape or format it does not accept, so the code is
a free value r (assumption log 5). -/
def normChecks (r nd na nb : Nat) (ns : List Noun) : List (Bool × Trap) :=
  let d := ns.getD 0 (nounOf [])
  let a := ns.getD 1 (nounOf [])
  let b := ns.getD 2 (nounOf [])
  [(decide (d.ext ≠ a.ext) || ! (d.fmt == 1 || d.fmt == 2 || d.fmt == 3), trNoun nd false r),
   (! isFloatFmt a.fmt, trNoun na false r),
   (decide (b.ext ≠ [a.e 0, 2]) || ! isFloatFmt b.fmt, trNoun nb false r)]

/-- `norm` (R93). -/
def normIssue (x : Ctx) (s : State) (e : Fin 256) (rms : Bool) (gt : BitVec 5) (nd na nb : BitVec 6) : Res :=
  issueVerb x s e gt (.norm rms) (outside (maskBits 31 0)) [(nd.toNat, .wr), (na.toNat, .rd), (nb.toNat, .rd)]
    fun _ ns => normChecks (s.free.toNat % 256) nd.toNat na.toNat nb.toNat ns

/-! ## `gath` and `scat` (R94) -/

/-- The indices of one slice along the outermost dimension, at index k. -/
def sliceIx (n : Noun) (k : Nat) : List (List Nat) := (indices n.ext.dropLast).map fun t => t ++ [k]

/-- The byte range of a slice lies in the table noun's allotment and reach. -/
def sliceAllowed (s : State) (e : Fin 256) (r : Right) (n : Noun) (k : Nat) : Bool :=
  let m := { n with base := n.addrOf (List.replicate (n.rank - 1) 0 ++ [k]), ext := n.ext.dropLast ++ [1] }
  footAllowed s (engineReaches e.val false) (s.core (.eng e)) r n.allot m.foot

/-- Extent of the outermost dimension. -/
def Noun.outer (n : Noun) : Nat := n.ext.getLastD 1

/-- Slice k of the table may be used (R94). -/
def sliceOk (s : State) (e : Nat) (r : Right) (n : Noun) (k : Int) : Bool :=
  decide (0 ≤ k) && decide (k < n.outer) && sliceAllowed s (Fin.ofNat 256 e) r n k.toNat

/-- The word of the first poisoned index of a rank-1 noun: a value used as an address, whose slice is refused
(R94, R445). -/
def poisonedIx (s : State) (nb : Noun) : Option Nat :=
  ((upFrom 0 (nb.e 0)).find? fun i => elemPsn s nb [i]).map fun i => nb.addrOf [i] / 8 * 8

/-- The result of `gath` (R94). -/
def gathRun (s : State) (e : Nat) (v : Verb) : VerbOut :=
  let nd := nounOf (v.nouns.getD 0 [])
  let na := nounOf (v.nouns.getD 1 [])
  let nb := nounOf (v.nouns.getD 2 [])
  let one := fun i =>
    let k := intElem s nb [i]
    let pi := elemPsn s nb [i]
    let ok := ! pi && sliceOk s e .rd na k
    let els := if ok then
        ((sliceIx nd i).zip (sliceIx na k.toNat)).map fun p => (p.1, elemRaw s na p.2, elemPsn s na p.2)
      else (sliceIx nd i).map fun ix => (ix, 0, false)
    (ok, pi, els)
  let rs := (upFrom 0 (nb.e 0)).map one
  let els := rs.flatMap fun r => r.2.2
  let refused := (rs.filter fun r => ! r.1).length
  { bulk := elemBulk s nd els
    status := if refused = 0 then 0 else 1
    vdetail := refused
    pcount := (els.filter fun x => x.2.2).length
    eaten := poisonedIx s nb
    psn := firstPsn v [(1, rs.any fun r => r.1 && r.2.2.any fun x => x.2.2), (2, rs.any fun r => r.2.1)] }

/-- The sum of two elements of an add mode (R94): FP per FMODE, INT32 wrapping. -/
def addElem (md : RMode) (fmt x y : Nat) : Nat × Flags :=
  match fmtFloat fmt with
  | some f => fAdd f md x y
  | none => ((x + y) % 2 ^ 32, 0)

/-- An element under construction: index, bits, poison. -/
abbrev ElState := List Nat × Nat × Bool

/-- The current value of an element: the newest update, or memory. -/
def curElem (s : State) (n : Noun) (l : List ElState) (ix : List Nat) : Nat × Bool :=
  match l.find? fun x => x.1 == ix with
  | some x => x.2
  | none => (elemRaw s n ix, elemPsn s n ix)

/-- A permutation of a list picked by free values. -/
def shuffle (ctr : Nat) : Nat → List α → List α
  | 0, l => l
  | _ + 1, [] => []
  | n + 1, l =>
    let i := (Config.freeWord ctr).toNat % l.length
    match l[i]? with
    | some x => x :: shuffle (ctr + 1) n (l.eraseIdx i)
    | none => l

/-- The result of `scat` (R94). In mode 2 the order of the additions into each element is free. -/
def scatRun (s : State) (e : Nat) (v : Verb) (vm : Nat) : VerbOut :=
  let md := verbMode v.fmode
  let nd := nounOf (v.nouns.getD 0 [])
  let na := nounOf (v.nouns.getD 1 [])
  let nb := nounOf (v.nouns.getD 2 [])
  let is := (upFrom 0 (nb.e 0)).map fun i =>
    let k := intElem s nb [i]
    let p := elemPsn s nb [i]
    (i, k.toNat, p, ! p && sliceOk s e .wr nd k)
  let good := is.filter fun x => x.2.2.2
  let refused := is.length - good.length
  let low := indices nd.ext.dropLast
  let moves := if vm = 2 then
      ((upFrom 0 low.length).zip low).flatMap fun t =>
        (shuffle (s.freeCtr + t.1 * good.length) good.length good).map fun g => (g, t.2)
    else good.flatMap fun g => low.map fun t => (g, t)
  let r := moves.foldl (fun (acc : List ElState × Flags) m =>
    let g := m.1
    let dst := m.2 ++ [g.2.1]
    let src := m.2 ++ [g.1]
    let x := elemRaw s na src
    let p := elemPsn s na src
    if vm = 0 then ((dst, x, p) :: acc.1, acc.2)
    else
      let o := curElem s nd acc.1 dst
      let y := addElem md nd.fmt o.1 x
      ((dst, y.1, p || o.2) :: acc.1, acc.2 ||| y.2)) ([], 0)
  let els := r.1.reverse
  let final := els.filter fun x => decide (curElem s nd r.1 x.1 = x.2)
  { bulk := elemBulk s nd els
    status := if refused = 0 then 0 else 1
    flags := r.2
    vdetail := refused
    freed := if vm = 2 then low.length * good.length else 0
    eaten := poisonedIx s nb
    pcount := ((final.filter fun x => x.2.2).map fun x => x.1).eraseDups.length
    psn := firstPsn v [(0, vm != 0 && good.any fun g => low.any fun t => elemPsn s nd (t ++ [g.2.1])),
      (1, good.any fun g => low.any fun t => elemPsn s na (t ++ [g.1])), (2, is.any fun x => x.2.2.1)] }

/-- The shapes that `gath` and `scat` accept: the slices of `table` and `rows` agree, there is one row for
each index, the indices are a rank-1 INT32 noun (R94). DESIGN CHOICE: reason 0x04 stands for each of these, and the STRICT
trap of an atomic `scat` comes after the NOUN reasons (assumption log 19). -/
def sliceChecks (nd nRows nb : Nat) (table rows ix : Noun) : List (Bool × Trap) :=
  let bad := decide (table.fmt ≠ rows.fmt) || decide (table.ext.dropLast ≠ rows.ext.dropLast)
  [(bad, trNoun nd false 0x04),
   (decide (rows.outer ≠ ix.e 0), trNoun nRows false 0x04),
   (decide (ix.fmt ≠ 9) || decide (ix.rank ≠ 1), trNoun nb false 0x04)]

/-- `gath` (R94). -/
def gathIssue (x : Ctx) (s : State) (e : Fin 256) (gt : BitVec 5) (nd na nb : BitVec 6) : Res :=
  issueVerb x s e gt .gath (outside 0) [(nd.toNat, .wr), (na.toNat, .rd), (nb.toNat, .rd)] fun _ ns =>
    sliceChecks nd.toNat nd.toNat nb.toNat (ns.getD 1 (nounOf [])) (ns.getD 0 (nounOf [])) (ns.getD 2 (nounOf []))

/-- The checks of `scat` with its mode, 0 store, 1 add, 2 atomic add, which strict mode forbids (R94). -/
def scatChecks (strict : Bool) (vm nd na nb : Nat) (ns : List Noun) : List (Bool × Trap) :=
  let d := ns.getD 0 (nounOf [])
  (sliceChecks nd na nb d (ns.getD 1 (nounOf [])) (ns.getD 2 (nounOf []))) ++
    [(decide (vm ≠ 0) && ! (d.fmt == 1 || d.fmt == 2 || d.fmt == 3 || d.fmt == 9), trNoun nd false 0x05),
     (decide (vm = 2) && strict, trStrict)]

/-- `scat` (R94). -/
def scatIssue (x : Ctx) (s : State) (e : Fin 256) (vm : Nat) (gt : BitVec 5) (nd na nb : BitVec 6) : Res :=
  issueVerb x s e gt (.scat vm) (outside 0) [(nd.toNat, .wr), (na.toNat, .rd), (nb.toNat, .rd)] fun _ ns =>
    scatChecks (strictFor s x.c) vm nd.toNat na.toNat nb.toNat ns

/-! ## Accumulator access (R95) -/

/-- Row and half of an `arv` or `awv` (R95). -/
def accRow (x : Ctx) (gr : BitVec 5) : Except Hold (Nat × Nat) := do
  let g := x.b.readG gr
  trapIf g.p (trPoisonReg gr.toNat false 8)
  trapIf (decide (bitsOf g.v 63 6 ≠ 0)) trIllegal
  pure (bitsOf g.v 4 0, bitsOf g.v 5 5)

/-- `arv` (R95). -/
def arvEff (x : Ctx) (s : State) (vd : BitVec 5) (acc : BitVec 3) (gr : BitVec 5) : Res := do
  let (r, h) ← accRow x gr
  waitIf (accBusy x.b acc.toNat)
  let v := forL (upFrom 0 16) (fun j v =>
    let a := x.b.acc acc.toNat r (16 * h + j)
    v.put 4 j a.v.toNat a.p) ({} : VReg)
  pure (s.modCore x.c fun k => k.writeV vd v)

/-- `awv` (R95). -/
def awvEff (x : Ctx) (s : State) (acc : BitVec 3) (vs gr : BitVec 5) : Res := do
  let (r, h) ← accRow x gr
  waitIf (accBusy x.b acc.toNat)
  let v := x.b.readV vs
  pure (s.modCore x.c fun k => forL (upFrom 0 16) (fun j k =>
    k.setAcc acc.toNat r (16 * h + j) ⟨BitVec.ofNat 32 (v.el 4 j), v.psn 4 j⟩) k)

/-- `azro` (R95). -/
def azroEff (x : Ctx) (s : State) (acc : BitVec 3) (t : Bool) : Res := do
  waitIf (accBusy x.b acc.toNat)
  let a := acc.toNat
  pure (s.modCore x.c fun k => putAccs { k with a := tclear (1024 * a) (1024 * a + 1023) k.a } [] (some (a, t)))

end Sys2Proof.Machine
end

