-- ==== Sys2Proof/Machine/Convert.lean ====
section
/-! DEFINITION. The `cvt` verb: quantisation, computed scales, stochastic rounding and conversion
statistics (R143-R156). -/

namespace Sys2Proof.Machine

/-- The result of quantising one value: encoding, flags, saturated (R146-R148). -/
structure Quant where
  bits : Nat
  fl   : Flags := 0
  sat  : Bool := false

/-! ## Quantisation to nearest (R121, R122, R146-R148) -/

/-- Quantises into a floating-point format. -/
def quantF (f : FFmt) (md : RMode) (satm : Bool) (v : FVal) : Quant :=
  let r := roundV f md satm v
  { bits := r.1
    fl := r.2 ||| flagIf v.isSig flNV
    sat := decide (r.2 &&& flOF ≠ 0) || (v.isInf && f.isFp8 && satm) }

/-- Quantises into a signed integer of w bits. -/
def quantI (w : Nat) (rm : Nat) (v : FVal) : Quant :=
  match v with
  | .nan .. => { bits := 0, fl := flNV }
  | .inf s => { bits := intBits w (if s then intMin w true else intMax w true), fl := flNV, sat := true }
  | .fin s m e =>
    let r := rndAt rm s m e 0 false
    let i : Int := if s then -(r.1 : Int) else r.1
    if i < intMin w true then { bits := intBits w (intMin w true), fl := flNV, sat := true }
    else if intMax w true < i then { bits := intBits w (intMax w true), fl := flNV, sat := true }
    else { bits := intBits w i, fl := flagIf r.2 flNX }

/-- The magnitude of a value. -/
def fMag : FVal → FVal
  | .fin _ m e => .fin false m e
  | .inf _ => .inf false
  | v => v

/-- a < b for values that are not NaN. -/
def fLt (a b : FVal) : Bool := decide (fOrd a b = .lt)

/-- The exact difference of two values that are not NaN; infinite where it has none. -/
def fDiff (a b : FVal) : FVal := (exAdd false a b.neg).getD (.inf false)

/-- The levels of a grid table that are not NaN, with their codes. -/
def levelsOf (grid : Tab Nat) (g : Nat) : List (Nat × FVal) :=
  ((upFrom 0 16).map fun c => (c, decRaw grid 8 g c)).filter fun l => ! l.2.isNaN

/-- The first of a list that no other beats. -/
def bestBy (less : α → α → Bool) : List α → Option α
  | [] => none
  | x :: r => some (r.foldl (fun b y => if less y b then y else b) x)

/-- Quantises into a G4 code: nearest level, ties to smaller magnitude, then lower code (R147). A table
with no level but NaN leaves the code open: `fr` is a free code. -/
def quantG (grid : Tab Nat) (g fr : Nat) (v : FVal) : Quant :=
  let ls := levelsOf grid g
  let pick := fun (less : Nat × FVal → Nat × FVal → Bool) => ((bestBy less ls).map Prod.fst).getD fr
  let small := fun (a b : Nat × FVal) => fLt (fMag a.2) (fMag b.2)
  let hi := bestBy (fun a b => fLt b.2 a.2) ls
  let lo := bestBy (fun a b => fLt a.2 b.2) ls
  let beyond := (hi.any fun h => fLt h.2 v) || (lo.any fun l => fLt v l.2)
  match v with
  | .nan .. => { bits := pick small, fl := flNV }
  | .inf s =>
    { bits := ((if s then lo else hi).map Prod.fst).getD fr, fl := flOF ||| flNX, sat := beyond }
  | r =>
    let d := fun (l : Nat × FVal) => fMag (fDiff r l.2)
    let near := fun (a b : Nat × FVal) => fLt (d a) (d b) || (decide (fOrd (d a) (d b) = .eq) && small a b)
    let c := pick near
    let lv := decRaw grid 8 g c
    { bits := c
      fl := flagIf (decide (fOrd lv r ≠ .eq)) flNX
      sat := beyond }

/-! ## Stochastic rounding (R150) -/

/-- The final z of an element under a seed. -/
def seededZ (seed : Word) (i : Nat) : Word :=
  let z := seed ^^^ (w64 i * 0x9E3779B97F4A7C15)
  let z := (z ^^^ (z >>> 30)) * 0xBF58476D1CE4E5B9
  let z := (z ^^^ (z >>> 27)) * 0x94D049BB133111EB
  z ^^^ (z >>> 31)

/-- The 24-bit value of an element under a seed. -/
def seededU (seed : Word) (i : Nat) : Nat := bitsOf (seededZ seed i) 63 40

/-- floor(a / b × 2^24) for finite a and b > 0. -/
def ratio24 (a b : FVal) : Nat :=
  match a, b with
  | .fin _ m₁ e₁, .fin _ m₂ e₂ =>
    let k := e₁ - e₂ + 24
    if m₂ = 0 then 0 else if 0 ≤ k then (m₁ <<< k.toNat) / m₂ else m₁ / (m₂ <<< (-k).toNat)
  | _, _ => 0

/-- The upper neighbour is chosen. -/
def takesHi (u : Nat) (lo r hi : FVal) : Bool := decide (u < ratio24 (fDiff r lo) (fDiff hi lo))

/-- Stochastic quantisation; `near` is the result with RND = 0, taken when r is representable, beyond the
range, infinite or NaN. -/
def quantStoch (grid : Tab Nat) (fmt g u : Nat) (r : FVal) (near : Quant) : Quant :=
  match r with
  | .fin s m e =>
    match fmtFloat fmt with
    | some f =>
      let lo := (roundFin f 3 false s m e false)
      let hi := (roundFin f 2 false s m e false)
      if decide (lo.1 = hi.1) || (fDecode f lo.1).isInf || (fDecode f hi.1).isInf ||
          (fDecode f hi.1).isNaN || (fDecode f lo.1).isNaN then near
      else
        let c := if takesHi u (fDecode f lo.1) r (fDecode f hi.1) then hi.1 else lo.1
        let tiny := decide (c / 2 ^ f.fbits % 2 ^ f.ebits = 0)
        { bits := c, fl := flNX ||| flagIf tiny flUF }
    | none =>
      if fmt = 8 then
        let ls := levelsOf grid g
        let below := bestBy (fun (a b : Nat × FVal) => fLt b.2 a.2) (ls.filter fun l => fLt l.2 r)
        let above := bestBy (fun (a b : Nat × FVal) => fLt a.2 b.2) (ls.filter fun l => fLt r l.2)
        match below, above with
        | some l, some h =>
          if ls.any fun x => decide (fOrd x.2 r = .eq) then near
          else if takesHi u l.2 r h.2 then { bits := h.1, fl := flNX } else { bits := l.1, fl := flNX }
        | _, _ => near
      else
        let w := fmtBits fmt
        let fl := rndAt 3 s m e 0 false
        let lo : Int := if s then -(fl.1 : Int) else fl.1
        if ! fl.2 || decide (lo < intMin w true) || decide (intMax w true < lo + 1) then near
        else if takesHi u (fInt lo) r (fInt (lo + 1)) then { bits := intBits w (lo + 1), fl := flNX }
        else { bits := intBits w lo, fl := flNX }
  | _ => near

/-! ## Computed scales (R149) -/

/-- The largest finite magnitude a destination format's code has before scaling. -/
def lMax (grid : Tab Nat) (n : Noun) : FVal :=
  match n.fmt with
  | 7 => fInt 7
  | 6 => fInt 127
  | 8 => ((bestBy (fun (a b : FVal) => fLt b a)
      (((levelsOf grid n.grid).map fun l => fMag l.2).filter fun v => ! v.isInf))).getD (.fin false 0 0)
  | f =>
    match fmtFloat f with
    | some f => fDecode f f.maxBits
    | none => fOne

/-- The block scale of a block (R149): absmax × CLIP / 256 ÷ (Lmax × T), rounded toward +∞. A quotient the
spec leaves open, by a NaN T or a zero divisor and dividend, is the free value `fr`. -/
def blockScale (absmax : Option FVal) (clip : Nat) (lmax t : FVal) (fr : Nat) : Nat :=
  match absmax, lmax, t with
  | none, _, _ => 0x3C00
  | some (.fin _ 0 _), _, _ => 0x3C00
  | some (.fin _ am ae), .fin _ lm le, .fin ts tm te =>
    if lm * tm = 0 then 0x7BFF
    else if ts then 0x0001
    else
      let n := (am * clip) <<< 128
      let d := lm * tm
      let r := (roundFin .f16 2 false false (n / d) (ae - 8 - le - te - 128) (decide (n % d ≠ 0))).1
      if 0x7C00 ≤ r then 0x7BFF else if r = 0 then 0x0001 else r
  | _, _, .inf _ => 0x0001
  | _, _, _ => fr % 2 ^ 16

/-! ## The verb (R146, R152-R156) -/

/-- One source element: its value and whether it is poisoned, itself or by its scale. -/
structure CvtSrc where
  x : FVal
  p : Bool

/-- The source elements in index order of nd. -/
def cvtSources (s : State) (e : Nat) (v : Verb) (nd : Noun) : List (List Nat × CvtSrc) :=
  let k := s.core (engine e)
  let md := verbMode v.fmode
  let md := if bitsOf v.ctl 1 0 = 0 then md else { md with ftz := false }
  match v.kind with
  | .cvtAcc a => (indices nd.ext).map fun ix =>
      let y := k.acc a (ix.getD 1 0) (ix.getD 0 0)
      (ix, ⟨if k.aInt.contains a then fInt y.v.toInt else ftzOperand .f32 md (accVal y), y.p⟩)
  | _ =>
    let na := nounOf (v.nouns.getD 1 [])
    (indices nd.ext).map fun ix => (ix, ⟨elemValMd s k.grid md na ix, elemPsn s na ix || scalePsn s na ix⟩)

/-- Index of an element's block in the scale array of nd. -/
def blockIx (n : Noun) (ix : List Nat) : Nat := (n.scaleAddr ix - n.sbase) / 2

/-- The largest magnitude of a block's finite, unpoisoned elements. -/
def blockMax (l : List CvtSrc) : Option FVal :=
  bestBy (fun (a b : FVal) => fLt b a)
    ((l.filter fun c => ! c.p && ! c.x.isNaN && ! c.x.isInf).map fun c => fMag c.x)

/-- FP64 bits of an exact value. -/
def bits64 (v : FVal) : Nat := (roundV .f64 rne false v).1

/-- One converted element: encoding, poison, flags, saturation, x, its error when the result is finite, and
whether the result is. -/
structure CvtEl where
  ix  : List Nat
  p   : Bool
  q   : Quant
  x   : FVal
  err : Option Nat
  fin : Bool

/-- Converts one element (R146): `se` is the destination's effective scale, `lin` its linear index. -/
def cvtElem (s : State) (e : Nat) (v : Verb) (nd : Noun) (lin : Nat) (se : FVal) (pd : Bool)
    (a : List Nat × CvtSrc) : CvtEl :=
  let grid := (s.core (engine e)).grid
  let md := verbMode v.fmode
  let rnd := bitsOf v.ctl 1 0
  let x := a.2.x
  let one := ! se.isNaN && decide (fOrd se fOne = .eq)
  let r := if one then x else fDecode .f64 (fDiv .f64 rne (bits64 x) (bits64 se)).1
  let near := match fmtFloat nd.fmt with
    | some f => quantF f md nd.satm r
    | none => if nd.fmt = 8 then quantG grid nd.grid (s.free.toNat % 16) r else quantI (fmtBits nd.fmt) md.rm r
  let u := if rnd = 1 then seededU v.srseed (bitsOf v.ctl 63 48 * 65536 + lin)
    else (Config.freeWord (s.freeCtr + 1 + lin)).toNat % 2 ^ 24
  let q := if rnd = 0 then near else quantStoch grid nd.fmt nd.grid u r near
  let qv := decRaw grid nd.fmt nd.grid q.bits
  let qx := if one then qv else exProd qv se
  let fin := ! qx.isNaN && ! qx.isInf
  let err := if ! fin || x.isNaN || x.isInf then none
    else some (fSub .f64 rne (bits64 x) (bits64 qx)).1
  ⟨a.1, a.2.p || pd, q, x, err, fin⟩

/-- A sum in groups of 16 consecutive elements, pairwise within a group, then in ascending order, in FP64
(R156). -/
def sum64 (l : List Nat) : Nat :=
  let pair := fun (l : List Nat) => (pieces 2 l).map fun p =>
    match p with
    | [a, b] => (fAdd .f64 rne a b).1
    | p => p.getD 0 0
  match (pieces 16 l).map fun g => (pair (pair (pair (pair g)))).getD 0 0 with
  | [] => 0
  | g :: r => r.foldl (fun a b => (fAdd .f64 rne a b).1) g

/-- The square of an FP64 number. -/
def sq64 (x : Nat) : Nat := (fMul .f64 rne x x).1

/-- The largest of FP64 magnitudes. -/
def max64 (l : List Nat) : Nat := l.foldl (fun a b => (fMinMax true .f64 rne a (b % 2 ^ 63)).1) 0

/-- The statistics of a conversion, as the eight words of a record (R155, R156). -/
def cvtStats (els : List CvtEl) : List Word :=
  let fin := fun (c : CvtEl) => ! c.p && ! c.x.isNaN && ! c.x.isInf
  let err := fun (c : CvtEl) => if fin c then c.err else none
  let xs := els.map fun c => if fin c then bits64 c.x else 0
  let es := els.map fun c => (err c).getD 0
  let cnt := fun (p : CvtEl → Bool) => (els.filter p).length
  let nonf := cnt fun c => ! c.p && (c.x.isNaN || c.x.isInf)
  [w64 (sum64 (es.map sq64)), w64 (sum64 (xs.map sq64)), w64 (cnt fun c => (err c).isSome),
   w64 (max64 es), w64 (max64 xs), w64 (cnt fun c => ! c.p && (c.q.sat || (fin c && ! c.fin))),
   w64 (min nonf (2 ^ 32 - 1) + min (cnt fun c => c.p) (2 ^ 32 - 1) * 2 ^ 32), 1]

/-- Combines an existing record with a new one, field by field (R155). -/
def combineStats (old new : List Word) : List Word :=
  let o := fun i => (old.getD i 0).toNat
  let n := fun i => (new.getD i 0).toNat
  let add := fun i => w64 (fAdd .f64 rne (o i) (n i)).1
  let big := fun i => w64 (fMinMax true .f64 rne (o i) (n i)).1
  let cnt := fun i => w64 (min (o i + n i) (2 ^ 64 - 1))
  let half := fun i sh => min (o i / 2 ^ sh % 2 ^ 32 + n i / 2 ^ sh % 2 ^ 32) (2 ^ 32 - 1)
  [add 0, add 1, cnt 2, big 3, big 4, cnt 5, w64 (half 6 0 + half 6 32 * 2 ^ 32), w64 (half 7 0)]

/-- Address of the statistics record (R144). -/
def recordAddr (ctl : Word) : Nat := bitsOf ctl 39 6 * 64

/-- The result of `cvt` (R146-R156). -/
def cvtRun (s : State) (e : Nat) (v : Verb) : VerbOut :=
  let grid := (s.core (engine e)).grid
  let nd := nounOf (v.nouns.getD 0 [])
  let srcs := cvtSources s e v nd
  let t := if nd.tsen then fDecode .f32 nd.tscale else fOne
  let scm := decide (bitsOf v.ctl 3 2 = 1)
  let clip := if bitsOf v.ctl 47 40 = 0 then 256 else bitsOf v.ctl 47 40
  let lmax := lMax grid nd
  let scales := if scm then
      (upFrom 0 (nd.count / 32)).map fun b =>
        blockScale (blockMax ((srcs.filter fun x => blockIx nd x.1 == b).map Prod.snd)) clip lmax t s.free.toNat
    else []
  let seOf := fun ix =>
    if scm then
      let b := fDecode .f16 (scales.getD (blockIx nd ix) 0)
      if nd.tsen then (roundScale b t).1 else b
    else effScale s nd ix
  let els := ((upFrom 0 srcs.length).zip srcs).map fun x =>
    cvtElem s e v nd x.1 (seOf x.2.1) (! scm && scalePsn s nd x.2.1) x.2
  let scaleBulk : Bulk := ((upFrom 0 scales.length).zip scales).flatMap fun x =>
    (atAddr (nd.sbase + 2 * x.1) (leBytes 2 x.2)).map fun y => (y.1, y.2, false)
  let stats := v.ctl.getLsbD 4
  let ra := recordAddr v.ctl
  let sacc := v.ctl.getLsbD 5
  let rec_ := if sacc then combineStats (s.words ra 8) (cvtStats els) else cvtStats els
  let recBulk : Bulk := if stats then
      ((upFrom 0 8).zip rec_).flatMap fun x =>
        (atAddr (ra + 8 * x.1) (leBytes 8 x.2.toNat)).map fun y => (y.1, y.2, sacc && s.mark (ra + 8 * x.1))
    else []
  let nsat := (els.filter fun c => c.q.sat).length
  { bulk := scaleBulk ++ elemBulk s nd (els.map fun c => (c.ix, c.q.bits, c.p)) ++ recBulk
    status := if nsat = 0 then 0 else 4
    flags := allFlags (els.map fun c => c.q.fl)
    vdetail := nsat
    pcount := (els.filter fun c => c.p).length
    cvts := if stats then some rec_ else none
    freed := if bitsOf v.ctl 1 0 = 2 then els.length + 1 else 1
    psn := firstPsn v [(0, ! scm && srcs.any fun x => scalePsn s nd x.1), (1, srcs.any fun x => x.2.p)] }

/-- A reserved value of the control word (R144). -/
def cvtCtlBad (w : Word) : Bool := decide (bitsOf w 1 0 = 3) || decide (1 < bitsOf w 3 2)

/-- Equal BASE, element width and strides: a conversion in place (R143). -/
def inPlace (a b : Noun) : Bool := a.base == b.base && fmtBits a.fmt == fmtBits b.fmt && a.stride == b.stride

/-- The record check of R145, then the NOUN reasons of `cvt` (R143), then STRICT (R151). -/
def cvtChecks (x : Ctx) (s : State) (e : Fin 256) (nd : Nat) (acc : Bool) (ctl : Word) (ns : List Noun) :
    List (Bool × Trap) :=
  let d := ns.getD 0 (nounOf [])
  let a := ns.getD 1 (nounOf [])
  let ra := recordAddr ctl
  let rok := fun r => footAllowed s (engineReaches e.val false) x.b r d.allot (span ra 64)
  let stats := ctl.getLsbD 4
  let shape := if acc then decide (d.rank ≠ 2) || decide (32 < d.e 0) || decide (32 < d.e 1)
    else decide (d.ext ≠ a.ext)
  let scm := decide (bitsOf ctl 3 2 = 1)
  let feet := overlaps d.foot a.foot
  [(stats && (! rok .wr || (ctl.getLsbD 5 && ! rok .rd)), trNounAccess nd false true ra),
   (shape, trNoun nd false 0x08),
   (scm && decide (d.sfmt ≠ 1), trNoun nd true 0x0A),
   (! scm && decide (bitsOf ctl 47 40 ≠ 0), trNoun 0 true 0x0A),
   (! stats && decide (bitsOf ctl 39 6 ≠ 0), trNoun 0 true 0x0B),
   (! acc && feet && ! inPlace d a, trNoun nd false 0x0C),
   (decide (bitsOf ctl 1 0 = 2) && strictFor s x.c, trStrict)]

/-- `cvt` from a noun (R143-R145). -/
def cvtIssue (x : Ctx) (s : State) (e : Fin 256) (gt : BitVec 5) (nd na : BitVec 6) : Res :=
  issueVerb x s e gt .cvt cvtCtlBad [(nd.toNat, .wr), (na.toNat, .rd)] (cvtChecks x s e nd.toNat false)

/-- `cvt` from an accumulator (R92, R143). -/
def cvtAccIssue (x : Ctx) (s : State) (e : Fin 256) (gt : BitVec 5) (nd : BitVec 6) (acc : BitVec 3) : Res :=
  issueVerb x s e gt (.cvtAcc acc.toNat) cvtCtlBad [(nd.toNat, .wr)] (cvtChecks x s e nd.toNat true)

end Sys2Proof.Machine
end

