-- ==== Sys2Proof/Machine/Transc.lean ====
section
/-! DEFINITION. The fixed routines that the spec bounds by 1 ulp of an exact value: exp and ln of the score unit
(R241) and the sine of the injector (R348). The exact value is enclosed in fixed point; which of the two
neighbouring results the routine gives is left open. -/

namespace Sys2Proof.Machine

/-- Fraction bits of the fixed-point numbers below. -/
def fxBits : Nat := 320

/-- A fixed-point product. -/
def fxMul (a b : Int) : Int := (a * b) / 2 ^ fxBits

/-- Σ t^k / k! from a number k on, given the term before it, a number of terms. -/
def expSeries (t : Int) : Nat → Nat → Int → Int
  | 0, _, _ => 0
  | n + 1, k, term =>
    let x := fxMul term t / k
    x + expSeries t n (k + 1) x

/-- e^(m × 2^e) for a magnitude up to 104, in fixed point: a 256th of the argument, then eight squarings. -/
def expFix (s : Bool) (m : Nat) (e : Int) : Int :=
  let sh : Int := fxBits - 8 + e
  let mag : Int := if 0 ≤ sh then (m <<< sh.toNat : Nat) else (m >>> (-sh).toNat : Nat)
  let t := if s then -mag else mag
  let x := 2 ^ fxBits + expSeries t 64 1 (2 ^ fxBits)
  (List.range 8).foldl (fun v _ => fxMul v v) x

/-- Σ z^(2i+1) / (2i+1), given z², the next power and its number, with alternating signs when `alt`. -/
def oddSeries (alt : Bool) (zz : Int) : Nat → Nat → Int → Int
  | 0, _, _ => 0
  | n + 1, k, p =>
    let rest := oddSeries alt zz n (k + 2) (fxMul p zz)
    p / k + if alt then -rest else rest

/-- ln of the ratio (1 + z) / (1 - z). -/
def lnRatio (z : Int) : Int := 2 * oddSeries false (fxMul z z) 120 1 z

/-- ln of m × 2^e for m > 0, in fixed point. -/
def lnFix (m : Nat) (e : Int) : Int :=
  let k := m.log2
  let z := ((m - 2 ^ k) * 2 ^ fxBits) / (m + 2 ^ k)
  lnRatio z + (e + k) * lnRatio (2 ^ fxBits / 3)

/-- The arc tangent of 1 / n. -/
def atanInv (n : Nat) : Int :=
  let z : Int := 2 ^ fxBits / n
  oddSeries true (fxMul z z) 150 1 z

/-- π. -/
def piFix : Int := 16 * atanInv 5 - 4 * atanInv 239

/-- Σ of the terms of sine or cosine, each from the one before. -/
def circSeries (tt : Int) : Nat → Nat → Int → Int
  | 0, _, _ => 0
  | n + 1, k, term => term - circSeries tt n (k + 2) (fxMul term tt / (k * (k + 1)))

/-- The magnitude of sin(2π × p / 2^32) for a p in the first half turn, in fixed point. -/
def sinFix (p : Nat) : Int :=
  let q : Nat := p % 2 ^ 31
  let r : Nat := if q < 2 ^ 30 then q else 2 ^ 31 - q
  let t := piFix * r / 2 ^ 31
  circSeries (fxMul t t) 60 2 t

/-- A positive fixed-point number truncated to FP32: an encoding below it whose next one lies above. -/
def below32 (x : Int) : Nat := (roundFin .f32 1 false false x.toNat (-fxBits) true).1

/-- exp of the score unit on FP32 bits (R241): the two encodings around the exact value lie within 1 ulp of it, and the
routine gives one of them. Where the exact value exceeds the format, and for a NaN, the result is free. -/
def expBits (x : Nat) : Nat :=
  let free := Config.expRoutine (BitVec.ofNat 32 x)
  match fDecode .f32 x with
  | .fin s m e =>
    if m = 0 then 0x3F800000
    else
      let v := FVal.fin s m e
      if fOrd v (.fin true 104 0) = .lt then 0
      else if fOrd (.fin false 88 0) v = .lt then free.toNat
      else below32 (expFix s m e) + (free.getLsbD 0).toNat
  | .inf true => 0
  | _ => free.toNat

/-- ln of the score unit on FP32 bits (R241): one of the two encodings around the exact value. Of a zero, a negative
number, an infinity or a NaN the result is free. -/
def lnBits (x : Nat) : Nat :=
  let free := Config.lnRoutine (BitVec.ofNat 32 x)
  if x = 0x3F800000 then 0
  else match fDecode .f32 x with
  | .fin false m e =>
    if m = 0 then free.toNat
    else
      let v := lnFix m e
      FFmt.f32.signBits (decide (v < 0)) + below32 v.natAbs + (free.getLsbD 0).toNat
  | _ => free.toNat

end Sys2Proof.Machine
end

