-- ==== Sys2Proof/Machine/Attention.lean ====
section
/-! DEFINITION. Attention over paged keys and values: pages, page tables, sequence records, the page walker,
`attn` and `smax` (R223-R253). -/

namespace Sys2Proof.Machine

/-! ## Pages (R223-R225) -/

/-- A page header's fields, with the page's own address and the one where it is read, in place or in its frame. -/
structure Page where
  home : Nat
  addr : Nat
  fmt  : Nat
  sb   : Bool
  grid : Nat
  ntok : Nat
  psc  : Nat
  pos0 : Nat
  d    : Nat
  ok   : Bool

/-- Reads the header of page `home` at an address; `ok` says that no reserved field is set. -/
def pageIn (s : State) (home a : Nat) : Page :=
  let w0 := s.word a
  let w1 := s.word (a + 8)
  let w2 := s.word (a + 16)
  { home := home, addr := a, fmt := bitsOf w0 3 0, sb := w0.getLsbD 4, grid := bitsOf w0 7 5, ntok := bitsOf w0 24 16,
    psc := bitsOf w0 63 32, pos0 := bitsOf w1 31 0, d := bitsOf w2 8 0,
    ok := decide (bitsOf w0 15 8 = 0) && decide (bitsOf w0 31 25 = 0) && decide (bitsOf w1 63 32 = 0) &&
      decide (bitsOf w2 63 9 = 0) && (s.words (a + 24) 13).all fun w => decide (w = 0) }

/-- A page read in place. -/
def pageAt (s : State) (a : Nat) : Page := pageIn s a a

/-- Bytes of a row (R224). -/
def Page.rowBytes (p : Page) : Nat := p.d * fmtBits p.fmt / 8

/-- Bytes of a page (R224). -/
def Page.size (p : Page) : Nat := 128 + 256 * p.rowBytes + if p.sb then 16 * p.d else 0

/-- A page's rows as a noun: PSCALE takes the place of TSCALE with TSEN 1 (R224). -/
def Page.noun (p : Page) : Noun :=
  { base := p.addr + 128, fmt := p.fmt, rank := 2, allot := 0, psn := 0, satm := false, grid := p.grid,
    ext := [p.d, 256], stride := [0, p.rowBytes], sbase := p.addr + 128 + 256 * p.rowBytes,
    sfmt := if p.sb then 1 else 0, sdim := 0, tscale := p.psc, tsen := true }

/-- The page formats the score unit decodes: FP16, BF16, E4M3, E5M2, INT8, INT4, G4 (R225). -/
def pageFormat (f : Nat) : Bool := decide (2 ≤ f) && decide (f ≤ 8)

/-- The footprint lies in the Cistern's program range, or in HBM (R225). -/
def pagePlaced (s : State) (a n : Nat) : Bool :=
  (decide (cisternBase ≤ a) && decide (a + n ≤ runtimeBase)) || s.within .hbm a n

/-! ## Tables and records (R226-R229) -/

def slotAddr (k : Nat) : Nat := 0x403F300000 + 0x1000 * k

/-- A sequence record, decoded (R228). -/
structure SeqRec where
  slot   : Nat
  len    : Nat
  np     : Nat
  headp  : Nat
  ring   : Bool
  evo    : Bool
  shrunk : Bool
  w      : Nat

def SeqRec.ofWords (l : List Nat) : SeqRec :=
  let w2 := l.getD 2 0
  { slot := l.getD 0 0, len := l.getD 1 0, np := w2 % 256, headp := w2 / 256 % 256, ring := w2.testBit 16,
    evo := w2.testBit 17, shrunk := w2.testBit 18, w := l.getD 3 0 }

def SeqRec.words (r : SeqRec) : List Nat :=
  [r.slot, r.len % 2 ^ 32, r.np + r.headp * 256 + (if r.ring then 2 ^ 16 else 0) + (if r.evo then 2 ^ 17 else 0) +
    (if r.shrunk then 2 ^ 18 else 0), r.w, 0, 0, 0, 0]

/-- Pages of a full ring: ceil(W / 256) + 1. -/
def SeqRec.cap (r : SeqRec) : Nat := (r.w + 255) / 256 + 1

/-- The record is refused (R229). -/
def recRefused (l : List Nat) : Bool :=
  let r := SeqRec.ofWords l
  decide (2047 < r.slot) || decide (l.getD 2 0 / 2 ^ 19 ≠ 0) || decide (2 ^ 24 ≤ r.w) ||
    ((l.drop 4).any fun x => x != 0) || decide (252 < r.np) || (decide (0 < r.np) && decide (r.np ≤ r.headp)) ||
    (r.ring && decide (r.cap < r.np))

/-- The position row 0 of the k-th page from the oldest is expected to hold (R229; assumption log 17). -/
def SeqRec.pos0 (r : SeqRec) (k : Nat) : Nat :=
  if r.ring then (r.len - 1) / 256 * 256 + 256 * k - 256 * (r.np - 1)
  else 256 * k

/-- Entry index of the k-th page from the oldest. -/
def SeqRec.entry (r : SeqRec) (k : Nat) : Nat := (r.headp + k) % max 1 r.np

/-! ## The shape of an `attn` verb (R234, R235) -/

/-- The nouns and dimensions of a verb. -/
structure AttnShape where
  nd : Noun
  na : Noun
  nb : Noun
  st : Noun
  nk : Noun
  nv : Noun
  sg : Noun
  kp : Noun
  d   : Nat
  r   : Nat
  hq  : Nat
  hkv : Nat
  b   : Nat
  causal : Bool
  app    : Bool
  keep   : Bool
  khn    : Nat
  kh0    : Nat
  sscale : Nat

/-- 1/√D rounded to FP32, to nearest even, for the accepted D. -/
def rsqrtD (d : Nat) : Nat :=
  if d = 32 then 0x3E3504F3 else if d = 64 then 0x3E000000 else if d = 128 then 0x3DB504F3 else 0x3D800000

def attnShape (ctl : Word) (ns : List Noun) : AttnShape :=
  let n := fun i => ns.getD i (nounOf [])
  let app := ctl.getLsbD 1
  let k := if app then 6 else 4
  let na := n 1
  { nd := n 0, na := na, nb := n 2, st := n 3, nk := n 4, nv := n 5, sg := n k, kp := n (k + 1)
    d := na.e 0, r := na.e 1, hq := na.e 2, hkv := (n 2).e 1, b := (n 2).e 2
    causal := ctl.getLsbD 0, app := app, keep := ctl.getLsbD 2, khn := bitsOf ctl 6 3, kh0 := bitsOf ctl 12 7
    sscale := if bitsOf ctl 63 32 = 0 then rsqrtD (na.e 0) else bitsOf ctl 63 32 }

def AttnShape.g (a : AttnShape) : Nat := a.hq / max 1 a.hkv

/-- KV head and batch index of sequence q. -/
def AttnShape.head (a : AttnShape) (q : Nat) : Nat := q % max 1 a.hkv
def AttnShape.batch (a : AttnShape) (q : Nat) : Nat := q / max 1 a.hkv

/-- Query heads of sequence q. -/
def AttnShape.heads (a : AttnShape) (q : Nat) : List Nat := upFrom (a.head q * a.g) a.g

/-! ## Work in progress -/

/-- What a verb sends out: its engine's writes, a copy that a quadrant mover makes for the walker, or the refusal
of one (R167, R233). -/
inductive AttnOut where
  | engine (b : Bulk)
  | copy (m : MoverId) (d : MvDesc) (b : Bulk)
  | refused (m : MoverId) (d : MvDesc) (reason : Nat)

/-- The bytes written. -/
def AttnOut.bulk : AttnOut → Bulk
  | .engine b | .copy _ _ b => b
  | .refused .. => []

/-- Work of a verb in progress: a scratch state in which its writes are performed, what it sends out in order,
the details of events, what has been found. -/
structure AtSt where
  s   : State
  out : List AttnOut := []
  evs : List Nat := []
  acc : AttnAcc := {}

/-- Performs a bulk write in the scratch state. -/
def AtSt.perform (a : AtSt) (b : Bulk) : AtSt :=
  let b := b.final
  let m := b.marked
  { a with s := a.s.write b.plain fun w => m.contains w }

/-- A write of the verb's engine. -/
def AtSt.put (a : AtSt) (b : Bulk) : AtSt := { a.perform b with out := a.out ++ [.engine b] }

/-- Notes a status code. -/
def AtSt.code (a : AtSt) (c : Nat) : AtSt :=
  { a with acc := { a.acc with codes := if a.acc.codes.contains c then a.acc.codes else c :: a.acc.codes } }

/-- Counts one more refused or skipped page or record. -/
def AtSt.count (a : AtSt) : AtSt := { a with acc := { a.acc with vdetail := a.acc.vdetail + 1 } }

def AtSt.flag (a : AtSt) (f : Flags) : AtSt := { a with acc := { a.acc with flags := a.acc.flags ||| f } }

/-- Poison was read through the noun at a position. -/
def AtSt.read (a : AtSt) (pos : Nat) (p : Bool) : AtSt :=
  if p then { a with acc := { a.acc with reads := if a.acc.reads.contains pos then a.acc.reads else pos :: a.acc.reads } }
  else a

/-! ## The walker (R230-R233) -/

/-- What the walker finds at an entry: the page pair, none, or a poisoned word (R231, R445). -/
inductive Looked where
  | pair (ka va : Nat)
  | none
  | poison (addr : Nat)

/-- Looks an entry up: the buffer, then the table; counts the hit or miss (R231). -/
def lookEntry (s : State) (cl slot gen idx : Nat) : State × Looked :=
  let buf := tget (fun _ => []) s.walkers cl
  let put := fun (s : State) (e : PwEntry) (rest : List PwEntry) =>
    { s with walkers := tput (fun _ => []) s.walkers cl ((e :: rest).take 32) }
  match buf.find? fun e => e.slot == slot && e.gen == gen && e.idx == idx with
  | some e => (put (s.satAdd CST_PW_STAT.HITS cl 1) e (buf.filter fun x => x != e), .pair e.ka e.va)
  | none =>
    let s := s.satAdd CST_PW_STAT.MISSES cl 1
    let a := slotAddr slot + 0x40 + 0x10 * idx
    let w0 := s.word a
    let w1 := s.word (a + 8)
    match s.firstPoison a 16 with
    | some w => (s, .poison w)
    | none =>
      if w0.getLsbD 63 then
        let e : PwEntry := ⟨slot, gen, idx, bitsOf w0 39 0, bitsOf w1 39 0⟩
        (put s e buf, .pair e.ka e.va)
      else (s, .none)

/-- Why a page cannot be used: refused (R232), skipped for its format (R225) or for its position (R242). -/
inductive PageFault where
  | refused | format | stale
deriving DecidableEq, Repr

/-- The page-list noun's allotment covers a range with the right (R232). -/
def listAllows (s : State) (e : Fin 256) (nb : Noun) (r : Right) (a n : Nat) : Bool :=
  allotGrants (s.core (.eng e)) nb.allot r a n

/-- The checks of a page that the walker reaches, apart from its position (R225, R232). -/
def pageUse (s : State) (e : Fin 256) (nb : Noun) (d : Nat) (append : Bool) (a : Nat) : Option PageFault :=
  if ! listAllows s e nb .rd a 128 then some .refused
  else
    let p := pageAt s a
    if ! pageFormat p.fmt || ! p.ok || decide (p.d ≠ d) || ! pagePlaced s a p.size || decide (a % 128 ≠ 0) then some .format
    else if ! listAllows s e nb .rd a p.size || (append && ! listAllows s e nb .wr a p.size) then some .refused
    else none

/-- The checks of a page when the walker reaches it. -/
def pageCheck (s : State) (e : Fin 256) (nb : Noun) (d pos : Nat) (append : Bool) (a : Nat) : Option PageFault :=
  (pageUse s e nb d append a).orElse fun _ => if (pageAt s a).pos0 ≠ pos then some .stale else none

/-- A page pair of a sequence as found in one run: its expected first position, its pages when usable, whether one was
refused or skipped, whether poison stands in a header or in the scales (R243). -/
structure PagePair where
  pos   : Nat
  pages : Option (Page × Page)
  bad   : Bool
  psn   : Bool

/-- Notes a page fault once per sequence. -/
def noteFault (a : AtSt) (q : AttnSeq) (addr : Nat) (f : PageFault) : AtSt × AttnSeq :=
  if q.bad.contains addr then (a, q)
  else ((a.code (match f with
      | .refused => 1
      | .format => 6
      | .stale => 7)).count, { q with bad := addr :: q.bad })

/-- Notes that a poisoned word stood where a page address or header is read: the page is refused (R445). -/
def notePoison (a : AtSt) (q : AttnSeq) (page word : Nat) : AtSt × AttnSeq :=
  noteFault { a with acc := { a.acc with eaten := a.acc.eaten.orElse fun _ => some word } } q page .refused

/-- The frame that holds a page of a sequence. -/
def AtSt.frame (a : AtSt) (q : AttnSeq) (home : Nat) : Option Nat :=
  (a.acc.frames.find? fun f => f.seq == q.idx && f.page == home).map AttnFrame.at_

/-- A page as the walker reads it: in place in the Cistern, in its frame from HBM; a page whose frame the ring has used
again is read at home (R233; assumption log 21). -/
def AtSt.pageOf (a : AtSt) (q : AttnSeq) (home : Nat) : Page := pageIn a.s home ((a.frame q home).getD home)

/-- The quadrant mover of a staging frame (R233). -/
def frameMover (frame : Nat) : MoverId := .ring (Fin.ofNat 12 (quadOf frame))

/-- The walker's copy of n bytes by the mover of a frame, refused where the mover refuses the descriptor (R167, R168,
R233). -/
def AtSt.copy (a : AtSt) (e : Fin 256) (frame src dst n : Nat) : AtSt × Bool :=
  let m := frameMover frame
  let unit := 0x100 + e.val / 16
  let d := buildDesc (.unit unit 0) false 0 (engineQ a.s e.val) unit 0 (flatNoun src n) (flatNoun dst n)
  match descReason a.s m (decide (moverState a.s m = 0)) d with
  | some r => ({ a with out := a.out ++ [.refused m d r] }, false)
  | none =>
    let b := copyBulk a.s d []
    ({ a.perform b with out := a.out ++ [.copy m d b] }, true)

/-- Takes the next place of the staging ring where a page fits wholly, at a 128-byte-aligned offset (R233). -/
def newFrame (sh : AttnShape) (a : AtSt) (q : AttnSeq) (home size : Nat) : AtSt × Nat :=
  let base := sh.sg.foot.1.toNat
  let start := (base + a.acc.ring + 127) / 128 * 128 - base
  let off := if start + size ≤ sh.sg.bytesOf then start else (base + 127) / 128 * 128 - base
  let f : AttnFrame := ⟨q.idx, home, base + off, size⟩
  let keep := a.acc.frames.filter fun g =>
    (decide (g.at_ + g.size ≤ f.at_) || decide (f.at_ + f.size ≤ g.at_)) && ! (g.seq == q.idx && g.page == home)
  ({ a with acc := { a.acc with ring := off + size, frames := f :: keep } }, base + off)

/-- Stages a page in HBM once per sequence, and again only where rows are appended to one whose frame is gone; answers
whether the page can be read (R233; assumption log 21). -/
def stagePage (sh : AttnShape) (e : Fin 256) (append : Bool) (a : AtSt) (q : AttnSeq) (home : Nat) : AtSt × AttnSeq × Bool :=
  if a.s.region home ≠ .hbm ∨ (a.frame q home).isSome ∨ (q.staged.contains home ∧ ! append) then (a, q, true)
  else
    let size := (pageAt a.s home).size
    let f := newFrame sh a q home size
    let c := f.1.copy e f.2 home f.2 size
    if c.2 then (c.1, { q with staged := home :: q.staged }, true)
    else ({ c.1 with acc := { c.1.acc with frames := c.1.acc.frames.drop 1 } }, q, false)

/-- Poison in the scales of a page. -/
def Page.scalesPsn (s : State) (p : Page) : Bool := p.sb && s.poisoned p.noun.sbase (16 * p.d)

/-- Checks and stages one page of a pair; answers whether it can be used and whether its header is poisoned. -/
def findPage (sh : AttnShape) (e : Fin 256) (pos : Nat) (append : Bool) (a : AtSt) (q : AttnSeq) (home : Nat) :
    AtSt × AttnSeq × Bool × Bool :=
  let psn := if listAllows a.s e sh.nb .rd home 128 then a.s.firstPoison home 128 else none
  match psn with
  | some w =>
    let n := notePoison a q home w
    (n.1, n.2, false, true)
  | none =>
    if q.bad.contains home then (a, q, false, false)
    else match pageCheck a.s e sh.nb sh.d pos append home with
    | some f =>
      let n := noteFault a q home f
      (n.1, n.2, false, false)
    | none =>
      let g := stagePage sh e append a q home
      if g.2.2 then (g.1, g.2.1, true, false)
      else
        let n := noteFault g.1 g.2.1 home .refused
        (n.1, n.2, false, false)

/-- Finds the k-th page pair of a sequence: looked up, checked, staged. -/
def findPair (sh : AttnShape) (e : Fin 256) (a : AtSt) (q : AttnSeq) (r : SeqRec) (gen k : Nat) (append : Bool) :
    AtSt × AttnSeq × PagePair :=
  let l := lookEntry a.s (e.val / 16) r.slot gen (r.entry k)
  let a := { a with s := l.1 }
  let pos := r.pos0 k
  match l.2 with
  | .none => (a, q, ⟨pos, none, false, false⟩)
  | .poison w =>
    let n := notePoison a q w w
    (n.1, n.2, ⟨pos, none, true, true⟩)
  | .pair ka va =>
    let x := findPage sh e pos append a q ka
    let y := findPage sh e pos append x.1 x.2.1 va
    let a := y.1
    let q := y.2.1
    if x.2.2.1 && y.2.2.1 then
      let pk := a.pageOf q ka
      let pv := a.pageOf q va
      (a, q, ⟨pos, some (pk, pv), false, pk.scalesPsn a.s || pv.scalesPsn a.s⟩)
    else (a, q, ⟨pos, none, true, x.2.2.2 || y.2.2.2⟩)

/-! ## Scores (R238, R241) -/

def negInf : FVal := .inf true

/-- A rounded FP32 difference of values that are not NaN, RNE. -/
def subBits (a b : FVal) : Nat := mBits (mAdd a b.neg).1

/-- One key row's score for a query row (R238). -/
def scoreRow (s : State) (grid : Tab Nat) (qs : List FVal) (pk : Page) (t sscale : Nat) : MVal :=
  let n := pk.noun
  let blocks := (upFrom 0 (pk.d / 32)).map fun c =>
    (matScale s n [32 * c, t], products ((qs.drop (32 * c)).take 32) ((upFrom (32 * c) 32).map fun i => matElem s grid n [i, t]))
  let sum := blocks.foldl (fun (x : MVal) b => blockAdd x b.2 (some b.1)) (.fin false 0 0, 0)
  let r := mMul (fDecode .f32 sscale) sum.1
  (r.1, sum.2 ||| r.2)

/-- Running values of a row: m, l, o, positions attended, mixed, poison of pages, flags, invalid. -/
structure RowSt where
  m    : FVal := negInf
  l    : FVal := .fin false 0 0
  o    : List FVal
  n    : Nat := 0
  mixed : Bool := false
  psn  : Bool := false
  fl   : Flags := 0
  bad  : Bool := false

/-- The pairwise sum of at most 32 FP32 values, zeros in place of missing ones. -/
def psum (l : List FVal) : FVal := (pairSum ((upFrom 0 32).map fun i => (l.getD i (.fin false 0 0), 0))).1

/-- The position is attended, where its page is present (R238). -/
def attends (causal ring : Bool) (w : Nat) (q : Int) (p : Nat) : Bool :=
  (! causal || decide ((p : Int) ≤ q)) && (! ring || decide (q - w < p))

/-- The scores of a block's 32 rows: `none` where the position is not attended. The positions of a sequence are those
below LEN (R228). -/
def blockScores (s : State) (grid : Tab Nat) (sh : AttnShape) (r : SeqRec) (q : Int) (qs : List FVal) (pr : PagePair)
    (pk : Page) (blk : Nat) : List (Option MVal) :=
  (upFrom (32 * blk) 32).map fun t =>
    let p := pr.pos + t
    if decide (p < r.len) && attends sh.causal r.ring r.w q p then
      some (scoreRow s grid qs pk t sh.sscale)
    else none

/-- Rounds a probability to the query's companion format: FP16 for FP16 queries, BF16 otherwise. -/
def roundP (qfmt : Nat) (x : Nat) : FVal :=
  let f := if qfmt = 2 then FFmt.f16 else FFmt.bf16
  fDecode f (fCvt .f32 f rne false x).1

/-- Folds one key block into a row (R238, R240, R243). -/
def foldBlock (s : State) (grid : Tab Nat) (sh : AttnShape) (pk pv : Page) (pagePsn : Bool) (blk : Nat)
    (sc : List (Option MVal)) (x : RowSt) : RowSt :=
  let vals := sc.filterMap id
  let hit := ! vals.isEmpty
  let bad := vals.any fun v => v.1.isNaN || decide (v.1 = .inf false)
  let mb := vals.foldl (fun m v => if fLt m v.1 then v.1 else m) x.m
  let c := fDecode .f32 (if decide (mb = negInf) then 0x3F800000 else if decide (x.m = negInf) then 0 else expBits (subBits x.m mb))
  let e := sc.map fun v => match v with
    | some v => if decide (v.1 = negInf) then 0 else expBits (subBits v.1 mb)
    | none => 0
  let l := (mAdd (mMulExact x.l c).1 (psum (e.map (fDecode .f32)))).1
  let vn := pv.noun
  let pe := e.map (roundP sh.na.fmt)
  let rows := (upFrom 0 32).zip (sc.zip pe)
  let o := ((upFrom 0 sh.d).zip x.o).map fun z =>
    let terms := rows.map fun y =>
      mMulExact y.2.2 (mMul (matElem s grid vn [z.1, 32 * blk + y.1]) (matScale s vn [z.1, 32 * blk + y.1]).1).1
    (mAdd (mMulExact z.2 c).1 (pairSum terms).1).1
  let rowPsn := rows.any fun y => y.2.1.isSome &&
    ((upFrom 0 sh.d).any fun i => elemPsn s pk.noun [i, 32 * blk + y.1] || elemPsn s vn [i, 32 * blk + y.1])
  { m := mb, l := l, o := o, n := x.n + vals.length
    mixed := x.mixed || (hit && (pk.fmt != sh.na.fmt || pv.fmt != sh.na.fmt))
    psn := x.psn || (hit && pagePsn) || rowPsn
    fl := x.fl ||| (allFlags (vals.map Prod.snd) &&& flOF)
    bad := x.bad || bad }

/-- Blocks of a page that hold positions of the sequence. -/
def pageBlocks (r : SeqRec) (pr : PagePair) : List Nat := upFrom 0 ((min 256 (r.len - pr.pos) + 31) / 32)

/-- Folds every block of every usable page into a row, oldest page first. -/
def foldPages (s : State) (grid : Tab Nat) (sh : AttnShape) (r : SeqRec) (q : Int) (qs : List FVal) (prs : List PagePair) :
    RowSt :=
  prs.foldl (fun x pr => match pr.pages with
    | none => x
    | some (pk, pv) => (pageBlocks r pr).foldl (fun x blk =>
        foldBlock s grid sh pk pv pr.psn blk (blockScores s grid sh r q qs pr pk blk) x) x) { o := List.replicate sh.d (.fin false 0 0) }

/-- A page pair that would hold an attended position passes a test. -/
def wouldAttend (sh : AttnShape) (r : SeqRec) (q : Int) (test : PagePair → Bool) (prs : List PagePair) : Bool :=
  prs.any fun pr => test pr && (upFrom pr.pos 256).any fun p => decide (p < r.len) && attends sh.causal r.ring r.w q p

/-- A page that would hold an attended position was refused or skipped (R245). -/
def skipped (sh : AttnShape) (r : SeqRec) (q : Int) (prs : List PagePair) : Bool := wouldAttend sh r q (·.bad) prs

/-! ## Rows -/

/-- Canonical FP32 NaN. -/
def nan32 : Nat := 0x7FC00000

/-- The bytes of a row-statistics record (R245). -/
def statBulk (sh : AttnShape) (j hq b m lse nkeys bits : Nat) (p : Bool) : Bulk :=
  elemBulk State.reset sh.st [([0, j, hq, b], m, p), ([1, j, hq, b], lse, p), ([2, j, hq, b], nkeys, p),
    ([3, j, hq, b], bits, p)]

/-- FP32 bits into an element of a float noun, RNE. -/
def outElem (n : Noun) (x : Nat) : Nat := (putF32 rne n x).1

/-- Writes a row's outputs. -/
def putRow (a : AtSt) (n : Noun) (j hq b : Nat) (xs : List Nat) (p : Bool) : AtSt :=
  a.put (elemBulk a.s n (((upFrom 0 xs.length).zip xs).map fun x => ([x.1, j, hq, b], outElem n x.2, p)))

/-- A row that is not computed: outputs 0, M = LSE = -∞, with the given bits (R242, R245, R248). -/
def emptyRow (sh : AttnShape) (recompute : Bool) (a : AtSt) (j hq b bits : Nat) (p : Bool) : AtSt :=
  let a := putRow a sh.nd j hq b (List.replicate (sh.nd.e 0) 0) p
  if recompute then a else a.put (statBulk sh j hq b 0xFF800000 0xFF800000 0 (bits + if p then 16 else 0) p)

/-- The query row as the matrix unit reads it, and whether it is poisoned. -/
def queryRow (s : State) (grid : Tab Nat) (sh : AttnShape) (j hq b : Nat) : List FVal × Bool :=
  ((upFrom 0 sh.d).map fun i => matElem s grid sh.na [i, j, hq, b],
   (upFrom 0 sh.d).any fun i => elemPsn s sh.na [i, j, hq, b])

/-- Probabilities of a row at the positions in range (R249, R250): every position p from LEN - K_e to
LEN - 1; an attended position below that range is not written. -/
def probRow (s : State) (grid : Tab Nat) (sh : AttnShape) (r : SeqRec) (q : Int) (qs : List FVal) (prs : List PagePair)
    (ke lse : Nat) : List Nat × Bool :=
  let cells := prs.flatMap fun pr => match pr.pages with
    | none => []
    | some (pk, _) => (pageBlocks r pr).flatMap fun blk =>
        ((upFrom (32 * blk) 32).zip (blockScores s grid sh r q qs pr pk blk)).filterMap fun c =>
          c.2.map fun v => (pr.pos + c.1, v.1)
  let prob := fun (v : FVal) =>
    let x := mAdd v (fDecode .f32 lse).neg
    if x.1.isNaN then nan32 else if decide (x.1 = negInf) then 0 else expBits (mBits x.1)
  ((upFrom 0 ke).map fun k =>
      match cells.find? fun c => decide (c.1 + ke = r.len + k) with
      | some c => prob c.2
      | none => 0,
   cells.any fun c => decide (c.1 + ke < r.len))

/-- The bits of word 1 of a row's statistics (R245). -/
def statBits (mixed shrunk skip psn : Bool) : Nat :=
  (if mixed then 1 else 0) + (if shrunk then 2 else 0) + (if skip then 8 else 0) + (if psn then 16 else 0)

/-- Adds poisoned elements to the count. -/
def AtSt.poison (a : AtSt) (n : Nat) (p : Bool) : AtSt :=
  if p then { a with acc := { a.acc with pcount := a.acc.pcount + n } } else a

/-- Scores one row and writes its outputs, statistics and kept probabilities (R238, R243, R249, R250). -/
def scoreOne (sh : AttnShape) (e : Nat) (rc bad : Bool) (r : SeqRec) (q : AttnSeq) (prs : List PagePair) (recPsn : Bool)
    (b : Nat) (a : AtSt) (jh : Nat × Nat) : AtSt :=
  let j := jh.1
  let hq := jh.2
  let grid := (a.s.core (engine e)).grid
  let pos : Int := if sh.app then (q.len0 : Int) + j else (q.len0 : Int) - sh.r + j
  let (qs, qp) := queryRow a.s grid sh j hq b
  let x := foldPages a.s grid sh r pos qs prs
  let pages := x.psn || wouldAttend sh r pos (fun pr => pr.bad && pr.psn) prs
  let p := qp || pages || recPsn || bad
  let a := ((a.read 1 qp).read 2 (pages || recPsn)).flag (if x.bad then x.fl ||| flNV else x.fl)
  if rc then
    let lsePsn := elemPsn a.s sh.st [1, j, hq, b]
    let pr := probRow a.s grid sh r pos qs prs (sh.nd.e 0) (elemRaw a.s sh.st [1, j, hq, b])
    let a := putRow a sh.nd j hq b pr.1 (p || lsePsn)
    let a := (a.read 3 lsePsn).poison (sh.nd.e 0) (p || lsePsn)
    if pr.2 then a.code 1 else a
  else
    let lz := x.l.isZero
    let lb := mBits x.l
    let outs := if x.bad then List.replicate sh.d nan32
      else x.o.map fun o => if lz then 0 else (fDiv .f32 rne (mBits o) lb).1
    let m := if x.bad then nan32 else mBits x.m
    let lse := if x.bad then nan32 else if lz then 0xFF800000
      else mBits (mAdd x.m (fDecode .f32 (lnBits lb))).1
    let a := (putRow a sh.nd j hq b outs p).poison sh.d p
    let bits := statBits x.mixed r.shrunk (skipped sh r pos prs) p
    let a := a.put (statBulk sh j hq b m lse x.n bits p)
    if sh.keep && decide (sh.kh0 ≤ hq) && decide (hq < sh.kh0 + sh.khn) then
      let pr := probRow a.s grid sh r pos qs prs (sh.kp.e 0) lse
      let a := (putRow a sh.kp j (hq - sh.kh0) b pr.1 p).poison (sh.kp.e 0) p
      if pr.2 then a.code 1 else a
    else a

/-! ## Appends (R239, R246) -/

/-- Clean bytes of a number. -/
def plainBulk (addr n v : Nat) : Bulk := (atAddr addr (leBytes n v)).map fun y => (y.1, y.2, false)

/-- Copies n changed bytes of a staged page back to HBM; a page in the Cistern was changed in place (R233). -/
def copyBack (e : Fin 256) (a : AtSt) (p : Page) (off n : Nat) : AtSt :=
  if p.home = p.addr ∨ n = 0 then a else (a.copy e p.addr (p.addr + off) (p.home + off) n).1

/-- Converts a new row into a page's format and writes row t, its block scales first, and counts it in NTOK
(R146, R149, R239). -/
def appendRow (grid : Tab Nat) (src : Noun) (ix : List Nat) (t : Nat) (a : AtSt) (p : Page) : AtSt :=
  let n := p.noun
  let xs : List CvtSrc := (upFrom 0 p.d).map fun i => ⟨elemVal a.s grid src (i :: ix), elemPsn a.s src (i :: ix)⟩
  let tv := fDecode .f32 p.psc
  let scales := if p.sb then (pieces 32 xs).map fun b => blockScale (blockMax b) 256 (lMax grid n) tv a.s.free.toNat else []
  let a := forL ((upFrom 0 scales.length).zip scales) (fun x a => a.put (plainBulk (n.scaleAddr [32 * x.1, t]) 2 x.2)) a
  let els := ((upFrom 0 p.d).zip xs).map fun x =>
    let se := if p.sb then (roundScale (fDecode .f16 (scales.getD (x.1 / 32) 0)) tv).1 else tv
    let r := if ! se.isNaN && decide (fOrd se fOne = .eq) then x.2.x
      else fDecode .f64 (fDiv .f64 rne (bits64 x.2.x) (bits64 se)).1
    let q := match fmtFloat n.fmt with
      | some f => quantF f rne false r
      | none => if n.fmt = 8 then quantG grid n.grid (a.s.free.toNat % 16) r else quantI (fmtBits n.fmt) 0 r
    ([x.1, t], q.bits, x.2.p)
  let a := a.put (elemBulk a.s n els)
  a.put (plainBulk (p.addr + 2) 2 ((pageIn a.s p.home p.addr).ntok + 1))

/-- Appends n rows of a sequence from row j on to a page from row t on, and copies back rows, scales and header
(R233, R239). -/
def appendRows (e : Fin 256) (grid : Tab Nat) (src : Noun) (j h b t n : Nat) (a : AtSt) (p : Page) : AtSt :=
  let a := forL (upFrom 0 n) (fun i a => appendRow grid src [j + i, h, b] (t + i) a p) a
  let a := copyBack e a p (128 + t * p.rowBytes) (n * p.rowBytes)
  let a := if p.sb then copyBack e a p (128 + 256 * p.rowBytes + t * (p.d / 16)) (n * (p.d / 16)) else a
  copyBack e a p 0 128

/-- A page is cleared of a fault found before. -/
def AttnSeq.clear (q : AttnSeq) (home : Nat) : AttnSeq := { q with bad := q.bad.filter fun x => x != home }

/-- The oldest page becomes the tail: NTOK 0 and its new POS0; a page that is refused or skipped is not written
(R232, R246). -/
def recyclePage (sh : AttnShape) (e : Fin 256) (pos : Nat) (x : AtSt × AttnSeq) (home : Nat) : AtSt × AttnSeq :=
  match pageUse x.1.s e sh.nb sh.d true home with
  | some f => noteFault x.1 x.2 home f
  | none =>
    let g := stagePage sh e true x.1 (x.2.clear home) home
    if ! g.2.2 then noteFault g.1 g.2.1 home .refused
    else
      let p := g.1.pageOf g.2.1 home
      let a := (g.1.put (plainBulk (p.addr + 2) 2 0)).put (plainBulk (p.addr + 8) 4 pos)
      (copyBack e a p 0 128, g.2.1)

/-- The page that the table's NFMT, NSB, NGRID and NPSCALE describe (R226, R246). -/
def freshPage (hdr1 : Word) (d home addr pos : Nat) : Page :=
  { home := home, addr := addr, fmt := bitsOf hdr1 19 16, sb := hdr1.getLsbD 20, grid := bitsOf hdr1 23 21, ntok := 0,
    psc := bitsOf hdr1 63 32, pos0 := pos, d := d, ok := true }

/-- The words of a page's header (R223). -/
def Page.header (p : Page) : List Nat :=
  [p.fmt + (if p.sb then 16 else 0) + p.grid * 32 + p.ntok * 2 ^ 16 + p.psc * 2 ^ 32, p.pos0, p.d] ++ List.replicate 13 0

/-- Writes a new page's header, once its whole footprint is found in the allotment with both rights (R232, R246). -/
def newPage (sh : AttnShape) (e : Fin 256) (hdr1 : Word) (pos : Nat) (x : AtSt × AttnSeq) (home : Nat) : AtSt × AttnSeq :=
  let a := x.1
  let q := x.2.clear home
  let size := (freshPage hdr1 sh.d home home pos).size
  if ! listAllows a.s e sh.nb .rd home size || ! listAllows a.s e sh.nb .wr home size then noteFault a q home .refused
  else if ! pagePlaced a.s home size || decide (home % 128 ≠ 0) then noteFault a q home .format
  else
    let f := if a.s.region home = .hbm then newFrame sh a q home size else (a, home)
    let q := if a.s.region home = .hbm then { q with staged := home :: q.staged } else q
    let p := freshPage hdr1 sh.d home f.2 pos
    let a := f.1.put (((upFrom 0 16).zip p.header).flatMap fun w => plainBulk (p.addr + 8 * w.1) 8 w.2)
    (copyBack e a p 0 128, q)

/-- The outcome of an append that finds the tail page full. -/
inductive Grow where
  | ok (r : SeqRec)
  | ended
  | stalled

/-- Recycles the oldest page of a ring. -/
def recycle (sh : AttnShape) (e : Fin 256) (a : AtSt) (q : AttnSeq) (r : SeqRec) (gen : Nat) : AtSt × AttnSeq × SeqRec :=
  let l := lookEntry a.s (e.val / 16) r.slot gen r.headp
  let a := { a with s := l.1 }
  let x := match l.2 with
    | .pair ka va => recyclePage sh e r.len (recyclePage sh e r.len (a, q) ka) va
    | .none => (a, q)
    | .poison w => notePoison a q w w
  (x.1, x.2, { r with headp := (r.headp + 1) % max 1 r.np })

/-- The growth actions of R246, in order. -/
def growTail (sh : AttnShape) (e : Fin 256) (a : AtSt) (q : AttnSeq) (r : SeqRec) (gen : Nat) (hdr1 : Word) :
    AtSt × AttnSeq × Grow :=
  if r.ring ∧ r.np = r.cap then
    let x := recycle sh e a q r gen
    (x.1, x.2.1, .ok x.2.2)
  else
    let l := if r.np < 252 then lookEntry a.s (e.val / 16) r.slot gen r.np else (a.s, .none)
    let a := { a with s := l.1 }
    match l.2 with
    | .pair ka va =>
      let x := newPage sh e hdr1 r.len (newPage sh e hdr1 r.len (a, q) ka) va
      (x.1, x.2, .ok { r with np := r.np + 1 })
    | .poison w =>
      let x := notePoison a q w w
      (x.1, x.2, .ok { r with np := r.np + 1 })
    | .none =>
      if r.evo ∧ 2 ≤ r.np then
        let x := recycle sh e (a.code 5) q { r with ring := true, w := (r.np - 1) * 256, shrunk := true } gen
        (x.1, x.2.1, .ok x.2.2)
      else if r.np = 252 then (a, q, .ended)
      else (a, q, .stalled)

/-- Position of the tail page's row 0. -/
def SeqRec.tailPos (r : SeqRec) : Nat := r.pos0 (r.np - 1)

/-- The tail page has no room for position LEN, or there is no page. -/
def SeqRec.full (r : SeqRec) : Bool := decide (r.np = 0) || decide (r.tailPos + 256 ≤ r.len)

/-- Finds the first n page pairs of a sequence, oldest first. -/
def findPairs (sh : AttnShape) (e : Fin 256) (gen : Nat) (r : SeqRec) (n : Nat) (a : AtSt) (q : AttnSeq) :
    AtSt × AttnSeq × List PagePair :=
  (upFrom 0 n).foldl (fun x k =>
    let y := findPair sh e x.1 x.2.1 r gen k false
    (y.1, y.2.1, x.2.2 ++ [y.2.2])) (a, q, [])

/-- Detail of KV-PAGE-EXHAUSTED (R247). -/
def kvDetail (seqid slot : Nat) (ended : Bool) : Nat := seqid + slot * 2 ^ 32 + if ended then 2 ^ 43 else 0

/-- Rows of the heads of a sequence from row j0, n of them. -/
def rowsOf (sh : AttnShape) (q : Nat) (j0 n : Nat) : List (Nat × Nat) :=
  (upFrom j0 n).flatMap fun j => (sh.heads q).map fun h => (j, h)

/-- The record words of sequence q. -/
def readRec (s : State) (sh : AttnShape) (q : Nat) : List Nat :=
  (upFrom 0 8).map fun w => elemRaw s sh.nb [w, sh.head q, sh.batch q]

/-- Some word of the record is poisoned. -/
def recPoison (s : State) (sh : AttnShape) (q : Nat) : Bool :=
  (upFrom 0 8).any fun w => elemPsn s sh.nb [w, sh.head q, sh.batch q]

/-- Writes a record back (R228, R239). -/
def writeRec (sh : AttnShape) (a : AtSt) (q : Nat) (ws : List Nat) (p : Bool) : AtSt :=
  a.put (elemBulk a.s sh.nb (((upFrom 0 8).zip ws).map fun x => ([x.1, sh.head q, sh.batch q], x.2, p)))

/-- A sequence ends with KV_EXHAUSTED: its unscored rows are written as 0 with EXH, its record is written
back (R248). -/
def exhaust (sh : AttnShape) (a : AtSt) (q : AttnSeq) : AtSt × AttnSeq :=
  let b := sh.batch q.idx
  let a := forL (rowsOf sh q.idx q.row (sh.r - q.row)) (fun jh a => emptyRow sh false a jh.1 jh.2 b 4 false) (a.code 4)
  (writeRec sh a q.idx q.words (recPoison a.s sh q.idx), { q with ended := true, stalled := false })

/-- Runs of an appending sequence, each ending at the end of a page (R239); `fuel` bounds them. -/
def appendRuns (sh : AttnShape) (e : Fin 256) (bad : Bool) : Nat → AtSt → AttnSeq → AtSt × AttnSeq
  | 0, a, q => (a, q)
  | fuel + 1, a, q =>
    let r := SeqRec.ofWords q.words
    let b := sh.batch q.idx
    let h := sh.head q.idx
    if sh.r ≤ q.row then
      (writeRec sh a q.idx q.words (recPoison a.s sh q.idx), { q with ended := true })
    else
      let hdr0 := a.s.word (slotAddr r.slot)
      let gen := bitsOf hdr0 63 32
      let g := if r.full then growTail sh e a q r gen (a.s.word (slotAddr r.slot + 8)) else (a, q, .ok r)
      let a := g.1
      let q := g.2.1
      match g.2.2 with
      | .ended =>
        exhaust sh { a with evs := a.evs ++ [kvDetail (bitsOf hdr0 31 0) r.slot true] } q
      | .stalled =>
        ({ a with evs := a.evs ++ [kvDetail (bitsOf hdr0 31 0) r.slot false] }, { q with stalled := true })
      | .ok r =>
        let tpos := if r.ring then r.len / 256 * 256 else 256 * (r.np - 1)
        let n := min (sh.r - q.row) (256 - (r.len - tpos))
        let r' := { r with len := r.len + n }
        let f := findPair sh e a q r' gen (r.np - 1) true
        let a := f.1
        let q := f.2.1
        let grid := (a.s.core (.eng e)).grid
        let a := match f.2.2.pages with
          | none => a
          | some (pk, pv) =>
            appendRows e grid sh.nv q.row h b (r.len - tpos) n (appendRows e grid sh.nk q.row h b (r.len - tpos) n a pk) pv
        let older := findPairs sh e gen r' (r'.np - 1) a q
        let a := older.1
        let q := older.2.1
        let tail : PagePair := { f.2.2 with pages := f.2.2.pages.map fun p => (a.pageOf q p.1.home, a.pageOf q p.2.home) }
        let rp := recPoison a.s sh q.idx
        let a := forL (rowsOf sh q.idx q.row n) (fun jh a =>
          scoreOne sh e.val false bad r' q (older.2.2 ++ [tail]) rp b a jh) a
        let kept := if f.2.2.pages.isSome then r' else r
        appendRuns sh e bad fuel a { q with row := q.row + n, words := kept.words }

/-- Begins a sequence: the record is read; a refused one writes empty rows (R229, R242). A sequence that
does not append is scored at once (R238). -/
def beginSeq (sh : AttnShape) (e : Fin 256) (rc bad : Bool) (a : AtSt) (q : AttnSeq) : AtSt × AttnSeq :=
  let ws := readRec a.s sh q.idx
  let b := sh.batch q.idx
  let rp := recPoison a.s sh q.idx
  let a := a.read 2 rp
  let r := SeqRec.ofWords ws
  let q := { q with begun := true, words := ws, len0 := r.len }
  if recRefused ws then
    let a := forL (rowsOf sh q.idx 0 sh.r) (fun jh a => emptyRow sh rc a jh.1 jh.2 b 0 (rp || bad)) ((a.code 1).count)
    (a, { q with ended := true })
  else if sh.app then appendRuns sh e bad (sh.r + 1) a q
  else
    let gen := bitsOf (a.s.word (slotAddr r.slot)) 63 32
    let pp := findPairs sh e gen r r.np a q
    let a := forL (rowsOf sh q.idx 0 sh.r) (fun jh a => scoreOne sh e.val rc bad r pp.2.1 pp.2.2 rp b a jh) pp.1
    (writeRec sh a q.idx ws rp, { pp.2.1 with ended := true })

/-- Runs the sequences for which `pick` holds, in order. -/
def runSeqs (sh : AttnShape) (e : Fin 256) (rc bad : Bool) (pick : AttnSeq → Bool) (a : AtSt) (qs : List AttnSeq) :
    AtSt × List AttnSeq :=
  qs.foldl (fun x q =>
    if ! pick q then (x.1, x.2 ++ [q])
    else
      let y := if q.begun then appendRuns sh e bad (sh.r + 1) x.1 { q with stalled := false } else beginSeq sh e rc bad x.1 q
      (y.1, x.2 ++ [y.2])) (a, [])

/-! ## The verb in the machine -/

/-- Form of an `attn` verb. -/
def isRecompute (v : Verb) : Bool :=
  match v.kind with
  | .attn rc => rc
  | _ => false

def shapeOf (v : Verb) : AttnShape := attnShape v.ctl (v.nouns.map nounOf)

/-- The sequences of a verb. -/
def initSeqs (v : Verb) : List AttnSeq :=
  if v.seqs.isEmpty then (upFrom 0 ((shapeOf v).hkv * (shapeOf v).b)).map fun i => { idx := i } else v.seqs

/-- The stalled sequences of a cluster, in the order they stalled. -/
def stallsOf (s : State) (c : Nat) : List (Nat × Nat × Nat) := tget (fun _ => []) s.stalls c

/-- Replaces the stalled sequences of a verb's slot by the ones it now has, and sets STALLED (R247). -/
def syncStalls (s : State) (e slot : Nat) (qs : List AttnSeq) : State :=
  let c := e / 16
  let now := (qs.filter fun q => q.stalled && ! q.ended).map fun q => (e, slot, q.idx)
  let old := (stallsOf s c).filter fun x => ! (x.1 == e && x.2.1 == slot) || now.contains x
  let l := old ++ now.filter fun x => ! old.contains x
  let s := { s with stalls := tput (fun _ => []) s.stalls c l }
  s.setFld CST_PW_STAT.STALLED c (min 255 l.length)

/-- Sends out one part of a verb's work; a mover's copy is performed at once (R233). -/
def sendOut (s : State) (e : Nat) : AttnOut → State
  | .engine b => engineBulk s e b
  | .copy m d b => bulkPerform (moveReads s m d) (moverSrc m) b
  | .refused m d r => event s d.evq 0x2002 (moverSrc m) (moveDetail d r)

/-- Delivers an `attn` verb's work: what it sends out, its events, its walker's buffer and counts. -/
def deliverAttn (s : State) (e slot : Nat) (v : Verb) (a : AtSt) (qs : List AttnSeq) : State :=
  let c := e / 16
  let s := { s with walkers := a.s.walkers }
  let s := (s.setFld CST_PW_STAT.HITS c (a.s.fld CST_PW_STAT.HITS c)).setFld CST_PW_STAT.MISSES c
    (a.s.fld CST_PW_STAT.MISSES c)
  let s := forL a.out (fun o s => sendOut s e o) s
  let s := forL a.evs (fun d s => event s (engineQ s e) 0x0030 e d) s
  let s := s.modCore (engine e) fun k => k.setSlot slot (some { v with seqs := qs, att := a.acc })
  syncStalls s e slot qs

/-- Runs some sequences of a verb in a slot. -/
def advanceAttn (s : State) (e slot : Nat) (v : Verb) (bad : Bool) (pick : AttnSeq → Bool) : State :=
  let sh := shapeOf v
  let x := runSeqs sh (Fin.ofNat 256 e) (isRecompute v) bad pick { s := s.view (dieOf e), acc := v.att } (initSeqs v)
  deliverAttn s e slot v x.1 x.2

/-- The first noun with PSN 1 through which an `attn` read poison (R87). -/
def attnPsn (v : Verb) : Option Nat := firstPsn v ((upFrom 0 v.nouns.length).map fun i => (i, v.att.reads.contains i))

/-- The status word of a finished `attn` (R61, R87, R242). -/
def attnStatus (v : Verb) : Word :=
  let a := v.att
  let codes := if 0 < a.pcount ∨ (attnPsn v).isSome then 2 :: a.codes else a.codes
  let st := match codes with
    | [] => 0
    | c :: r => r.foldl min c
  w64 (st + a.flags.toNat * 2 ^ 8 + min a.pcount (2 ^ 32 - 1) * 2 ^ 16 + min a.vdetail 0xFFFF * 2 ^ 48)

/-- Every sequence has completed or ended. -/
def attnOver (v : Verb) : Bool := ! v.seqs.isEmpty && v.seqs.all fun q => q.ended

/-- Marks an `attn` verb complete once all its sequences are over (R247); poison met as a page address is consumed
(R445). -/
def closeAttn (s : State) (e slot : Nat) : State :=
  match (s.core (engine e)).slot slot with
  | some v =>
    if attnOver v then
      let s := match v.att.eaten with
        | some a => consumePoison s e 1 a
        | none => s
      s.modCore (engine e) fun k => k.setSlot slot (some { v with done := true, status := attnStatus v, psn := attnPsn v })
    else s
  | none => s

/-- Code errors in the pages a verb may read are met before it runs (R438). -/
def touchPages (s : State) (e : Nat) (v : Verb) : State :=
  if s.latent.isEmpty then s
  else
    let sh := shapeOf v
    forL (upFrom 0 (sh.hkv * sh.b)) (fun q s =>
      let r := SeqRec.ofWords (readRec s sh q)
      forL (upFrom 0 r.np) (fun i s =>
        let a := slotAddr r.slot + 0x40 + 0x10 * i
        forL [bitsOf (s.word a) 39 0, bitsOf (s.word (a + 8)) 39 0] (fun p s =>
          touchRead s e p (min 0x10000000 (pageAt s p).size) 0) s) s) s

/-- ATTN_COMPLETE (R238-R250): the sequences not yet begun run; once all are over the verb completes,
while a stalled one keeps it in flight. -/
def attnComplete (s : State) (e slot : Nat) (bad : Bool) : State :=
  match readyVerb s e slot (fun k => match k with | .attn _ => true | _ => false) usesMatrix with
  | none => s
  | some v =>
    let s := touchPages (laneMismatch s e bad) e v
    closeAttn (advanceAttn s e slot v bad fun q => ! q.begun) e slot

/-- RESUME retries every stalled sequence of a cluster, in the order they stalled (R247). -/
def walkerResume (s : State) (c : Nat) : State :=
  forL (stallsOf s c) (fun x s =>
    match (s.core (engine x.1)).slot x.2.1 with
    | some v => advanceAttn s x.1 x.2.1 v false fun q => q.idx == x.2.2 && q.stalled
    | none => s) s

/-- Ends the stalled sequences of a cluster that pass a test with KV_EXHAUSTED (R247, R248). -/
def endStalls (s : State) (c : Nat) (which : Nat × Nat × Nat → Bool) : State :=
  forL ((stallsOf s c).filter which) (fun x s =>
    match (s.core (engine x.1)).slot x.2.1 with
    | some v =>
      let sh := shapeOf v
      let r := v.seqs.foldl (fun (y : AtSt × List AttnSeq) q =>
        if q.idx == x.2.2 && q.stalled then
          let z := exhaust sh y.1 q
          (z.1, y.2 ++ [z.2])
        else (y.1, y.2 ++ [q])) (({ s := s.view (dieOf x.1), acc := v.att } : AtSt), [])
      deliverAttn s x.1 x.2.1 v r.1 r.2
    | none => s) s

/-- CANCEL ends every stalled sequence of a cluster (R247). -/
def walkerCancel (s : State) (c : Nat) : State := endStalls s c fun _ => true

/-- FLUSH invalidates a cluster's look-aside buffer (R231). -/
def walkerFlush (s : State) (c : Nat) : State :=
  { s with walkers := tput (fun _ => []) s.walkers c [] }

/-- What an `attn` verb would still write, for an abort: its remaining sequences run (R62, R247). -/
def attnRun (s : State) (e : Nat) (v : Verb) : VerbOut :=
  let x := runSeqs (shapeOf v) (Fin.ofNat 256 e) (isRecompute v) false (fun q => ! q.ended && ! q.stalled)
    { s := s, acc := v.att } (initSeqs v)
  { bulk := x.1.out.flatMap AttnOut.bulk }

/-! ## Issue (R234-R237) -/

/-- Formats FP32, FP16, BF16. -/
def outFormat (f : Nat) : Bool := f == 1 || f == 2 || f == 3

/-- Queries: BF16, FP16, E4M3, E5M2. -/
def queryFormat (f : Nat) : Bool := f == 2 || f == 3 || f == 4 || f == 5

/-- The tables that the records name have a format the score unit does not decode (R237). -/
def badFmtSet (s : State) (sh : AttnShape) : Bool :=
  (upFrom 0 (sh.hkv * sh.b)).any fun q =>
    let ws := readRec s sh q
    ! recRefused ws && (upFrom 0 16).any fun f =>
      (s.word (slotAddr (ws.getD 0 0) + 8)).getLsbD f && ! pageFormat f

/-- The noun entries an `attn` names, with the position of its extra rights. -/
def attnEntries (ctl : Word) (rc : Bool) (nd na nb : Nat) : VerbNouns :=
  let app := if ctl.getLsbD 1 then [(nb + 2, Right.rd), (nb + 3, Right.rd)] else []
  let keep := if ctl.getLsbD 2 then [(nb + 5, Right.wr)] else []
  [(nd, .wr), (na, .rd), (nb, .rd), (nb + 1, if rc then .rd else .wr)] ++ app ++ [(nb + 4, .wr)] ++ keep

/-- The NOUN reasons of `attn` (R236). -/
def attnChecks (x : Ctx) (s : State) (e : Fin 256) (rc : Bool) (nd na nb : Nat) (ctl : Word) (ns : List Noun) :
    List (Bool × Trap) :=
  let sh := attnShape ctl ns
  let also := fun (r : Right) (i : Nat) (n : Noun) =>
    (! footAllowed s (engineReaches e.val false) x.b r n.allot n.foot, trNounAccess i false false n.foot.1.toNat)
  let d := sh.d
  let t := fun i c => trNoun i c 0x20
  let dOk := d == 32 || d == 64 || d == 128 || d == 256
  let ke := sh.nd.e 0
  let ndOk := if rc then decide (sh.nd.ext = [ke, sh.r, sh.hq, sh.b]) else decide (sh.nd.ext = [d, sh.r, sh.hq, sh.b])
  let f := fun i => trNoun i false 0x22
  [also .wr nb sh.nb, also .rd (nb + 4) sh.sg,
   (! ndOk, t nd false),
   (! dOk || decide (sh.na.rank ≠ 4) || decide (256 < sh.r) || decide (sh.hq % max 1 sh.hkv ≠ 0) ||
      decide (sh.na.e 3 ≠ sh.b), t na false),
   (decide (sh.nb.ext ≠ [8, sh.hkv, sh.b]) || decide (256 < sh.hkv * sh.b), t nb false),
   (decide (sh.st.ext ≠ [4, sh.r, sh.hq, sh.b]), t (nb + 1) false),
   (sh.app && decide (sh.nk.ext ≠ [d, sh.r, sh.hkv, sh.b]), t (nb + 2) false),
   (sh.app && decide (sh.nv.ext ≠ [d, sh.r, sh.hkv, sh.b]), t (nb + 3) false),
   (sh.keep && (decide (sh.kp.rank ≠ 4) || decide (sh.kp.ext.drop 1 ≠ [sh.r, sh.khn, sh.b])) &&
      decide (1 ≤ sh.khn ∧ sh.khn ≤ 8), t (nb + 5) false),
   ((sh.app && (! sh.causal || rc)) || (rc && sh.keep), t 0 true),
   (decide (sh.nb.fmt = 9) && badFmtSet (s.view (dieOf e.val)) sh, trNoun nb false 0x21),
   (! outFormat sh.nd.fmt, f nd), (! queryFormat sh.na.fmt || sh.na.scaled, f na), (decide (sh.nb.fmt ≠ 9), f nb),
   (decide (sh.st.fmt ≠ 1), f (nb + 1)),
   (sh.app && (! outFormat sh.nk.fmt || sh.nk.scaled), f (nb + 2)),
   (sh.app && (! outFormat sh.nv.fmt || sh.nv.scaled || decide (sh.nv.fmt ≠ sh.nk.fmt)), f (nb + 3)),
   (decide (sh.sg.fmt ≠ 6), f (nb + 4)),
   (sh.keep && ! outFormat sh.kp.fmt, f (nb + 5)),
   (decide (sh.sg.bytesOf < 4 * (128 + 528 * d)) || ! footIn s (fun r => decide (r = .cistern)) sh.sg.foot,
      trNoun (nb + 4) false 0x24),
   (sh.keep && (decide (sh.khn = 0) || decide (8 < sh.khn) || decide (sh.hq < sh.kh0 + sh.khn)), trNoun 0 true 0x25)]

/-- `attn` (R234-R237). An entry beyond n63 raises reason 0x23 once the other entries are well formed. -/
def attnIssue (x : Ctx) (s : State) (e : Fin 256) (rc : Bool) (gt : BitVec 5) (nd na nb : BitVec 6) : Res :=
  let s := workArrives s (0x100 + e.val / 16)
  let ctl := (x.b.readG gt).v
  let all := attnEntries ctl rc nd.toNat na.toNat nb.toNat
  let mine := all.filter fun n => decide (n.1 ≤ 63)
  if mine.length < all.length then
    issueVerb x s e gt (.attn rc) (outside (maskBits 12 0 ||| maskBits 63 32)) mine fun _ _ =>
      [(true, trNoun nb.toNat false 0x23)]
  else
    issueVerb x s e gt (.attn rc) (outside (maskBits 12 0 ||| maskBits 63 32)) mine
      (attnChecks x s e rc nd.toNat na.toNat nb.toNat)

/-! ## `smax` (R252, R253) -/

/-- Sums within groups of 32 pairwise, then across the groups in ascending order, FP32 RNE. -/
def sumGroups32 (l : List Nat) : FVal :=
  match (pieces 32 l).map fun g => psum (g.map (fDecode .f32)) with
  | [] => .fin false 0 0
  | g :: r => r.foldl (fun a b => (mAdd a b).1) g

/-- One row of `smax`: the outputs as FP32 bits, M, LSE, NKEYS, invalid. `given` holds M and LSE when they
are read. -/
def smaxRow (sscale : Nat) (xs : List FVal) (given : Option (Nat × Nat)) : List Nat × Nat × Nat × Nat × Bool :=
  let ys := xs.map fun x => (mMul (fDecode .f32 sscale) x).1
  let bad := ys.any fun y => y.isNaN || decide (y = .inf false)
  let m := ys.foldl (fun m y => if fLt m y then y else m) negInf
  let keys := (ys.filter fun y => decide (y ≠ negInf)).length
  if bad then (xs.map fun _ => nan32, nan32, nan32, keys, true)
  else if keys = 0 then (xs.map fun _ => 0, 0xFF800000, 0xFF800000, 0, false)
  else
    let ex := fun (y : FVal) (b : FVal) => if decide (y = negInf) then 0 else expBits (subBits y b)
    let l := sumGroups32 (ys.map fun y => ex y m)
    let lse := match given with
      | some g => g.2
      | none => mBits (mAdd m (fDecode .f32 (lnBits (mBits l)))).1
    (ys.map fun y => ex y (fDecode .f32 lse), mBits m, lse, keys, false)

/-- The result of `smax` (R253). -/
def smaxRun (s : State) (e : Nat) (v : Verb) (rd : Bool) : VerbOut :=
  let grid := (s.core (engine e)).grid
  let nd := nounOf (v.nouns.getD 0 [])
  let na := nounOf (v.nouns.getD 1 [])
  let nb := nounOf (v.nouns.getD 2 [])
  let ss := if bitsOf v.ctl 31 0 = 0 then 0x3F800000 else bitsOf v.ctl 31 0
  let cols := upFrom 0 (na.e 0)
  let rows := (outerIx na).map fun o =>
    let xs := cols.map fun c => elemVal s grid na (c :: o)
    let pa := cols.any fun c => elemPsn s na (c :: o) || scalePsn s na (c :: o)
    let pb := rd && (elemPsn s nb (0 :: o) || elemPsn s nb (1 :: o))
    let given := if rd then some (elemRaw s nb (0 :: o), elemRaw s nb (1 :: o)) else none
    (o, pa, pb, smaxRow ss xs given)
  let outs := rows.flatMap fun r => (cols.zip r.2.2.2.1).map fun z => (z.1 :: r.1, outElem nd z.2, r.2.1 || r.2.2.1)
  let stats := if rd then [] else rows.flatMap fun r =>
    [(0 :: r.1, r.2.2.2.2.1, r.2.1), (1 :: r.1, r.2.2.2.2.2.1, r.2.1), (2 :: r.1, r.2.2.2.2.2.2.1, r.2.1), (3 :: r.1, 0, r.2.1)]
  { bulk := elemBulk s nd outs ++ elemBulk s nb stats
    flags := flagIf (rows.any fun r => r.2.2.2.2.2.2.2) flNV
    pcount := (outs.filter fun x => x.2.2).length
    psn := firstPsn v [(1, rows.any fun r => r.2.1), (2, rows.any fun r => r.2.2.1)] }

/-- The NOUN reasons of `smax` (R252). -/
def smaxChecks (nd na nb : Nat) (ns : List Noun) : List (Bool × Trap) :=
  let d := ns.getD 0 (nounOf [])
  let a := ns.getD 1 (nounOf [])
  let b := ns.getD 2 (nounOf [])
  [(decide (d.ext ≠ a.ext), trNoun nd false 0x28), (decide (b.ext ≠ 4 :: a.ext.drop 1), trNoun na false 0x28),
   (! outFormat d.fmt, trNoun nd false 0x29), (! outFormat a.fmt, trNoun na false 0x29),
   (decide (b.fmt ≠ 1), trNoun nb false 0x29)]

/-- `smax` (R252). -/
def smaxIssue (x : Ctx) (s : State) (e : Fin 256) (rd : Bool) (gt : BitVec 5) (nd na nb : BitVec 6) : Res :=
  issueVerb x s e gt (.smax rd) (outside (maskBits 31 0))
    [(nd.toNat, .wr), (na.toNat, .rd), (nb.toNat, if rd then .rd else .wr)] fun _ ns =>
      smaxChecks nd.toNat na.toNat nb.toNat ns

end Sys2Proof.Machine
end

