-- ==== Sys2Proof/Machine/Image.lean ====
section
/-! DEFINITION. The image verbs `conv`, `dwconv` and `crop` (R254-R271). -/

namespace Sys2Proof.Machine

/-! ## Geometry (R254-R256) -/

/-- Padding, stride and dilation of a control word or an edge job (R256). -/
structure Geom where
  pl : Nat
  pr : Nat
  pt : Nat
  pb : Nat
  sx : Nat
  sy : Nat
  dx : Nat
  dy : Nat

def geomOf (w : Word) : Geom :=
  { pl := bitsOf w 2 0, pr := bitsOf w 5 3, pt := bitsOf w 8 6, pb := bitsOf w 11 9, sx := bitsOf w 13 12 + 1,
    sy := bitsOf w 15 14 + 1, dx := bitsOf w 17 16 + 1, dy := bitsOf w 19 18 + 1 }

/-- An output extent (R255). -/
def outExtent (w p0 p1 d k st : Nat) : Int := ((w : Int) + p0 + p1 - d * (k - 1) - 1).fdiv st + 1

/-- The taps of an output pixel that fall inside the map, in order ky then kx: kx, ky, ix, iy (R258). -/
def taps (g : Geom) (kw kh w h x y : Nat) : List (Nat × Nat × Nat × Nat) :=
  (upFrom 0 kh).flatMap fun ky => (upFrom 0 kw).filterMap fun kx =>
    let ix : Int := (x * g.sx : Nat) - (g.pl : Int) + (kx * g.dx : Nat)
    let iy : Int := (y * g.sy : Nat) - (g.pt : Int) + (ky * g.dy : Nat)
    if 0 ≤ ix ∧ ix < w ∧ 0 ≤ iy ∧ iy < h then some (kx, ky, ix.toNat, iy.toNat) else none

/-! ## `conv` and `dwconv` -/

/-- Block scales of a map or a filter run along dimension 0 (R254). -/
def badScaleDim (n : Noun) : Bool := decide (n.sfmt = 1 ∧ n.sdim ≠ 0)

/-- The format pair, where one exists, and the sources of a convolution. -/
structure ConvShape where
  nd : Noun
  na : Noun
  nb : Noun
  g  : Geom
  isInt  : Bool
  scaled : Bool
  kw : Nat
  kh : Nat

def convShape (ctl : Word) (ns : List Noun) : ConvShape :=
  let n := fun i => ns.getD i (nounOf [])
  { nd := n 0, na := n 1, nb := n 2, g := geomOf ctl, isInt := (pairType (n 1) (n 2)).getD false
    scaled := (n 1).scaled || (n 2).scaled, kw := (n 2).e 1, kh := (n 2).e 2 }

/-- The activation on a finished sum (R259). -/
def actF (act : Nat) (v : FVal) : FVal :=
  if v.isNaN then v
  else if act = 1 then (if v.sign then .fin false 0 0 else v)
  else if act = 2 then (if v.sign then .fin false 0 0 else if fLt (.fin false 6 0) v then .fin false 6 0 else v)
  else v

/-- The output stage: activation, then conversion to nd's format with RNE, never UF (R259). -/
def outStage (act : Nat) (nd : Noun) (v : FVal) : Nat × Flags :=
  let r := putF32 rne nd (mBits (actF act v))
  (r.1, r.2 &&& ~~~flUF)

/-- The output stage of an INT32 sum. -/
def outInt (act : Nat) (v : BitVec 32) : Nat := if act = 1 ∧ v.toInt < 0 then 0 else v.toNat

/-- The poison of a tap: elements and scales of both sources over some channels. -/
def tapPsn (s : State) (c : ConvShape) (chA chB : List Nat) (o : Nat) (t : Nat × Nat × Nat × Nat) : Bool × Bool :=
  (chA.any fun k => elemPsn s c.na [k, t.2.2.1, t.2.2.2] || scalePsn s c.na [k, t.2.2.1, t.2.2.2],
   chB.any fun k => elemPsn s c.nb [k, t.1, t.2.1, o] || scalePsn s c.nb [k, t.1, t.2.1, o])

/-- One tap of `conv` added into an FP32 sum: blocks of 32 channels in ascending order (R258). -/
def convTap (s : State) (grid : Tab Nat) (c : ConvShape) (o : Nat) (acc : MVal) (t : Nat × Nat × Nat × Nat) : MVal :=
  let cin := c.na.e 0
  (upFrom 0 ((cin + 31) / 32)).foldl (fun acc b =>
    let xs := (upFrom (32 * b) 32).map fun k =>
      if k < cin then mMulExact (matElem s grid c.na [k, t.2.2.1, t.2.2.2]) (matElem s grid c.nb [k, t.1, t.2.1, o])
      else (.fin false 0 0, 0)
    let sc := if c.scaled then
        some (scalePair (matScale s c.na [32 * b, t.2.2.1, t.2.2.2]) (matScale s c.nb [32 * b, t.1, t.2.1, o]))
      else none
    blockAdd acc xs sc) acc

/-- One tap of `dwconv`: a rounding after every product (R262). -/
def dwTap (s : State) (grid : Tab Nat) (c : ConvShape) (g o : Nat) (acc : MVal) (t : Nat × Nat × Nat × Nat) : MVal :=
  (upFrom 0 g).foldl (fun acc k =>
    let ca := g * (o / g) + k
    let p := mMulExact (matElem s grid c.na [ca, t.2.2.1, t.2.2.2]) (matElem s grid c.nb [k, t.1, t.2.1, o])
    let p := if c.scaled then
        let sc := scalePair (matScale s c.na [ca, t.2.2.1, t.2.2.2]) (matScale s c.nb [k, t.1, t.2.1, o])
        let q := mMul p.1 sc.1
        (q.1, p.2 ||| sc.2 ||| q.2)
      else p
    let r := mAdd acc.1 p.1
    (r.1, acc.2 ||| p.2 ||| r.2)) acc

/-- An integer tap, exact. -/
def intTap (s : State) (c : ConvShape) (chans : List (Nat × Nat)) (o : Nat) (t : Nat × Nat × Nat × Nat) : Int :=
  chans.foldl (fun a k => a + intElem s c.na [k.1, t.2.2.1, t.2.2.2] * intElem s c.nb [k.2, t.1, t.2.1, o]) 0

/-- The previous output value that VM = 1 adds to: an input of the matrix unit, whose signalling FP16 or BF16 NaN
raises NV (R131, R258). -/
def oldOut (s : State) (grid : Tab Nat) (nd : Noun) (ix : List Nat) : MVal :=
  let v := decElem s grid nd ix
  (v, flagIf (v.isSig && (nd.fmt == 2 || nd.fmt == 3)) flNV)

/-- The result of a convolution; `grp` is `dwconv`'s group width, `none` for `conv` (R258, R259, R262). -/
def convRun (s : State) (e : Nat) (v : Verb) (acc : Bool) (grp : Option Nat) (bad : Bool) : VerbOut :=
  let grid := (s.core (engine e)).grid
  let c := convShape v.ctl (v.nouns.map nounOf)
  let act := bitsOf v.ctl 21 20
  let cin := c.na.e 0
  let els := (indices c.nd.ext).map fun ix =>
    let o := ix.getD 0 0
    let ts := taps c.g c.kw c.kh (c.na.e 1) (c.na.e 2) (ix.getD 1 0) (ix.getD 2 0)
    let chans := match grp with
      | some g => (upFrom 0 g).map fun k => (g * (o / g) + k, k)
      | none => (upFrom 0 cin).map fun k => (k, k)
    let ps := ts.map (tapPsn s c (chans.map Prod.fst) (chans.map Prod.snd) o)
    let pd := acc && elemPsn s c.nd ix
    let p := (ps.any fun x => x.1 || x.2) || pd || bad
    let r := if c.isInt then
        let q := ts.foldl (fun (a : Int) t => a + intTap s c chans o t) 0
        let old : BitVec 32 := if acc then BitVec.ofNat 32 (elemRaw s c.nd ix) else 0
        (outInt act (old + BitVec.ofInt 32 q), (0 : Flags))
      else
        let init : MVal := if acc then oldOut s grid c.nd ix else (.fin false 0 0, 0)
        let x := ts.foldl (fun a t => match grp with
          | some g => dwTap s grid c g o a t
          | none => convTap s grid c o a t) init
        let y := outStage act c.nd x.1
        (y.1, x.2 ||| y.2)
    ((ix, r.1, p), r.2, ps.any Prod.fst, ps.any Prod.snd, pd)
  { bulk := elemBulk s c.nd (els.map Prod.fst)
    flags := allFlags (els.map fun x => x.2.1)
    pcount := (els.filter fun x => x.1.2.2).length
    psn := firstPsn v [(0, els.any fun x => x.2.2.2.2), (1, els.any fun x => x.2.2.1), (2, els.any fun x => x.2.2.2.1)] }

/-- The NOUN reasons of `conv` and `dwconv` (R257). -/
def convChecks (x : Ctx) (s : State) (e : Fin 256) (acc dw : Bool) (nd na nb : Nat) (ctl : Word) (ns : List Noun) :
    List (Bool × Trap) :=
  let c := convShape ctl ns
  let g := 2 ^ bitsOf ctl 26 24
  let cin := c.na.e 0
  let cout := c.nd.e 0
  let t := fun i r => trNoun i false r
  let kOk := decide (c.kw ≤ 15) && decide (c.kh ≤ 15)
  let pair := pairType c.na c.nb
  let ext := decide ((c.nd.e 1 : Int) ≠ outExtent (c.na.e 1) c.g.pl c.g.pr c.g.dx c.kw c.g.sx) ||
    decide ((c.nd.e 2 : Int) ≠ outExtent (c.na.e 2) c.g.pt c.g.pb c.g.dy c.kh c.g.sy)
  let act := bitsOf ctl 21 20
  [(acc && ! footAllowed s (engineReaches e.val false) x.b .rd c.nd.allot c.nd.foot, trNounAccess nd false false c.nd.foot.1.toNat),
   (decide (c.nd.rank ≠ 3) || decide (65535 < cout) || badScaleDim c.nd, t nd 0x40),
   (decide (c.na.rank ≠ 3) || decide (65535 < cin) || badScaleDim c.na, t na 0x40),
   (decide (c.nb.rank ≠ 4) || ! kOk || badScaleDim c.nb, t nb 0x40),
   (! dw && decide (c.nb.e 3 ≠ cout), t nd 0x40),
   (! dw && decide (c.nb.e 0 ≠ cin), t na 0x40),
   (dw && decide (c.nb.e 3 ≠ cin), t na 0x40), (dw && decide (c.nb.e 0 ≠ g), trNoun nb true 0x40),
   (ext, trNoun nd true 0x41),
   (pair.isNone, t na 0x42),
   (if c.isInt then decide (c.nd.fmt ≠ 9) else ! outFormat c.nd.fmt, t nd 0x42),
   (c.isInt && decide (act = 2), trNoun nd true 0x42),
   (decide (act = 3) || (if dw then decide (5 < bitsOf ctl 26 24) else decide (bitsOf ctl 26 24 ≠ 0)), trNoun 0 true 0x43),
   ((footsOf c.na ++ footsOf c.nb).any (overlaps c.nd.foot), t nd 0x44),
   (dw && decide (cin ≠ cout), t nd 0x45), (dw && decide (cin % g ≠ 0), trNoun na true 0x45),
   (dw && decide (c.nb.sfmt = 1), t nb 0x45)]

/-- `conv` and `dwconv` (R255-R262). -/
def convIssue (x : Ctx) (s : State) (e : Fin 256) (acc dw : Bool) (gt : BitVec 5) (nd na nb : BitVec 6) : Res :=
  issueVerb x s e gt (if dw then .dwconv acc else .conv acc) (outside (maskBits 21 0 ||| maskBits 26 24))
    [(nd.toNat, .wr), (na.toNat, .rd), (nb.toNat, .rd)] (convChecks x s e acc dw nd.toNat na.toNat nb.toNat)

/-! ## `crop` (R267-R271) -/

/-- The words of box i. -/
def boxWords (s : State) (nb : Noun) (i : Nat) : List Nat := (upFrom 0 8).map fun w => elemRaw s nb [w, i]

/-- The address of the first poisoned word of box i. -/
def poisonedBox (s : State) (nb : Noun) (i : Nat) : Option Nat :=
  ((upFrom 0 8).find? fun w => elemPsn s nb [w, i]).map fun w => nb.addrOf [w, i] / 8 * 8

def boxPsn (s : State) (nb : Noun) (i : Nat) : Bool := (poisonedBox s nb i).isSome

/-- The box is refused (R270). -/
def boxRefused (ws : List Nat) (nlvl : Nat) : Bool :=
  let c := fun i => fDecode .f32 (ws.getD i 0)
  let w4 := ws.getD 4 0
  ((upFrom 0 4).any fun i => (c i).isNaN || (c i).isInf) || ! fLt (c 0) (c 2) || ! fLt (c 1) (c 3) ||
    decide (nlvl ≤ w4 % 8) || decide (16 ≤ w4) || ((ws.drop 5).any fun x => x != 0)

/-- FP32 arithmetic of the sampler, RNE, with the flags carried. -/
abbrev SVal := Nat × Flags
def sAdd (a b : SVal) : SVal := op32 (fAdd .f32 rne) a b
def sSub (a b : SVal) : SVal := op32 (fSub .f32 rne) a b
def sMul (a b : SVal) : SVal := op32 (fMul .f32 rne) a b
def sInt (i : Int) : SVal := fFromInt .f32 rne i

/-- Position along one axis: the integer part and the exact fraction, absent when it is not finite, and its
flags (R269). -/
def samplePos (c0 step : SVal) (u : Nat) : Option (Int × FVal) × Flags :=
  let half : SVal := (0x3F000000, 0)
  let x := sSub (sAdd c0 (sMul (sAdd (sInt u) half) step)) half
  (match fDecode .f32 x.1 with
    | .fin sg m e =>
      let f := rndAt 3 sg m e 0 false
      let i : Int := if sg then -(f.1 : Int) else f.1
      some (i, fDiff (.fin sg m e) (fInt i))
    | _ => none, x.2)

/-- A pixel's channel as FP32, with its poison; outside the level the nearest edge pixel, or +0 (R269). -/
def pixel (s : State) (grid : Tab Nat) (n : Noun) (zero : Bool) (c : Nat) (i j : Int) : SVal × Bool :=
  let w : Int := n.e 1
  let h : Int := n.e 2
  if zero ∧ ¬ (0 ≤ i ∧ i < w ∧ 0 ≤ j ∧ j < h) then ((0, 0), false)
  else
    let ix := [c, (max 0 (min i (w - 1))).toNat, (max 0 (min j (h - 1))).toNat]
    (elemF32 s grid rne n ix, elemPsn s n ix || scalePsn s n ix)

/-- a + f × (b − a) for an exact fraction f, each operation rounded to FP32 (R269). -/
def lerp (a b : SVal) (f : FVal) : SVal :=
  let d := sSub b a
  let v := fDecode .f32 d.1
  let p := (nanResult .f32 rne [v]).getD (roundOr .f32 rne (exMul f v))
  sAdd a (p.1, d.2 ||| p.2)

/-- One box's crop: elements, flags, poison of the source read (R269). -/
def cropBox (s : State) (grid : Tab Nat) (nd n : Noun) (zero : Bool) (ws : List Nat) (b : Nat) :
    List ((List Nat × Nat × Bool) × Flags) :=
  let c := fun i => ((ws.getD i 0, 0) : SVal)
  let step := fun i k d => op32 (fDiv .f32 rne) (sSub (c k) (c i)) (sInt d)
  let sx := step 0 2 (nd.e 1)
  let sy := step 1 3 (nd.e 2)
  (upFrom 0 (nd.e 2)).flatMap fun v => (upFrom 0 (nd.e 1)).flatMap fun u => (upFrom 0 (nd.e 0)).map fun ch =>
    let x := samplePos (c 0) sx u
    let y := samplePos (c 1) sy v
    match x.1, y.1 with
    | some (i, fx), some (j, fy) =>
      let px := pixel s grid n zero ch
      let p00 := px i j
      let p10 := px (i + 1) j
      let p01 := px i (j + 1)
      let p11 := px (i + 1) (j + 1)
      let val := lerp (lerp p00.1 p10.1 fx) (lerp p01.1 p11.1 fx) fy
      let o := putF32 rne nd val.1
      (([ch, u, v, b], o.1, p00.2 || p10.2 || p01.2 || p11.2), x.2 ||| y.2 ||| val.2 ||| o.2)
    | _, _ => (([ch, u, v, b], s.free.toNat % 2 ^ fmtBits nd.fmt, false), x.2 ||| y.2)

/-- The result of `crop` (R267-R270). -/
def cropRun (s : State) (e : Nat) (v : Verb) : VerbOut :=
  let grid := (s.core (engine e)).grid
  let nd := nounOf (v.nouns.getD 0 [])
  let nb := nounOf (v.nouns.getD 2 [])
  let nlvl := bitsOf v.ctl 3 1
  let zero := v.ctl.getLsbD 0
  let boxes := (upFrom 0 (nb.e 1)).map fun b =>
    let ws := boxWords s nb b
    let p := boxPsn s nb b
    let lvl := ws.getD 4 0 % 8
    let pos := if lvl = 0 then 1 else 2 + lvl
    if ! p && ! (ws.getD 4 0).testBit 3 then (b, false, p, pos, [])
    else if p || boxRefused ws nlvl then
      (b, true, p, pos, (indices [nd.e 0, nd.e 1, nd.e 2]).map fun ix => ((ix ++ [b], 0, p), (0 : Flags)))
    else (b, false, p, pos, cropBox s grid nd (nounOf (v.nouns.getD pos [])) zero ws b)
  let els := boxes.flatMap fun x => x.2.2.2.2
  let refused := (boxes.filter fun x => x.2.1).length
  let bp := boxes.findSome? fun x => poisonedBox s nb x.1
  { bulk := elemBulk s nd (els.map Prod.fst)
    status := if refused = 0 then 0 else 4
    flags := allFlags (els.map Prod.snd)
    vdetail := refused
    freed := 1
    eaten := bp
    pcount := (els.filter fun x => x.1.2.2).length
    psn := firstPsn v ([(1, boxes.any fun x => x.2.2.2.1 == 1 && ! x.2.1 && x.2.2.2.2.any fun y => y.1.2.2), (2, bp.isSome)] ++
      (upFrom 3 5).map fun i => (i, boxes.any fun x => x.2.2.2.1 == i && ! x.2.1 && x.2.2.2.2.any fun y => y.1.2.2)) }

/-- The nouns of a `crop`: nd, na, nb and the further levels that exist. -/
def cropNouns (ctl : Word) (nd na nb : Nat) : VerbNouns :=
  let n := bitsOf ctl 3 1
  [(nd, .wr), (na, .rd), (nb, .rd)] ++
    ((upFrom 1 (if n ≤ 6 then n - 1 else 0)).map fun k => (nb + k, Right.rd)).filter fun x => decide (x.1 ≤ 63)

/-- Source formats of `crop`. -/
def cropFormat (f : Nat) : Bool := decide (1 ≤ f) && decide (f ≤ 6)

/-- The NOUN reasons of `crop` (R257, R267). -/
def cropChecks (nd na nb : Nat) (ctl : Word) (ns : List Noun) : List (Bool × Trap) :=
  let d := ns.getD 0 (nounOf [])
  let a := ns.getD 1 (nounOf [])
  let b := ns.getD 2 (nounOf [])
  let nlvl := bitsOf ctl 3 1
  let lv := ns.drop 3
  let t := fun i r => trNoun i false r
  let levels := (upFrom 0 lv.length).zip lv
  [(decide (d.rank ≠ 4), t nd 0x40), (decide (d.e 0 ≠ a.e 0), t nd 0x40), (decide (a.rank ≠ 3) || badScaleDim a, t na 0x40),
   (decide (b.rank ≠ 2) || decide (b.e 0 ≠ 8) || decide (1024 < b.e 1), t nb 0x40)] ++
  levels.map (fun l => (decide (l.2.rank ≠ 3) || badScaleDim l.2, t (nb + 1 + l.1) 0x40)) ++
  [(decide (d.e 3 ≠ b.e 1) || decide (256 < d.e 1) || decide (256 < d.e 2), t nd 0x41),
   (! outFormat d.fmt, t nd 0x42), (! cropFormat a.fmt, t na 0x42), (decide (b.fmt ≠ 9), t nb 0x42),
   (decide (nlvl = 0) || decide (6 < nlvl), trNoun 0 true 0x43),
   ((a :: lv).any (fun n => (footsOf n).any (overlaps d.foot)) || overlaps d.foot b.foot, t nd 0x44)] ++
  levels.map (fun l => (decide (l.2.e 0 ≠ a.e 0) || decide (l.2.fmt ≠ a.fmt), t na 0x46)) ++
  [(decide (nlvl ≤ 6) && decide (lv.length < nlvl - 1), trNoun 0 true 0x46)]

/-- `crop` (R267, R271): the verb joins its cluster's sampler queue. -/
def cropIssue (x : Ctx) (s : State) (e : Fin 256) (gt : BitVec 5) (nd na nb : BitVec 6) : Res := do
  let ns := cropNouns (x.b.readG gt).v nd.toNat na.toNat nb.toNat
  let slot := (freeSlot (s.core x.c)).getD 0
  let s ← issueVerb x s e gt .crop (outside (maskBits 3 0)) ns (cropChecks nd.toNat na.toNat nb.toNat)
  let k := s.core x.c
  let s := workArrives s (0x100 + e.val / 16)
  pure { s.setCore x.c (k.setSlot slot ((k.slot slot).map fun v => { v with order := s.cropSeq })) with
    cropSeq := s.cropSeq + 1 }

/-- No `crop` of the cluster arrived at the sampler earlier (R271). -/
def samplerTurn (s : State) (e : Nat) (v : Verb) : Bool :=
  (upFrom (e / 16 * 16) 16).all fun i => (s.core (engine i)).inFlight.all fun u =>
    u.kind != .crop || decide (v.order ≤ u.order)

/-! ## Completion of the other verbs -/

/-- Code errors in a verb's source nouns are met when it reads them (R438, R440). -/
def touchNouns (s : State) (e : Nat) (v : Verb) : State :=
  if s.latent.isEmpty then s
  else forL (v.nouns.map nounOf) (fun n s =>
    forL (footsOf n) (fun f s => touchRead s e f.1.toNat (f.2 - f.1 + 1).toNat 0) s) s

/-- What a verb delivers when it runs. -/
def verbRun (bad : Bool) (s : State) (e : Nat) (v : Verb) : VerbOut :=
  match v.kind with
  | .mma set d => mmaRun s e v set d bad
  | .conv acc => convRun s e v acc none bad
  | .dwconv acc => convRun s e v acc (some (2 ^ bitsOf v.ctl 26 24)) bad
  | .attn _ => attnRun s e v
  | .smax rd => smaxRun s e v rd
  | .norm rms => normRun s e v rms
  | .cvt | .cvtAcc _ => cvtRun s e v
  | .crop => cropRun s e v
  | .gath => gathRun s e v
  | .scat vm => scatRun s e v vm

/-- A verb in a slot runs and completes. -/
def completeVerb (s : State) (e slot : Nat) (kind inOrder : VerbKind → Bool) (bad : Bool) : State :=
  match readyVerb s e slot kind inOrder with
  | none => s
  | some v =>
    let s := touchNouns (laneMismatch s e bad) e v
    finishVerb s e slot v (verbRun bad (s.view (dieOf e)) e v)

/-- CROP_COMPLETE (R269-R271): the sampler serves its cluster's verbs in order of arrival. -/
def cropComplete (s : State) (e slot : Nat) : State :=
  match (s.core (engine e)).slot slot with
  | some v => if samplerTurn s e v then completeVerb s e slot (· == .crop) (fun _ => false) false else s
  | none => s

/-- The verb kinds that one completion command covers. -/
def isMma : VerbKind → Bool
  | .mma .. => true
  | _ => false
def isConv : VerbKind → Bool
  | .conv _ => true
  | _ => false
def isDwconv : VerbKind → Bool
  | .dwconv _ => true
  | _ => false
def isSmax : VerbKind → Bool
  | .smax _ => true
  | _ => false
def isNorm : VerbKind → Bool
  | .norm _ => true
  | _ => false
def isCvt : VerbKind → Bool
  | .cvt | .cvtAcc _ => true
  | _ => false
def isSlice : VerbKind → Bool
  | .gath | .scat _ => true
  | _ => false
def anyOrder : VerbKind → Bool := fun _ => false

/-- The stalled sequences of an engine end with KV_EXHAUSTED (R247), and its verbs in flight are discarded (R62). -/
def abortEngineVerbs (s : State) (e : Nat) : State :=
  let c := e / 16
  let s := abortVerbs (verbRun false) (endStalls s c fun x => x.1 == e) e
  let l := (stallsOf s c).filter fun x => x.1 != e
  let s := { s with stalls := tput (fun _ => []) s.stalls c l }
  s.setFld CST_PW_STAT.STALLED c (min 255 l.length)

end Sys2Proof.Machine
end

