-- ==== Sys2Proof/Machine/Edge.lean ====
section
/-! DEFINITION. The edge engines: the job ring, its checks, the wait on IGATE, the layer they compute, and
the diverse recomputation job of the Ditch Rider (R273-R279, R423). -/

namespace Sys2Proof.Machine

/-- Source id of an edge engine (R515). -/
def edgeSrc (x : Nat) : Nat := 0x1000 + x

/-- First byte of an edge engine's memory (R28). -/
def edgeBase (x : Nat) : Nat := 0x5100000000 + 0x200000 * x

/-- Address of entry i of its job ring (R274). -/
def edgeEntry (x i : Nat) : Nat := edgeBase x + 0x1FA000 + 0xC0 * i

def State.edgeJob (s : State) (x : Nat) : Option EdgeJob := tget (fun _ => none) s.edge x

/-- Sets the job in progress; BUSY and WAITING follow it. -/
def State.setEdgeJob (s : State) (x : Nat) (j : Option EdgeJob) : State :=
  let s := { s with edge := tput (fun _ => none) s.edge x j }
  let s := s.setBit EDG_RING.BUSY x j.isSome
  s.setBit EDG_RING.WAITING x ((j.map fun k => ! k.taken).getD false)

/-- The fields of a job (R274). -/
def EdgeJob.w (j : EdgeJob) (i : Nat) : Word := j.words.getD i 0
def EdgeJob.evq (j : EdgeJob) : Nat := bitsOf (j.w 0) 4 2
def EdgeJob.inN (j : EdgeJob) : Noun := nounOf ((j.words.drop 8).take 8)
def EdgeJob.outN (j : EdgeJob) : Noun := nounOf ((j.words.drop 16).take 8)
def EdgeJob.geom (j : EdgeJob) : Geom := geomOf (w64 (bitsOf (j.w 1) 21 0))
def EdgeJob.igate (j : EdgeJob) : Word := w64 (bitsOf (j.w 2) 20 0)
def EdgeJob.ogate (j : EdgeJob) : Word := w64 (bitsOf (j.w 3) 20 0)
def EdgeJob.woff (j : EdgeJob) : Nat := bitsOf (j.w 5) 20 0
def EdgeJob.boff (j : EdgeJob) : Nat := bitsOf (j.w 5) 41 21
/-- A job of the ring signals and reports as its flags say; the diverse job does neither (R423). -/
def EdgeJob.sig (j : EdgeJob) : Bool := j.idx.isSome && (j.w 0).getLsbD 0
def EdgeJob.evt (j : EdgeJob) : Bool := j.idx.isSome && (j.w 0).getLsbD 1

/-- Noun format of OFMT (R274). -/
def edgeFmt (o : Nat) : Nat :=
  match o with
  | 0 => 6
  | 1 => 3
  | 2 => 2
  | _ => 1

/-- The largest kernel extent of an engine (R273). -/
def edgeKernelMax (x : Nat) : Nat := if x = 0 then 7 else 3

/-- The kernel extents within the limits of R273 that give an output extent by R255. -/
def edgeKernels (x inE p0 p1 st out : Nat) : List Nat :=
  (upFrom 1 (edgeKernelMax x)).filter fun k => decide (outExtent inE p0 p1 1 k st = (out : Int))

/-- The kernel's width and height: the descriptor does not carry them, and where several satisfy R255 the
choice is free (assumption log 18). -/
def edgeShape (s : State) (x : Nat) (j : EdgeJob) : Option (Nat × Nat) :=
  let g := j.geom
  let ws := edgeKernels x (j.inN.e 1) g.pl g.pr g.sx (j.outN.e 1)
  let hs := edgeKernels x (j.inN.e 2) g.pt g.pb g.sy (j.outN.e 2)
  let f := s.free.toNat
  match ws[f % ws.length]?, hs[f / 2 ^ 32 % hs.length]? with
  | some w, some h => some (w, h)
  | _, _ => none

/-- The reason of the first check a job fails (R275). -/
def edgeReason (s : State) (x : Nat) (enabled : Bool) (j : EdgeJob) : Option Nat :=
  let a := j.inN
  let b := j.outN
  let reserved := decide (bitsOf (j.w 0) 63 9 ≠ 0) || decide (1 < bitsOf (j.w 0) 6 5) ||
    decide (bitsOf (j.w 1) 63 16 ≠ 0) || decide (bitsOf (j.w 2) 31 21 ≠ 0) || decide (bitsOf (j.w 3) 31 21 ≠ 0) ||
    decide (bitsOf (j.w 5) 63 42 ≠ 0) || decide (bitsOf (j.w 6) 31 22 ≠ 0) || decide (j.w 7 ≠ 0) ||
    decide (j.woff % 64 ≠ 0) || decide (j.boff % 64 ≠ 0)
  let bad := (nounBad ((j.words.drop 8).take 8)).orElse fun _ => nounBad ((j.words.drop 16).take 8)
  let inC := fun n => (footsOf n).all (footIn s fun r => decide (r = .cistern))
  let gates := handleOkUnit j.igate false && handleOkUnit j.ogate false
  let sh := edgeShape s x j
  let g := j.geom
  let cin := a.e 0
  let cout := b.e 0
  let limits := decide (a.rank = 3) && a.fmt == 6 && a.sfmt == 0 && ! a.tsen &&
    b.fmt == edgeFmt (bitsOf (j.w 0) 8 7) && decide (b.e 1 * b.e 2 ≤ 1048576) &&
    (if x = 0 then decide (cin ≤ 8) && decide (cout ≤ 64) else
      decide (cin ≤ 1024) && decide (cout ≤ 16) && decide (g.sx ≤ 2) && decide (g.sy ≤ 2))
  let k := sh.getD (1, 1)
  if reserved then some 0x01
  else if bad.isSome then bad
  else if ! inC a || ! inC b then some 0x10
  else if ! gates || ! enabled then some 0x12
  else if decide (b.rank ≠ 3) || sh.isNone then some 0x41
  else if (footsOf a).any (overlaps b.foot) then some 0x44
  else if ! limits then some 0x48
  else if decide (0x1FA000 < j.woff + cout * k.1 * k.2 * cin) || decide (0x1FA000 < j.boff + 4 * cout) then some 0x49
  else none

/-- Writes CODE, REASON and OSAT: into the ring entry, or into DRD_DIV_CTL, whose BUSY ends (R274, R423). -/
def edgeCode (s : State) (x : Nat) (j : EdgeJob) (code reason osat : Nat) : State :=
  match j.idx with
  | some i => s.store (edgeEntry x i + 32) 8 (code + reason * 2 ^ 8 + osat * 2 ^ 16)
  | none => s.setReg .DRD_DIV_CTL 0 (w64 (code * 2 ^ 8 + reason * 2 ^ 16 + osat * 2 ^ 32))

/-- A refused job writes nothing and signals nothing (R275). -/
def edgeRefuse (s : State) (x : Nat) (j : EdgeJob) (reason : Nat) : State :=
  let s := edgeCode s x j 3 reason 0
  match j.idx with
  | some i => event s j.evq 0x1002 (edgeSrc x) (i + reason * 2 ^ 8)
  | none => s

/-- A job whose wait on IGATE has ended has taken its amount (R276). -/
def edgePump (s : State) (x : Nat) : State :=
  match s.edgeJob x with
  | some j =>
    if ! j.taken && s.served.contains (edgeSrc x) then
      { s.setEdgeJob x (some { j with taken := true, sync := s.accSeq }) with
        served := s.served.filter (· != edgeSrc x) }
    else s
  | none => s

/-- A job reaches the engine: it is refused, or becomes the job in progress and waits on IGATE (R275, R276). -/
def edgeBegin (s : State) (x : Nat) (j : EdgeJob) : State :=
  match edgeReason s x (decide (s.fld EDG_RING.STATE x = 0)) j with
  | some r => edgeRefuse s x j r
  | none =>
    let k := (edgeShape s x j).getD (1, 1)
    let amt := bitsOf (j.w 2) 63 32
    let j := { j with kw := k.1, kh := k.2, taken := decide (amt = 0), sync := s.accSeq }
    let s := s.useFree.setEdgeJob x (some j)
    if amt = 0 then s else edgePump (waitGate s (handleKey j.igate) (edgeSrc x) amt 0) x

/-- EDGE_JOB_TAKE: with no job in progress, the diverse job is taken first, then the ring's next job while
the engine is ENABLED (R274, R276, R279, R423). -/
def edgeTake (s : State) (x : Nat) : State :=
  if (s.edgeJob x).isSome then s
  else if x = 1 ∧ s.bit DRD_DIV_CTL.BUSY 0 then
    edgeBegin (workArrives s (edgeSrc x)) x { idx := none, words := (upFrom 0 24).map fun i => s.reg .DRD_DIVJ i }
  else
    let h := s.fld EDG_RING.HEAD x
    if s.fld EDG_RING.STATE x = 0 ∧ h ≠ s.fld EDG_RING.TAIL x then
      let j : EdgeJob := { idx := some h, words := s.words (edgeEntry x h) 24 }
      edgeBegin (workArrives (s.setFld EDG_RING.HEAD x ((h + 1) % 128)) (edgeSrc x)) x j
    else s

/-- Division by a power of two, to the nearest integer with ties to even. -/
def rneShift (v : Int) (sh : Nat) : Int :=
  let d : Int := 2 ^ sh
  let q := v.fdiv d
  let r := v - q * d
  if d < 2 * r ∨ (d = 2 * r ∧ q % 2 ≠ 0) then q + 1 else q

/-- One output element: raw bits, poison, whether it was clamped or overflowed (R277). -/
def edgeElem (s : State) (x : Nat) (j : EdgeJob) (o px py : Nat) : Nat × Bool × Bool :=
  let a := j.inN
  let g := j.geom
  let cin := a.e 0
  let ts := taps { g with dx := 1, dy := 1 } j.kw j.kh (a.e 1) (a.e 2) px py
  let wAt := fun kx ky c => edgeBase x + j.woff + ((o * j.kh + ky) * j.kw + kx) * cin + c
  let bAt := edgeBase x + j.boff + 4 * o
  let pts := ts.flatMap fun t => (upFrom 0 cin).map fun c => (t, c)
  let sum := pts.foldl (fun (m : Int) p =>
    let t := p.1
    m + bitsInt 8 true (elemRaw s a [p.2, t.2.2.1, t.2.2.2]) *
      bitsInt 8 true (s.byte (wAt t.1 t.2.1 p.2)).toNat) (bitsInt 32 true (s.load bAt 4))
  let pz := s.mark bAt || pts.any fun p =>
    elemPsn s a [p.2, p.1.2.2.1, p.1.2.2.2] || s.mark (wAt p.1.1 p.1.2.1 p.2)
  let sum := if bitsOf (j.w 0) 6 5 = 1 ∧ sum < 0 then 0 else sum
  match bitsOf (j.w 0) 8 7 with
  | 0 =>
    let y := rneShift (sum * bitsOf (j.w 6) 15 0) (bitsOf (j.w 6) 21 16)
    let z := max (-128) (min 127 y)
    (intBits 8 z, pz, decide (z ≠ y))
  | k =>
    let c := fFromInt .f32 rne sum
    let m := fMul .f32 rne c.1 (bitsOf (j.w 6) 63 32)
    let f := match k with
      | 1 => fCvt .f32 .bf16 rne false m.1
      | 2 => fCvt .f32 .f16 rne false m.1
      | _ => (m.1, 0)
    (f.1, pz, decide ((c.2 ||| m.2 ||| f.2) &&& flOF ≠ 0))

/-- The bytes a job writes, and how many outputs saturated or overflowed (R277). -/
def edgeRun (s : State) (x : Nat) (j : EdgeJob) : Bulk × Nat :=
  let b := j.outN
  let els := (indices b.ext).map fun ix => (ix, edgeElem s x j (ix.getD 0 0) (ix.getD 1 0) (ix.getD 2 0))
  (els.flatMap fun e => (atAddr (b.addrOf e.1) (leBytes (fmtBytes b.fmt) e.2.1)).map fun y => (y.1, y.2, e.2.2.1),
   (els.filter fun e => e.2.2.2).length)

/-- The memory a job reads meets its code errors (R438). -/
def edgeReads (s : State) (x : Nat) (j : EdgeJob) : State :=
  let f := j.inN.foot
  let s := touchRead s (edgeSrc x) f.1.toNat (f.2 - f.1 + 1).toNat 0
  let cout := j.outN.e 0
  let s := touchRead s (edgeSrc x) (edgeBase x + j.woff) (cout * j.kh * j.kw * j.inN.e 0) 0
  touchRead s (edgeSrc x) (edgeBase x + j.boff) (4 * cout) 0

/-- EDGE_JOB_COMPLETE: once the writes accepted before the take are performed, the job reads, writes, signals
OGATE, reports and writes CODE, in that order (R276). -/
def edgeComplete (s : State) (x : Nat) : State :=
  match s.edgeJob x with
  | none => s
  | some j =>
    if ! j.taken || s.pend.any fun w => w.slot.isSome && decide (w.seq < j.sync) then s
    else
      let s := edgeReads (s.setEdgeJob x none) x j
      let r := edgeRun s x j
      let s := bulkPerform s (edgeSrc x) r.1
      let s := if j.sig then signalHandle s (edgeSrc x) j.ogate (BitVec.ofNat 32 (bitsOf (j.w 3) 63 32)) else s
      let s := if j.evt then event s j.evq 0x1001 (edgeSrc x) (j.idx.getD 0) else s
      let s := edgeCode s x j (if r.1.marked.isEmpty then 1 else 2) 0 (min r.2 (2 ^ 32 - 1))
      s.wrapAdd EDG_RING.DONE x 1

/-- A job that waits leaves the waiters and ends ABORTED; one that has taken its amount is cut short (R279). -/
def edgeEnd (s : State) (x : Nat) (j : EdgeJob) : State :=
  let s := s.setEdgeJob x none
  let s := if j.taken then bulkAbort s (edgeSrc x) (edgeRun s x j).1 else leaveGates s (edgeSrc x)
  edgeCode s x j 4 0 0

/-- EDG_CTL.ABORT (R279, R488). -/
def edgeAbort (s : State) (x : Nat) : State :=
  let s := match s.edgeJob x with
    | some j => edgeEnd s x j
    | none => s
  (s.setBit EDG_CTL.EN x false).setFld EDG_RING.STATE x 2

/-- EN written 1 while DISABLED (R488). -/
def edgeEnable (s : State) (x : Nat) : State :=
  if s.fld EDG_RING.STATE x = 2 then s.setFld EDG_RING.STATE x 0 else s

/-- EN written 0: the engine takes no further job, and a job that waits for IGATE ends ABORTED (R279). -/
def edgeDrain (s : State) (x : Nat) : State :=
  if s.fld EDG_RING.STATE x = 0 then
    let s := s.setFld EDG_RING.STATE x 1
    match s.edgeJob x with
    | some j => if j.taken then s else edgeEnd s x j
    | none => s
  else s

/-- The drained engine becomes DISABLED once no job is in progress (R488). -/
def edgeDrained (s : State) (x : Nat) : State :=
  if s.fld EDG_RING.STATE x = 1 ∧ (s.edgeJob x).isNone then s.setFld EDG_RING.STATE x 2 else s

end Sys2Proof.Machine
end

