-- ==== Sys2Proof/Machine/XClass.lean ====
section
/-! DEFINITION. The X-class instructions: moves, the noun table, gates, checks, posts and fences (R97-R105). -/

namespace Sys2Proof.Machine

/-- A register operand that must not be poisoned; kind 1 for an address, 8 for a decision operand (R74,
R447). -/
def cleanG (x : Ctx) (r : BitVec 5) (kind : Nat) : Except Hold Word := do
  let g := x.b.readG r
  trapIf g.p (trPoisonReg r.toNat false kind)
  pure g.v

/-! ## Moves (R98, R99, R169, R171) -/

/-- The moves of an engine not yet complete: mover, whether the mover has accepted it, descriptor. -/
def engineMoves (s : State) (e : Fin 256) : List (MoverId × Bool × MvDesc) :=
  let own := fun (d : MvDesc) => match d.origin with
    | .engine f _ => f == e.val
    | _ => false
  ([MoverId.engine e] ++ (upFrom 0 4).map fun q => MoverId.ring (Fin.ofNat 12 q)).flatMap fun m =>
    let k := s.mover m
    ((k.prog.filter own).map fun d => (m, true, d)) ++ ((k.handoff.filter own).map fun d => (m, false, d))

/-- The memory a move writes: a Basin, the Cistern or HBM (R171). -/
def moveMem (s : State) (d : MvDesc) : Region := s.region d.dstN.base

/-- A region is some Basin. -/
def Region.isBasin : Region → Bool
  | .basin _ => true
  | _ => false

/-- Every byte of a noun's footprints passes a test of regions. -/
def nounIn (s : State) (p : Region → Bool) (n : Noun) : Bool := (footsOf n).all (footIn s p)

/-- The mover of a move: the engine's when both nouns lie in the engine's reach, the quadrant mover of the
first Cistern byte between HBM and the Cistern, with scale arrays in either, none otherwise (R98; assumption
log 14). -/
def moveRoute (s : State) (e : Fin 256) (src dst : Noun) : Option MoverId :=
  let near := nounIn s (engineReaches e.val false)
  let far := nounIn s (fun r => decide (r = .hbm) || decide (r = .cistern))
  let hbm := fun (n : Noun) => footIn s (fun r => decide (r = .hbm)) n.foot && far n
  let cis := fun (n : Noun) => footIn s (fun r => decide (r = .cistern)) n.foot && far n
  let quad := fun (n : Noun) => MoverId.ring (Fin.ofNat 12 (quadOf n.foot.1.toNat))
  if near src && near dst then some (.engine e)
  else if hbm src && cis dst then some (quad dst)
  else if cis src && hbm dst then some (quad src)
  else none

/-- The reason of the first check of its nouns that a move fails after the footprint checks (R98, R169). -/
def moveReason (s : State) (e : Fin 256) (src dst : Noun) : Option Nat :=
  if ! copyAgrees src dst then some 0x06
  else if (footsOf src).any fun f => (footsOf dst).any (overlaps f) then some 0x0E
  else if 2 ^ 26 < dst.bytesOf then some 0x0F
  else if (moveRoute s e src dst).isNone then some 0x07
  else none

/-- A move reaches its mover (R165, R167). -/
def submitMove (s : State) (e : Fin 256) (m : MoverId) (d : MvDesc) : State :=
  let k := s.mover m
  let s := match m with
    | .engine _ => chargeDesc (s.setMover m { k with prog := k.prog ++ [d] }) m d
    | .ring _ => s.setMover m { k with handoff := k.handoff ++ [d] }
  s.modCore (.eng e) fun k => { k with moves := k.moves + 1 }

/-- The mover has no room for another move (R165). -/
def moverFull (s : State) (m : MoverId) : Bool :=
  match m with
  | .engine _ => decide (moverDepth m ≤ (s.mover m).prog.length)
  | .ring _ => decide (32 ≤ (s.mover m).handoff.length)

/-- `move nd,na,gr` (R98). -/
def moveEff (x : Ctx) (s : State) (e : Fin 256) (nd na : BitVec 6) (gr : BitVec 5) : Res := do
  let h ← cleanG x gr 1
  moveChecks x s [(nd.toNat, .wr), (na.toNat, .rd)]
  let sw := x.b.noun na.toNat
  let dw := x.b.noun nd.toNat
  match moveReason s e (nounOf sw) (nounOf dw), moveRoute s e (nounOf sw) (nounOf dw) with
  | some r, _ => raise (trNoun nd.toNat false r)
  | none, none => raise (trNoun nd.toNat false 0x07)
  | none, some m =>
    trapIf (! handleOkEngine h false) { trAccess 0 with detail := h }
    let d := buildDesc (.engine e.val (s.core x.c).moves) true (handleOfEngine e.val h) (engineQ s e.val) e.val 0 sw dw
    waitIf ((engineMoves s e).any fun v => v.1 != m && moveMem s v.2.2 == moveMem s d)
    waitIf (moverFull s m)
    pure (submitMove s e m d)

/-- `pref na`: the checks of a read, and no effect (R99). -/
def prefEff (x : Ctx) (s : State) (na : BitVec 6) : Res := do
  moveChecks x s [(na.toNat, .rd)]
  pure s

/-! ## The noun table (R97) -/

/-- The address checks of `nld` and `nst`. -/
def nounAddr (x : Ctx) (s : State) (e : Fin 256) (r : Right) (gr : BitVec 5) : Except Hold Nat := do
  let g ← cleanG x gr 1
  trapIf (decide (g.toNat % 64 ≠ 0)) (trAlign g.toNat)
  trapIf (! accessOkV s e r g.toNat 64) (trAccess g.toNat)
  pure g.toNat

/-- `nld nd,[gr]` -/
def nldEff (x : Ctx) (s : State) (e : Fin 256) (nd : BitVec 6) (gr : BitVec 5) : Res := do
  let a ← nounAddr x s e .rd gr
  waitIf (loadWaits x.b (span a 64))
  x.lateIf (loadWaits (s.core x.c) (span a 64))
  let r := coreRead s x.c a 64
  match r.2.firstPoison a 64 with
  | some w => raise (trPoisonWord w 1)
  | none => pure (r.1.modCore x.c fun k => k.setNoun nd.toNat (r.2.words a 8))

/-- `nst [gr],na` -/
def nstEff (x : Ctx) (s : State) (e : Fin 256) (na : BitVec 6) (gr : BitVec 5) : Res := do
  let a ← nounAddr x s e .wr gr
  waitIf (storeWaits x.b (span a 64))
  x.lateIf (storeWaits (s.core x.c) (span a 64))
  pure (coreWrite s x.c (atAddr a ((x.b.noun na.toNat).flatMap fun w => leBytes 8 w.toNat)) fun _ => false)

/-- `nrd gr,na,w` -/
def nrdEff (x : Ctx) (s : State) (gr : BitVec 5) (na : BitVec 6) (w : BitVec 3) : Res :=
  pure (s.modCore x.c fun k => k.writeG gr ⟨(x.b.noun na.toNat).getD w.toNat 0, false⟩)

/-- `nwr nd,w,gr` -/
def nwrEff (x : Ctx) (s : State) (nd : BitVec 6) (w : BitVec 3) (gr : BitVec 5) : Res := do
  let g ← cleanG x gr 1
  pure (s.modCore x.c fun k => k.setNounWord nd.toNat w.toNat g)

/-- `nadd nd,na,gr` -/
def naddEff (x : Ctx) (s : State) (nd na : BitVec 6) (gr : BitVec 5) : Res := do
  let g ← cleanG x gr 1
  let ws := x.b.noun na.toNat
  let w0 := ws.getD 0 0
  let w0' := putBits w0 39 0 ((bitsOf w0 39 0 + g.toNat) % 2 ^ 40)
  pure (s.modCore x.c fun k => k.setNoun nd.toNat (w0' :: ws.tail))

/-! ## Gates, checks and posts (R100-R104) -/

/-- ACCESS with the handle in EDETAIL (R100). -/
def trHandle (h : Word) : Trap := { cls := 3, detail := h }

/-- A verb with a memory destination is in flight (R101, R104). -/
def memVerbs (k : CoreSt) : Bool := k.inFlight.any fun v => ! (verbFeet v).dst.isEmpty

/-- A store or verb output of the engine, those of its own clause among them, is not yet accepted or complete. -/
def ownPending (x : Ctx) (s : State) : Bool := ! storesAccepted s x.e || memVerbs (s.core x.c)

/-- `gsig ga,gb` (R101): it announces no unfinished work, that of its own clause included. -/
def gsigEff (x : Ctx) (s : State) (e : Fin 256) (ga gb : BitVec 5) : Res := do
  let h ← cleanG x ga 1
  let amt ← cleanG x gb 8
  trapIf (! handleOkEngine h false) (trHandle h)
  waitIf (! x.calm || memVerbs x.b)
  x.lateIf (ownPending x s)
  pure (signalGate s (handleKey (handleOfEngine e.val h)) e.val h.toNat x.b.pc (amt.setWidth 32))

/-- The checks of `gwait`: its gate's key and its amount (R102). -/
def gwaitArgs (x : Ctx) (e : Fin 256) (ga gb : BitVec 5) : Except Hold (Nat × Nat) := do
  let h ← cleanG x ga 1
  let amt := (x.b.readG gb).v.toNat
  trapIf (decide (2 ^ 31 ≤ amt)) trIllegal
  trapIf (! handleOkEngine h false) (trHandle h)
  pure (handleKey (handleOfEngine e.val h), amt)

/-- The moment up to which `fence.acq` orders: the last completed `gwait` or `chka` (R105). -/
def syncPoint (s : State) (c : Core) : State := s.modCore c fun k => { k with sync := s.accSeq }

/-- `gwait ga,gb`, once its gate has served it (R102). -/
def gwaitEff (x : Ctx) (s : State) (e : Fin 256) (ga gb : BitVec 5) : Res := do
  let _ ← gwaitArgs x e ga gb
  pure (syncPoint s x.c)

/-- The checks of `chka`: its check's key (R103, R197). -/
def chkaArgs (x : Ctx) (s : State) (e : Fin 256) (ga : BitVec 5) : Except Hold Nat := do
  let h ← cleanG x ga 1
  trapIf (! handleOkEngine h true) (trHandle h)
  let k := handleKey (handleOfEngine e.val h)
  trapIf (! x.b.arrived && decide (partOf s k = 0)) (trHandle h)
  pure k

/-- `chka ga`, once its round has released it (R103). -/
def chkaEff (x : Ctx) (s : State) (e : Fin 256) (ga : BitVec 5) : Res := do
  let _ ← chkaArgs x s e ga
  waitIf (! x.b.arrived && (! x.calm || memVerbs x.b))
  pure (syncPoint s x.c)

/-- A handle that `post` accepts: REMOTE and MOD choose the module (R100). -/
def handleOkPost (h : Word) : Bool := handleOkUnit (putBits h 19 17 0) false

/-- The post stays in this module (R199). -/
def postLocal (s : State) (h : Word) : Bool :=
  ! h.getLsbD 19 || decide (bitsOf h 18 17 = s.fld DVL_GRP.IDX 0)

/-- A post of this module (R199). -/
def localPost (x : Ctx) (s : State) (e : Fin 256) (h : Word) (amt : BitVec 32) : Post :=
  { src := e.val, pc := x.b.pc, handle := h, amt := amt,
    counts := (upFrom 0 4).map fun q => tget (fun _ => 0) (s.core x.c).fence q, ns := s.totalNs }

/-- `post ga,gb` (R104, R199, R200). -/
def postEff (x : Ctx) (s : State) (e : Fin 256) (ga gb : BitVec 5) : Res := do
  let h ← cleanG x ga 1
  let amt ← cleanG x gb 8
  trapIf (! handleOkPost h) (trHandle h)
  trapIf (postLocal s h && keyIsolated s (handleKey (putBits h 19 17 0))) (trHandle h)
  waitIf (memVerbs x.b)
  x.lateIf (memVerbs (s.core x.c))
  waitIf ((engineMoves s e).any fun v => (moveMem s v.2.2).isBasin || ! v.2.1)
  if postLocal s h then
    waitIf (decide (64 ≤ s.sluice.length))
    pure (enterSluice s (localPost x s e h (amt.setWidth 32)))
  else pure (remotePost s e.val h (amt.setWidth 32))

/-! ## Fences (R105) -/

/-- `fence.rel`: what its own clause stores and starts is earlier than its retirement too. -/
def fenceRelEff (x : Ctx) (s : State) (e : Fin 256) : Res := do
  waitIf (! x.calm || memVerbs x.b || ! (engineMoves s e).isEmpty)
  x.lateIf (ownPending x s)
  pure s

/-- `fence.acq`. -/
def fenceAcqEff (x : Ctx) (s : State) : Res := do
  waitIf (s.pend.any fun w => w.slot.isSome && decide (w.seq < x.b.sync))
  pure s

end Sys2Proof.Machine
end

