-- ==== Sys2Proof/Machine/Bfv.lean ====
section
/-! DEFINITION. Block-float values, the arithmetic of the Servo Engine, and the fields of payloads that its
bindings and the seal unit read (R331-R333, R339, R342, R416, R520). -/

namespace Sys2Proof.Machine

/-- A block-float value: exponent in [31:24], two's-complement mantissa in [23:0] (R331). -/
abbrev Bfv := BitVec 32

/-- A term: an exact integer with a power of two (R332). -/
structure Term where
  t : Int
  f : Int
deriving DecidableEq, Repr

def Bfv.mant (b : Bfv) : Int := (b.extractLsb' 0 24).toInt
def Bfv.exp (b : Bfv) : Nat := (b.extractLsb' 24 8).toNat

/-- A value used as a term. -/
def Bfv.term (b : Bfv) : Term := ⟨b.mant, (b.exp : Int) - 150⟩

/-- The product of two values, as a term. -/
def bfMul (a b : Bfv) : Term := ⟨a.mant * b.mant, (a.exp : Int) + b.exp - 300⟩

/-- The negative of a term. -/
def Term.neg (x : Term) : Term := ⟨-x.t, x.f⟩

/-- A mantissa and an exponent as a block-float word. -/
def bfPack (m : Int) (e : Nat) : Bfv :=
  if m = 0 then 0 else BitVec.ofNat 32 ((m % 2 ^ 24).toNat + e * 2 ^ 24)

/-- The magnitude m * 2^f, with a tail below m when `st`, rounded to a mantissa at exponent e. -/
def bfMant (s : Bool) (m : Nat) (f : Int) (st : Bool) (e : Nat) : Nat :=
  (rndAt 0 s m f ((e : Int) - 150) st).1

/-- norm (R332) of (-1)^s * (m + tail) * 2^f: the value and whether it saturated. -/
def bfNorm (s : Bool) (m : Nat) (f : Int) (st : Bool) : Bfv × Bool :=
  if m = 0 && ! st then (0, false)
  else
    let sg : Int := if s then -1 else 1
    let e0 := ((m.log2 : Int) + 1 + f + 127).toNat
    match [e0, e0 + 1].find? fun e => decide (bfMant s m f st e < 2 ^ 23) with
    | some e => if e ≤ 255 then (bfPack (sg * bfMant s m f st e) e, false)
        else (bfPack (sg * (2 ^ 23 - 1)) 255, true)
    | none => (bfPack (sg * (2 ^ 23 - 1)) 255, true)

/-- norm of an exact integer times a power of two. -/
def bfNormInt (a f : Int) : Bfv × Bool := bfNorm (decide (a < 0)) a.natAbs f false

/-- Number of bits of a magnitude. -/
def bitLen (n : Nat) : Nat := if n = 0 then 0 else n.log2 + 1

/-- t * 2^k, truncated toward minus infinity. -/
def floorShift (t k : Int) : Int := if 0 ≤ k then t * 2 ^ k.toNat else t.fdiv (2 ^ (-k).toNat)

/-- bfsum (R332). -/
def bfSum (l : List Term) : Bfv × Bool :=
  match l.filter fun x => decide (x.t ≠ 0) with
  | [] => (0, false)
  | x :: r =>
    let top := fun (y : Term) => y.f + bitLen y.t.natAbs
    let fl := r.foldl (fun a y => max a (top y)) (top x) - 52
    bfNormInt ((x :: r).foldl (fun (a : Int) y => a + floorShift y.t (y.f - fl)) 0) fl

/-- The exact quotient of two values, rounded once; the divisor is positive (R334). -/
def bfDiv (a b : Bfv) : Bfv × Bool :=
  let n := a.mant.natAbs * 2 ^ 64
  let d := b.mant.natAbs
  bfNorm (decide (a.mant < 0)) (n / d) ((a.exp : Int) - b.exp - 64) (decide (n % d ≠ 0))

/-- a < b as numbers. -/
def bfLt (a b : Bfv) : Bool :=
  let e := min a.exp b.exp
  decide (a.mant * 2 ^ (a.exp - e) < b.mant * 2 ^ (b.exp - e))

/-- 1.0 -/
def bfOne : Bfv := 0x80400000

/-- A block-float value as an exact number. -/
def Bfv.val (b : Bfv) : FVal := .fin (decide (b.mant < 0)) b.mant.natAbs ((b.exp : Int) - 150)

/-- A block-float value as FP32, rounded to nearest even and saturating (R342, R349). -/
def bfToF32 (b : Bfv) (shift : Int) : Nat :=
  let r := roundFin .f32 0 false (decide (b.mant < 0)) b.mant.natAbs ((b.exp : Int) - 150 + shift) false
  if r.2 &&& flOF ≠ 0 then FFmt.f32.signBits (decide (b.mant < 0)) + FFmt.f32.maxBits else r.1

/-! ## Stages (R333) -/

/-- The shared exponent of four values and their mantissas at it; whether one was clamped. -/
def bfShare (l : List Term) : Nat × List Int × Bool :=
  let norm := fun (x : Term) => (bfNormInt x.t x.f).1
  let top := l.foldl (fun m x => max m (norm x).exp) 0
  let at_ := fun (se : Nat) => l.map fun x =>
    (if x.t < 0 then -1 else 1) * (bfMant (decide (x.t < 0)) x.t.natAbs x.f false se : Int)
  let big := fun (ms : List Int) => ms.any fun m => decide (2 ^ 23 ≤ m.natAbs)
  if l.all fun x => decide (x.t = 0) then (0, l.map fun _ => 0, false)
  else if ! big (at_ top) then (top, at_ top, false)
  else if top < 255 then (top + 1, at_ (top + 1), false)
  else (255, (at_ 255).map fun m => max (-(2 ^ 23 - 1)) (min (2 ^ 23 - 1) m), true)

/-- A field of a stage's registers, as a signed mantissa. -/
def mant24 (w : Word) (lo : Nat) : Int := (w.extractLsb' lo 24).toInt

/-- One stage: coefficient words, state words and input; the output, the new state words, whether norm
saturated. -/
def bfStage (c0 c1 c2 s0 s1 : Word) (x : Bfv) : Bfv × Word × Word × Bool :=
  let ce := (bitsOf c0 55 48 : Int) - 150
  let se := (bitsOf s0 55 48 : Int) - 150
  let b0 := mant24 c0 0
  let b1 := mant24 c0 24
  let b2 := mant24 c1 0
  let a1 := mant24 c1 24
  let a2 := mant24 c2 0
  let x1 := mant24 s0 0
  let x2 := mant24 s0 24
  let y1 := mant24 s1 0
  let y2 := mant24 s1 24
  let y := bfSum [⟨b0 * x.mant, ce + x.exp - 150⟩, ⟨b1 * x1, ce + se⟩, ⟨b2 * x2, ce + se⟩, ⟨-(a1 * y1), ce + se⟩,
    ⟨-(a2 * y2), ce + se⟩]
  let sh := bfShare [x.term, ⟨x1, se⟩, y.1.term, ⟨y1, se⟩]
  let m := fun i => (sh.2.1.getD i 0 % 2 ^ 24).toNat
  (y.1, w64 (m 0 + m 1 * 2 ^ 24 + sh.1 * 2 ^ 48), w64 (m 2 + m 3 * 2 ^ 24), y.2 || sh.2.2)

/-! ## Fields of payloads (R339, R342) -/

/-- Bytes of a field format. -/
def fieldSize (fmt : Nat) : Nat := if fmt ≤ 1 then 2 else 4

/-- The raw field at an offset of a payload; bytes beyond the payload read as 0. -/
def fieldRaw (data : List Byte) (off fmt : Nat) (be : Bool) : Nat :=
  let bs := (upFrom off (fieldSize fmt)).map fun i => data.getD i 0
  leNat (if be then bs.reverse else bs)

/-- The exact value of a field; NaN and infinities are values too. -/
def fieldVal (data : List Byte) (off fmt : Nat) (be : Bool) : FVal :=
  let x := fieldRaw data off fmt be
  match fmt with
  | 0 => fInt (bitsInt 16 true x)
  | 1 => fInt x
  | 2 => fInt (bitsInt 32 true x)
  | _ => fDecode .f32 x

/-- An exact finite value times a power of two enters a loop (R520); none for NaN and infinities. -/
def bfOfVal (v : FVal) (shift : Int) : Option (Bfv × Bool) :=
  match v with
  | .fin s m e => some (bfNorm s m (e + shift) false)
  | _ => none

/-- An output field: the raw bits of u times a power of two in a format, and whether an integer saturated
(R342). -/
def fieldOut (u : Bfv) (shift : Int) (fmt : Nat) : Nat × Bool :=
  if fmt = 3 then (bfToF32 u shift, false)
  else
    let s := decide (u.mant < 0)
    let q := (rndAt 0 s u.mant.natAbs ((u.exp : Int) - 150 + shift) 0 false).1
    let v : Int := if s then -q else q
    let w := 8 * fieldSize fmt
    let c := max (intMin w (decide (fmt ≠ 1))) (min (intMax w (decide (fmt ≠ 1))) v)
    (intBits w c, decide (c ≠ v))

/-- The bytes of an output field in a payload's byte order. -/
def fieldBytes (raw fmt : Nat) (be : Bool) : List Byte :=
  let bs := leBytes (fieldSize fmt) raw
  if be then bs.reverse else bs

end Sys2Proof.Machine
end

