-- ==== Sys2Proof/Machine/Seal.lean ====
section
/-! DEFINITION. What the frame units share: arrivals latched for the Servo Engine, inputs handed to the
journal, designated frames of the lock-step comparison, the Ditch Rider's inbox, and the seal unit (R340,
R395-R397, R404, R411, R415-R418). -/

namespace Sys2Proof.Machine

/-! ## Arrivals (R340, R375) -/

/-- Key of a source of arrivals: binding kind 1-3, unit, mailbox or slot. -/
def arrKey (kind unit mbx : Nat) : Nat := kind * 2 ^ 16 + unit * 2 ^ 8 + mbx

def State.arrivalsOf (s : State) (kind unit mbx : Nat) : List Arrival :=
  tget (fun _ => []) s.arrivals (arrKey kind unit mbx)

/-- Latches an arrival; the four newest are kept. -/
def latch (s : State) (kind unit mbx stamp : Nat) (data : List Byte) : State :=
  let l := (⟨stamp, data, s.arrNum⟩ :: s.arrivalsOf kind unit mbx).take 4
  { s with arrivals := tput (fun _ => []) s.arrivals (arrKey kind unit mbx) l, arrNum := s.arrNum + 1 }

/-- Stamp a lies at or before stamp t (R340, R354). -/
def atOrBefore (a t : Nat) : Bool := decide (0 ≤ stampDiff a t)

/-- The newest kept arrival stamped at or before t. -/
def arrivalAt (s : State) (kind unit mbx t : Nat) : Option Arrival :=
  (s.arrivalsOf kind unit mbx).foldl (fun best a =>
    if ! atOrBefore a.stamp t then best
    else match best with
      | none => some a
      | some b => if stampDiff b.stamp a.stamp ≤ 0 then some b else some a) none

/-! ## The journal's inputs (R395, R397, R400) -/

/-- The journal records. -/
def recording (s : State) : Bool := decide (s.fld JNL_CTL.STATE 0 = 0) && ! s.bit JNL_CTL.MODE 0

/-- Replay runs and the input ports are disconnected. -/
def replaying (s : State) : Bool := s.bit DET_STAT.REPLAYING 0

/-- An input reaches the journal (R395, R396). -/
def journalIn (s : State) (kind src stamp : Nat) (payload : List Byte) (psn : List Nat := []) (flags : Nat := 0) : State :=
  if recording s then
    let d := (s.stamp + 2 ^ 32 - stamp) % 2 ^ 32
    { s with jnl := { s.jnl with held := s.jnl.held ++ [⟨kind, src, stamp, d, payload, psn, flags, []⟩] } }
  else s

/-- A transmitted frame's TX record, when outputs are recorded; it is made in replay too (R395, R400). -/
def journalTx (s : State) (src stamp code : Nat) (payload : List Byte) : State :=
  if decide (s.fld JNL_CTL.STATE 0 = 0) && s.bit JNL_CTL.OUTS 0 then
    let d := (s.stamp + 2 ^ 32 - stamp) % 2 ^ 32
    { s with jnl := { s.jnl with held := s.jnl.held ++
        [⟨0x10, src, stamp, d, leBytes 8 (src + code * 2 ^ 16) ++ payload, [], 0, []⟩] } }
  else s

/-! ## Designated frames (R404) -/

/-- The frames of a source are designated: a CAN controller of CMASK or an Ethernet port of EMASK. -/
def designated (s : State) (src : Nat) : Bool :=
  s.bit DET_LS.EN 0 &&
    (if src / 0x1000 = 7 then (s.fld DET_LS.CMASK 0).testBit (src % 8)
     else (s.fld DET_LS.EMASK 0).testBit (src % 4))

/-- A designated frame fills its launch buffer; one that it replaces never enters a digest. -/
def lsFill (s : State) (src mbx stamp : Nat) : State :=
  let l := s.ls.frames.filter fun f => ! (f.src == src && f.mbx == mbx && f.code.isNone)
  if designated s src then { s with ls := { s.ls with frames := l ++ [{ stamp := stamp, src := src, mbx := mbx }] } }
  else s

/-- A designated frame reaches its final code; a transmitted one enters with its payload. -/
def lsFinal (s : State) (src mbx code : Nat) (sent : Bool) (payload : List Byte) : State :=
  { s with ls := { s.ls with frames := s.ls.frames.map fun f =>
      if f.src == src && f.mbx == mbx && f.code.isNone then
        { f with code := some code, payload := if sent then payload else [] }
      else f } }

/-! ## The inbox (R411) -/

/-- A record enters the inbox, or is dropped and counted when the ring is full. -/
def inboxPut (s : State) (w0 w1 : Word) : State :=
  if 256 ≤ s.drd.wr - s.drd.rd then s.satAdd DRD_STAT.INBOXLOST 0 1
  else
    let a := drdBase + 0x3F000 + 16 * (s.drd.wr % 256)
    let s := (s.store a 8 w0.toNat).store (a + 8) 8 w1.toNat
    let s := { s with drd := { s.drd with wr := s.drd.wr + 1 } }
    s.setFld DRD_STAT.WAITING 0 (min 255 (s.drd.wr - s.drd.rd))

/-! ## Guarded streams (R415-R418) -/

/-- The module is in safe state, which includes the time from a reset until R431 is met. -/
def inSafe (s : State) : Bool := s.bit DRD_SAFE.STATE 0

/-- The stream that guards a mailbox or a servo slot. -/
def streamOf (s : State) (kind unit mbx : Nat) : Option Nat :=
  (upFrom 0 64).find? fun i => s.bit DRD_GS0.EN i && decide (s.fld DRD_GS0.KIND i = kind) &&
    decide (s.fld DRD_GS0.UNIT i = unit) && decide (s.fld DRD_GS0.MBX i = mbx)

def State.sealSt (s : State) (i : Nat) : SealSt := tget (fun _ => {}) s.drd.streams i

def State.setSeal (s : State) (i : Nat) (x : SealSt) : State :=
  { s with drd := { s.drd with streams := tput (fun _ => {}) s.drd.streams i x } }

/-- The configuration word of field f of a stream. -/
def gsField (s : State) (i f : Nat) : Word := s.reg (if f = 0 then .DRD_GS1 else .DRD_GS3) i

/-- The bounds word of field f. -/
def gsBound (s : State) (i f : Nat) : Word := s.reg (if f = 0 then .DRD_GS2 else .DRD_GS4) i

/-- The raw value of field f of a payload. -/
def gsRaw (s : State) (i f : Nat) (data : List Byte) : Nat :=
  let w := gsField s i f
  fieldRaw data (bitsOf w 5 0) (bitsOf w 7 6) (w.getLsbD 8)

/-- The exact value of a raw field. -/
def gsVal (fmt raw : Nat) : FVal :=
  match fmt with
  | 0 => fInt (bitsInt 16 true raw)
  | 1 => fInt raw
  | 2 => fInt (bitsInt 32 true raw)
  | _ => fDecode .f32 raw

/-- a ≤ b, both numbers. -/
def fLe (a b : FVal) : Bool := ! a.isNaN && ! b.isNaN && decide (fOrd a b ≠ .gt)

/-- a > b, both numbers. -/
def fGt (a b : FVal) : Bool := ! a.isNaN && ! b.isNaN && decide (fOrd a b = .gt)

/-- |a - b|. -/
def fDist (a b : FVal) : FVal := fMag (fDiff a b)

/-- The measurement of a stream's envelope at an instant; none when it is stale (R416). -/
def gsMeas (s : State) (i t : Nat) : Option FVal :=
  let w := s.reg .DRD_GS5 i
  match arrivalAt s (bitsOf w 2 0) (bitsOf w 5 3) (bitsOf w 12 6) t with
  | none => none
  | some a =>
    let age := bitsOf w 63 40
    if age ≠ 0 ∧ (age * 1000 : Int) < stampDiff a.stamp t then none
    else match fieldVal a.data (bitsOf w 18 13) (bitsOf w 20 19) (w.getLsbD 21) with
      | .fin sg m e => some (.fin sg m (e + (w.extractLsb' 22 8).toInt))
      | _ => none

/-- The result of the seal unit's own checks of a payload (R416), without the firmware's verdict. -/
def judge (s : State) (i : Nat) (data : List Byte) (t : Nat) : Nat :=
  let on := (upFrom 0 2).filter fun f => (gsField s i f).getLsbD 9
  let val := fun f => gsVal (bitsOf (gsField s i f) 7 6) (gsRaw s i f data)
  let f32 := fun (n : Nat) => fDecode .f32 n
  let inside := fun f => fLe (f32 (bitsOf (gsBound s i f) 31 0)) (val f) &&
    fLe (val f) (f32 (bitsOf (gsBound s i f) 63 32))
  let last := (s.sealSt i).last
  let jumps := fun f =>
    let r := bitsOf (gsField s i f) 63 32
    ! (f32 r).isZero && ! last.isEmpty &&
      fGt (fDist (val f) (gsVal (bitsOf (gsField s i f) 7 6) (last.getD f 0))) (f32 r)
  if inSafe s then 7
  else if ! on.all inside then 1
  else if on.any jumps then 2
  else if ! s.bit DRD_GS0.ENV i then 0
  else match gsMeas s i t with
    | none => 4
    | some m =>
      let zero := FVal.fin false 0 0
      if (fGt (val 0) zero && fGt m (f32 (s.fld DRD_GS6.PHI i))) ||
          (fGt zero (val 0) && fGt (f32 (s.fld DRD_GS6.PLO i)) m) then 3 else 0

/-- CRC-16, polynomial 0x1021, most significant bit first (R417). -/
def crc16 (seed : Nat) (bs : List Byte) : Nat :=
  bs.foldl (fun c b => (upFrom 0 8).foldl (fun c _ =>
    (if 0x8000 ≤ c then (c * 2) ^^^ 0x1021 else c * 2) % 2 ^ 16) (c ^^^ (b.toNat * 256))) seed

/-- The payload with its seal (R417). -/
def sealed (s : State) (i : Nat) (data : List Byte) (result : Nat) : List Byte :=
  let off := s.fld DRD_GS0.SOFF i
  let cnt := s.fld DRD_GS7.CNT i
  let stat := if result = 0 then 0x5A else 0xA5
  let rest := data.take off ++ data.drop (off + 4)
  let c := crc16 (s.fld DRD_GS0.SEED i)
    ([BitVec.ofNat 8 i, BitVec.ofNat 8 cnt, BitVec.ofNat 8 stat] ++ rest)
  data.take off ++ [BitVec.ofNat 8 cnt, BitVec.ofNat 8 stat] ++ leBytes 2 c ++ data.drop (off + 4)

/-- Records a sealing with its result (R415). -/
def countSeal (s : State) (i result : Nat) : State :=
  let s := s.setFld DRD_GS7.LAST i result
  if result = 0 then s else s.satAdd DRD_GS7.NFAIL i 1

/-- Source id of every unit of island 32 (R515). -/
def drdSrc : Nat := 0xA000

/-- A buffer of a guarded stream is filled: the frame is judged; with FW clear it is sealed, with FW set its
ticket goes to the inbox. A record holds the ticket in detail [15:0]; the rest of its detail and its code are
free (R411, R416, R418; assumption log 20). -/
def sealFill (s : State) (kind unit mbx : Nat) (data : List Byte) (t : Nat) : State × List Byte :=
  match streamOf s kind unit mbx with
  | none => (s, data)
  | some i =>
    let r := judge s i data t
    let x := s.sealSt i
    let x := { x with now := (upFrom 0 2).map fun f => gsRaw s i f data, hw := r, ticket := none }
    let s := if 1 ≤ r ∧ r ≤ 4 then detect s 3 drdSrc else s
    if s.bit DRD_GS0.FW i then
      let d := s.free
      let s := s.useFree
      let w0 := w64 (s.stamp + drdSrc * 2 ^ 32 + s.free.toNat % 2 ^ 16 * 2 ^ 48)
      let s := (s.useFree.setSeal i { x with ticket := some (d.toNat % 2 ^ 16) })
      (inboxPut s w0 d, data)
    else (countSeal (s.setSeal i x) i r, sealed s i data r)

/-- A buffer of a guarded stream is replaced or discarded: its ticket is cancelled (R418). -/
def sealCancel (s : State) (kind unit mbx : Nat) : State :=
  match streamOf s kind unit mbx with
  | none => s
  | some i => s.setSeal i { s.sealSt i with ticket := none }

/-- A buffer of a guarded stream becomes ready: without a verdict it takes result 6, a detection of class 4
(R418). -/
def sealReady (s : State) (kind unit mbx : Nat) (data : List Byte) : State × List Byte :=
  match streamOf s kind unit mbx with
  | none => (s, data)
  | some i =>
    let x := s.sealSt i
    if x.ticket.isNone then (s, data)
    else (countSeal (detect (s.setSeal i { x with ticket := none }) 4 drdSrc) i 6, sealed s i data 6)

/-- The frame of a guarded stream starts: in safe state it carries result 7 (R429). -/
def sealStart (s : State) (kind unit mbx : Nat) (data : List Byte) : State × List Byte :=
  match streamOf s kind unit mbx with
  | none => (s, data)
  | some i => if inSafe s then (countSeal s i 7, sealed s i data 7) else (s, data)

/-- A frame of a guarded stream has ended: CNT and NSENT count it when it was sent, and a frame sent with a
valid seal gives the values that the next rate check uses (R415, R416). -/
def sealEnd (s : State) (kind unit mbx : Nat) (data : List Byte) (sent : Bool) : State :=
  match streamOf s kind unit mbx with
  | none => s
  | some i =>
    if ! sent then sealCancel s kind unit mbx
    else
      let valid := (data.getD (s.fld DRD_GS0.SOFF i + 1) 0) == 0x5A
      let s := (s.wrapAdd DRD_GS7.CNT i 1).wrapAdd DRD_GS7.NSENT i 1
      let x := s.sealSt i
      s.setSeal i { x with ticket := none, last := if valid then x.now else x.last }

end Sys2Proof.Machine
end

