-- ==== Sys2Proof/Machine/Tasks.lean ====
section
/-! DEFINITION. Task descriptors, task queues and turnouts; enabling, draining and aborting an engine; the
gating of a waiting engine's clock (R182-R191, R203, R205, R488, R521). -/

namespace Sys2Proof.Machine

/-! ## Descriptors (R182, R183, R186) -/

/-- The sixteen words of a descriptor break a check of R186 other than where the descriptor lies. -/
def taskBad (ws : List Word) : Bool :=
  let w := fun i => ws.getD i 0
  decide (bitsOf (w 0) 63 47 ≠ 0) || decide (bitsOf (w 1) 63 40 ≠ 0) || decide (bitsOf (w 10) 63 44 ≠ 0) ||
  decide (bitsOf (w 11) 15 7 ≠ 0) || decide (bitsOf (w 11) 63 21 ≠ 0) || decide (bitsOf (w 14) 63 45 ≠ 0) ||
  decide (64 < bitsOf (w 0) 46 40) || decide (8 < bitsOf (w 10) 43 40) || decide (16 < bitsOf (w 14) 44 40) ||
  decide (bitsOf (w 0) 1 0 ≠ 0) || decide (bitsOf (w 1) 5 0 ≠ 0) || decide (bitsOf (w 10) 3 0 ≠ 0) ||
  decide (bitsOf (w 14) 3 0 ≠ 0) || decide (5 ≤ bitsOf (w 11) 18 16)

/-- Address of slot i of an engine's task queue (R159). -/
def slotOf (e i : Nat) : Nat := 0x403F000000 + 0x2000 * e + 0x80 * i

/-- A 128-byte-aligned address in the Cistern. -/
def taskPlace (a : Nat) : Bool :=
  decide (a % 128 = 0) && decide (cisternBase ≤ a) && decide (a < 0x4040000000)

/-- Copies a descriptor with its poison marks, as the owner's die sees the source (R186, R188, R191). -/
def copyTask (s : State) (e src dst : Nat) : State :=
  let s := touchRead s e src 128 0
  let v := s.view (dieOf e)
  let bs := (upFrom 0 128).map fun i => (dst + i, v.byte (src + i))
  performG s e bs fun w => v.mark (src + (8 * w - dst))

/-! ## Queues (R186-R190) -/

/-- FE-TQ-REFUSED (R186). -/
def refusePush (s : State) (e a reason : Nat) : State := event s (engineQ s e) 0x0021 e (a + reason * 2 ^ 40)

/-- A push onto an engine's queue (R186). -/
def taskPush (s : State) (e a : Nat) : State :=
  let n := s.fld FE_TQ.COUNT e
  let tail := s.fld FE_TQ.TAIL e
  if 64 ≤ n then refusePush s e a 1
  else if ! taskPlace a || taskBad ((s.view (dieOf e)).words a 16) then refusePush s e a 2
  else
    let s := copyTask s e a (slotOf e tail)
    (s.setFld FE_TQ.TAIL e ((tail + 1) % 64)).setFld FE_TQ.COUNT e (n + 1)

/-- FLAGS of the newest task of a queue. -/
def newestFlags (s : State) (e : Nat) : Word :=
  w64 (bitsOf (s.word (slotOf e ((s.fld FE_TQ.TAIL e + 63) % 64) + 88)) 15 0)

/-- STEAL, ROAM and XDIE of the newest task of a queue, with the implications of R183, PIN and strict mode
applied; 0 when the queue is empty. An isolated engine's tasks are offered to its siblings as if STEAL were
set (R190, R432). -/
def tailFlags (s : State) (e : Nat) : Nat :=
  let f := newestFlags s e
  let iso := s.drd.iso.contains e
  if s.fld FE_TQ.COUNT e = 0 ∨ f.getLsbD 4 then 0
  else if (s.bit DET_STAT.STRICTNOW 0 || f.getLsbD 6) && ! f.getLsbD 3 then 0
  else if f.getLsbD 2 then 7
  else if f.getLsbD 1 then 3
  else if f.getLsbD 0 || iso then 1 else 0

/-- The victims of a turnout in the order of R189, each with its KIND and the flag its newest task must
have. -/
def victims (e : Nat) : List (Nat × Nat × Nat) :=
  let cl := e / 16
  let die := e / 128
  let sib := (upFrom 1 15).map fun i => (16 * cl + (e + i) % 16, 1, 0)
  let mate := (upFrom 1 7).flatMap fun i =>
    (upFrom 0 16).map fun j => (128 * die + 16 * ((cl + i) % 8) + j, 2, 1)
  let far := (upFrom 0 8).flatMap fun i =>
    (upFrom 0 16).map fun j => (128 * (1 - die) + 16 * ((cl + i) % 8) + j, 3, 2)
  sib ++ mate ++ far

/-- A read of FE_TQ_TAKE[e] by engine e: the word it returns (R188, R189). -/
def taskTake (s : State) (e : Nat) : State × Word :=
  let run := s.fld FE_TQ_RUN.RUN e
  if ! taskPlace run then (s, 0)
  else if 0 < s.fld FE_TQ.COUNT e then
    let h := s.fld FE_TQ.HEAD e
    let s := copyTask s e (slotOf e h) run
    let s := (s.setFld FE_TQ.HEAD e ((h + 1) % 64)).setFld FE_TQ.COUNT e (s.fld FE_TQ.COUNT e - 1)
    (workArrives s e, w64 (e + 2 ^ 10))
  else
    match (victims e).find? fun v => (tailFlags s v.1).testBit v.2.2 with
    | none => (s, 0)
    | some (v, kind, _) =>
      let t := (s.fld FE_TQ.TAIL v + 63) % 64
      let s := copyTask s e (slotOf v t) run
      let s := (s.setFld FE_TQ.TAIL v t).setFld FE_TQ.COUNT v (s.fld FE_TQ.COUNT v - 1)
      (workArrives s e, w64 (v + kind * 2 ^ 8 + 2 ^ 10))

/-! ## The state of an engine (R488, R521) -/

/-- EN written 1: a DISABLED engine starts in runtime mode at TRAPVEC. -/
def engineEnable (s : State) (e : Nat) : State :=
  let k := s.core (engine e)
  if k.state = 2 then
    (s.setBit FE_CTL.EN e true).setCore (engine e)
      { ((k.setSpecial 0x020 (w64 k.pc)).setSpecial 0x021 0).setSpecial 0x022 2 with
        runtime := true, state := 0, pc := bitsOf (k.special 0x023) 39 0, rest := none }
  else s

/-- EN written 0: an ENABLED engine drains. -/
def engineDrain (s : State) (e : Nat) : State :=
  let s := s.setBit FE_CTL.EN e false
  s.modCore (engine e) fun k => if k.state = 0 then { k with state := 1 } else k

/-- The engine issues no further clause: what it waited in is left, and what it had received is dropped; what is left
of an issued clause still completes (R203, R521). -/
def engineStop (s : State) (e st : Nat) : State :=
  let s := leaveChecks (leaveGates s e) e
  s.modCore (engine e) fun k =>
    { k with state := st, stream := [], waiting := false, arrived := false, granted := false, gated := false,
             ending := none }

/-- ABORT: the verbs in flight are discarded, and the engine is DISABLED (R62, R203, R521). -/
def engineAbort (s : State) (e : Nat) : State :=
  engineStop ((abortEngineVerbs s e).setBit FE_CTL.EN e false) e 2

/-- A DRAINING engine has reached the first clause in runtime mode that takes a task or dispatches one; the
clause does not issue (R521). -/
def engineDrained (s : State) (e : Nat) : State := engineStop s e 2

/-- ENGINE_CLOCK_GATE: a `gwait` or `chka` clause has waited for THRESH (R205). -/
def engineGate (s : State) (e : Nat) : State :=
  let k := s.core (engine e)
  let waited := k.gateSince.any fun t => decide (t + 100 * s.fld FE_IDLE.THRESH e ≤ s.totalNs)
  if k.waiting ∧ ¬ k.granted ∧ waited ∧ ¬ s.bit FE_IDLE.NOGATE e then
    s.setCore (engine e) { k with gated := true }
  else s

end Sys2Proof.Machine
end

