-- ==== Sys2Proof/Machine/Can.lean ====
section
/-! DEFINITION. The CAN FD bus controllers (R369-R388, R522). -/

namespace Sys2Proof.Machine

/-- Source id of a controller (R515). -/
def canSrc (c : Nat) : Nat := 0x7000 + c

/-- Register instance and key of a mailbox. -/
def mbxAt (c n : Nat) : Nat := 128 * c + n

def State.canSt (s : State) (c : Nat) : CanSt := tget (fun _ => {}) s.can c

def State.setCan (s : State) (c : Nat) (x : CanSt) : State := { s with can := tput (fun _ => {}) s.can c x }

def State.mbxSt (s : State) (c n : Nat) : CanMbx := tget (fun _ => {}) s.mbx (mbxAt c n)

def State.setMbx (s : State) (c n : Nat) (x : CanMbx) : State :=
  { s with mbx := tput (fun _ => {}) s.mbx (mbxAt c n) x }

/-- An event of a controller, to its queue. -/
def canEvent (s : State) (c code detail : Nat) : State := event s (s.fld CB_CTL.EVQ c) code (canSrc c) detail

/-- An event of a controller whose detail no rule gives. -/
def canEventF (s : State) (c code : Nat) : State := eventFree s (s.fld CB_CTL.EVQ c) code (canSrc c)

/-- Key of a register word that can hold a poisoned value. -/
def psnKey (r : RegName) (i : Nat) : Nat := r.ctorIdx * 2 ^ 20 + i

/-- Sets or clears the mark of a register word. -/
def setPsn (s : State) (r : RegName) (i : Nat) (p : Bool) : State :=
  { s with txPsn := if p then sinsert s.txPsn (psnKey r i) else serase s.txPsn (psnKey r i) }

def regPsn (s : State) (r : RegName) (i : Nat) : Bool := s.txPsn.contains (psnKey r i)

/-! ## Frames (R373, R376, R378) -/

/-- Payload length of a DLC by the table of ISO 11898-1. -/
def dlcLen (fdf : Bool) (dlc : Nat) : Nat :=
  if fdf then [0, 1, 2, 3, 4, 5, 6, 7, 8, 12, 16, 20, 24, 32, 48, 64].getD dlc 0 else min dlc 8

/-- Payload bytes that a frame carries; a remote frame carries none. -/
def idLen (id : Word) : Nat :=
  if ! id.getLsbD 31 && id.getLsbD 30 then 0 else dlcLen (id.getLsbD 31) (bitsOf id 36 33)

/-- A frame in the layout of CB_MBX_RXID. -/
def frameWord (f : CanFrame) : Word :=
  w64 (f.id.toNat + (if f.ide then 2 ^ 29 else 0) + (if f.rtr then 2 ^ 30 else 0) + (if f.fdf then 2 ^ 31 else 0) +
    (if f.brs then 2 ^ 32 else 0) + f.dlc.toNat * 2 ^ 33)

/-- Place in bus arbitration: identifier, RTR and IDE in the order of ISO 11898-1; the lower wins. -/
def arbKey (id : Word) : Nat :=
  let rtr := if id.getLsbD 31 then 0 else bitsOf id 30 30
  if id.getLsbD 29 then bitsOf id 28 18 * 2 ^ 21 + 2 ^ 20 + 2 ^ 19 + bitsOf id 17 0 * 2 + rtr
  else bitsOf id 28 18 * 2 ^ 21 + rtr * 2 ^ 20

/-- A nominal bit in clocks of 6.25 ns, for values of CB_NBT (R370). -/
def nomClocks (w : Word) : Nat := (bitsOf w 7 0 + 1) * (3 + bitsOf w 15 8 + bitsOf w 22 16)

/-- A data-phase bit in clocks, for values of CB_DBT. -/
def dataClocks (w : Word) : Nat := (bitsOf w 4 0 + 1) * (3 + bitsOf w 12 8 + bitsOf w 19 16)

/-- The bits of a frame with every possible stuff bit, at the nominal and at the data rate (R378). A remote
frame carries no data. The BRS bit counts as nominal and the CRC delimiter as data. -/
def worstBits (id : Word) (brs : Bool) : Nat × Nat :=
  let n := 8 * idLen id
  let ide := id.getLsbD 29
  if ! id.getLsbD 31 then
    let l := (if ide then 54 else 34) + n
    (l + (l - 1) / 4 + 10, 0)
  else
    let sw := if ide then 36 else 17
    let l := sw + 5 + n
    let crc := if n ≤ 128 then 4 + 17 + 6 else 4 + 21 + 7
    let stuff := (l - 2) / 4
    let early := (sw - 2) / 4
    if brs then (sw + early + 9, l - sw + (stuff - early) + crc + 1) else (l + stuff + crc + 10, 0)

/-- Worst-case duration of a buffer's frame, in clocks. -/
def worstClocks (s : State) (c : Nat) (id : Word) : Nat :=
  let b := worstBits id (id.getLsbD 32 && s.bit CB_CTL.BRSEN c)
  b.1 * nomClocks (s.reg .CB_NBT c) + b.2 * dataClocks (s.reg .CB_DBT c)

/-- Error active, passive, bus-off or in a bus fault. -/
def canEst (s : State) (c : Nat) : Nat := s.fld CB_STAT.EST c

/-! ## Reception (R373-R375) -/

/-- The mailbox matches a frame. -/
def rxMatch (s : State) (c : Nat) (w : Word) (n : Nat) : Bool :=
  let i := mbxAt c n
  let id := s.reg .CB_MBX_ID i
  let m := s.fld CB_MBX_MASK.FDFM i
  s.bit CB_MBX_CTL.EN i && ! s.bit CB_MBX_CTL.DIR i && (w.getLsbD 29 == id.getLsbD 29) &&
  decide ((bitsOf w 28 0 ^^^ bitsOf id 28 0) &&& s.fld CB_MBX_MASK.IDM i = 0) &&
  (m == 0 || m == 3 || (m == 1 && ! w.getLsbD 31) || (m == 2 && w.getLsbD 31)) &&
  (! s.bit CB_MBX_MASK.RTRM i || w.getLsbD 30 == id.getLsbD 30)

/-- The older frame is lost. -/
def rxLost (s : State) (c n : Nat) : State := canEvent (s.satAdd CB_MBX_STAT.OVR (mbxAt c n) 1) c 0x7006 n

/-- Writes a frame into its mailbox. -/
def rxPut (s : State) (c n id : Nat) (data : List Byte) (stamp : Nat) : State :=
  let i := mbxAt c n
  let s := if s.bit CB_MBX_STAT.NEW i then rxLost s c n else s
  let s := s.setReg .CB_MBX_RXID i (w64 id)
  let s := forL (upFrom 0 8) (fun w s =>
    setPsn (s.setReg .CB_MBX_DATA (8 * i + w) (w64 (leNat ((data.drop (8 * w)).take 8)))) .CB_MBX_DATA (8 * i + w)
      false) s
  (s.setFld CB_MBX_STAT.STAMP i stamp).setBit CB_MBX_STAT.NEW i true

/-- An RX mailbox takes a valid frame: the latch, the journal, then the mailbox or its shadow buffer. -/
def rxTake (s : State) (c n id : Nat) (data : List Byte) (stamp : Nat) : State :=
  let i := mbxAt c n
  let s := latch s 1 c n stamp data
  let s := journalIn s 0x03 (canSrc c) stamp
    (leBytes 8 id ++ leBytes 8 (c + n * 2 ^ 8) ++ data ++ List.replicate (64 - data.length) 0)
  if s.bit CB_MBX_CMD.LOCK i then
    let s := if s.bit CB_MBX_STAT.SHADOW i then rxLost s c n else s
    (s.setMbx c n { s.mbxSt c n with shadow := some (id, data, stamp) }).setBit CB_MBX_STAT.SHADOW i true
  else rxPut s c n id data stamp

/-- A valid frame is offered to the RX mailboxes; the first match takes it. -/
def rxOffer (s : State) (c : Nat) (w : Word) (data : List Byte) (stamp : Nat) : State :=
  match (upFrom 0 128).find? (rxMatch s c w) with
  | some n => rxTake s c n w.toNat data stamp
  | none => s.satAdd CB_CNT.NOMATCH c 1

/-- The state of the error counters decides between active and passive; entry to passive is reported (R372). -/
def syncEst (s : State) (c : Nat) : State :=
  let passive := decide (128 ≤ s.fld CB_STAT.TEC c) || (s.canSt c).recHigh
  match canEst s c with
  | 0 => if passive then canEventF (s.setFld CB_STAT.EST c 1) c 0x7003 else s
  | 1 => if passive then s else s.setFld CB_STAT.EST c 0
  | _ => s

/-- The receive error count after a frame received without error: one less, or 119 to 127 when it was above
127 (ISO 11898-1). -/
def recGood (s : State) (c : Nat) : State :=
  let x := s.canSt c
  if s.fld CB_CTL.MODE c = 2 then s
  else if x.recHigh then
    let s := (s.setFld CB_STAT.REC c (119 + s.free.toNat % 9)).useFree
    syncEst (s.setCan c { s.canSt c with recHigh := false }) c
  else s.setFld CB_STAT.REC c (s.fld CB_STAT.REC c - 1)

/-- The receive error count after an error in a received frame. -/
def recBad (s : State) (c n : Nat) : State :=
  if s.fld CB_CTL.MODE c = 2 then s
  else
    let v := s.fld CB_STAT.REC c + n
    let s := s.setFld CB_STAT.REC c (min 127 v)
    syncEst (if 127 < v then s.setCan c { s.canSt c with recHigh := true } else s) c

/-- The controller's receiver takes frames of other nodes (R371, R388, R400, R522). -/
def canHears (s : State) (c : Nat) : Bool :=
  decide (s.fld CB_CTL.STATE c ≠ 2) && decide (s.fld CB_CTL.MODE c ≠ 3) && decide (canEst s c ≠ 2) && ! replaying s

/-- CAN_FRAME_RECEIVE: a frame of another node has become valid, `ago` ns after its SOF (R374, R383). -/
def canReceive (s : State) (c : Nat) (f : CanFrame) (ago : Nat) : State :=
  if canHears s c && (s.bit CB_CTL.FDEN c || ! f.fdf) then
    recGood (rxOffer s c (frameWord f) f.data ((s.stamp + 2 ^ 32 - ago % 2 ^ 32) % 2 ^ 32)) c
  else s

/-- LOCK written 0: a held shadow frame moves into the mailbox (R374). -/
def mbxUnlock (s : State) (c n : Nat) : State :=
  match (s.mbxSt c n).shadow with
  | some (id, data, stamp) =>
    rxPut ((s.setMbx c n { s.mbxSt c n with shadow := none }).setBit CB_MBX_STAT.SHADOW (mbxAt c n) false)
      c n id data stamp
  | none => s

/-! ## Launch buffers (R376, R379-R382) -/

def setCode (s : State) (c n code reason : Nat) : State :=
  (s.setFld CB_MBX_STAT.REASON (mbxAt c n) reason).setFld CB_MBX_STAT.CODE (mbxAt c n) code

/-- The frame of a mailbox is on the wire. -/
def onWire (s : State) (c n : Nat) : Bool :=
  match (s.canSt c).wire with
  | some w => w.1 == n
  | none => false

/-- A launch buffer ends off the wire with a final code. -/
def bufEnd (s : State) (c n code reason : Nat) : State :=
  match (s.mbxSt c n).launch with
  | none => s
  | some b =>
    let s := s.setMbx c n { s.mbxSt c n with launch := none }
    let s := lsFinal (setCode s c n code reason) (canSrc c) n code false b.data
    sealEnd s 1 c n b.data false

/-- The controller is bus-off or in a bus fault. -/
def canDown (s : State) (c : Nat) : Bool := decide (2 ≤ canEst s c)

/-- A frame enters its launch buffer: PENDING, judged and sealed, ready when it has no launch time or a
reached one (R376, R377, R381, R416). -/
def bufFill (s : State) (c n : Nat) (b : CanBuf) : State :=
  let r := sealFill (setCode s c n 1 0) 1 c n b.data b.inst
  let due := match b.lt with
    | some t => s.reached t
    | none => false
  let go := due || b.lt.isNone
  let r := if go then sealReady r.1 1 c n r.2 else r
  let s := r.1.setMbx c n { r.1.mbxSt c n with launch := some { b with data := r.2, ready := go } }
  let s := lsFill s (canSrc c) n (b.lt.getD b.req)
  if due && canDown s c then bufEnd s c n 8 0 else s

/-- A held request takes its launch buffer; a frame still there is replaced (R379). -/
def takeHeld (s : State) (c n : Nat) : State :=
  let m := s.mbxSt c n
  match m.held with
  | none => s
  | some b =>
    let s := if m.launch.isSome then s.satAdd CB_CNT.SUPER c 1 else s
    bufFill (s.setMbx c n { m with held := none }) c n b

/-- The frame that a mailbox's template makes (R376). -/
def template (s : State) (c n : Nat) (lt : Option Nat) (inst : Nat) (safe : Bool) : CanBuf :=
  let i := mbxAt c n
  let id := s.reg .CB_MBX_ID i
  let all := (upFrom 0 8).flatMap fun w => leBytes 8 (s.reg .CB_MBX_DATA (8 * i + w)).toNat
  { id := id, data := all.take (idLen id), lt := lt, exp := s.fld CB_MBX_LT.EXP i, req := s.stamp,
    psn := (upFrom 0 8).filter fun w => regPsn s .CB_MBX_DATA (8 * i + w), inst := inst, safe := safe }

/-- The mailbox is an enabled TX mailbox. -/
def mbxSends (s : State) (c n : Nat) : Bool :=
  s.bit CB_MBX_CTL.EN (mbxAt c n) && s.bit CB_MBX_CTL.DIR (mbxAt c n)

/-- A queue request (R376, R379, R388). -/
def canRequest (s : State) (c n : Nat) (lt : Option Nat) (inst : Nat) (safe : Bool) : State :=
  if s.fld CB_CTL.STATE c ≠ 0 then s
  else if ! mbxSends s c n then s.satAdd CB_STAT.QREF c 1
  else
    let b := template s c n lt inst safe
    let m := s.mbxSt c n
    if onWire s c n then
      let s := if m.held.isSome then s.satAdd CB_CNT.SUPER c 1 else s
      s.setMbx c n { m with held := some b }
    else
      let s := if m.launch.isSome then s.satAdd CB_CNT.SUPER c 1 else s
      bufFill s c n b

/-- QUEUE written 1. -/
def mbxQueue (s : State) (c n : Nat) : State :=
  let i := mbxAt c n
  canRequest s c n (if s.bit CB_MBX_CTL.LTEN i then some (s.fld CB_MBX_LT.LT i) else none) s.stamp false

/-- CANCEL written 1 (R381). -/
def mbxCancel (s : State) (c n : Nat) : State :=
  let s := s.setMbx c n { s.mbxSt c n with held := none }
  if onWire s c n then s else bufEnd s c n 9 0

/-- A launch time is reached (R377, R381). -/
def canDue (s : State) (c n : Nat) : State :=
  match (s.mbxSt c n).launch with
  | some b =>
    match b.lt with
    | some t =>
      if b.ready || ! s.reached t then s
      else
        let r := sealReady s 1 c n b.data
        let s := r.1.setMbx c n { r.1.mbxSt c n with launch := some { b with data := r.2, ready := true } }
        if canDown s c && ! onWire s c n then bufEnd s c n 8 0 else s
    | none => s
  | none => s

/-- The moment at which a frame expires (R380). -/
def CanBuf.deadline (b : CanBuf) : Nat := (b.lt.getD b.req + 1000 * b.exp) % 2 ^ 32

/-- EXP µs have passed without a successful start (R380, R381). -/
def canExpire (s : State) (c n : Nat) : State :=
  match (s.mbxSt c n).launch with
  | some b =>
    if b.exp = 0 ∨ onWire s c n ∨ ¬ s.reached b.deadline then s
    else if canDown s c then bufEnd s c n 8 0
    else bufEnd (s.satAdd CB_CNT.EXPIRED c 1) c n 5 0
  | none => s

/-- Buffers whose launch time has been reached, or whose EXP has passed, end BUSOFF (R381, R522). -/
def downBuffers (s : State) (c : Nat) : State :=
  forL (upFrom 0 128) (fun n s =>
    match (s.mbxSt c n).launch with
    | some b =>
      if ! onWire s c n && ((b.lt.isSome && b.ready) || (decide (b.exp ≠ 0) && s.reached b.deadline)) then
        bufEnd s c n 8 0
      else s
    | none => s) s

/-! ## The wire (R377, R378, R382, R383, R387) -/

/-- The launch buffers of a controller. -/
def canBufs (s : State) (c : Nat) : List (Nat × CanBuf) :=
  (upFrom 0 128).filterMap fun n => (s.mbxSt c n).launch.map fun b => (n, b)

/-- ns until the earliest pending launch time (R378). -/
def nextLaunch (s : State) (l : List (Nat × CanBuf)) : Option Int :=
  (l.filterMap fun x => if x.2.ready then none else x.2.lt).foldl (fun m t =>
    let d := stampDiff s.stamp t
    some (match m with
      | some v => min v d
      | none => d)) none

/-- The buffer that the controller offers to the bus. -/
def canPick (s : State) (c : Nat) : Option (Nat × CanBuf) :=
  let l := canBufs s c
  let ready := l.filter fun x => x.2.ready && (s.bit CB_CTL.FDEN c || ! x.2.id.getLsbD 31)
  let safe := ready.filter fun x => x.2.safe
  let fits := fun (x : Nat × CanBuf) => match nextLaunch s l with
    | some d => decide ((worstClocks s c x.2.id * 25 : Int) ≤ 4 * d)
    | none => true
  (if safe.isEmpty then ready.filter fits else safe).foldl (fun best x =>
    match best with
    | none => some x
    | some y => if arbKey x.2.id < arbKey y.2.id then some x else some y) none

/-- CAN_FRAME_START: the offered frame's SOF starts (R377, R378, R382). In replay the medium is idle and the
SOF lies at the launch time (R400). -/
def canStart (s : State) (c : Nat) : State :=
  let mode := s.fld CB_CTL.MODE c
  if s.fld CB_CTL.STATE c ≠ 0 ∨ canDown s c ∨ (s.canSt c).wire.isSome ∨ mode = 1 ∨ mode = 2 then s
  else match canPick s c with
    | none => s
    | some (n, b) =>
      if b.psn.any fun w => decide (8 * w < idLen b.id) then consumePoison (bufEnd s c n 7 0) (canSrc c) 4 0
      else
        let r := sealStart s 1 c n b.data
        let s := r.1.setMbx c n { r.1.mbxSt c n with launch := some { b with data := r.2 } }
        let at_ := if replaying s then b.lt.getD s.stamp else s.stamp
        s.setCan c { s.canSt c with wire := some (n, at_) }

/-- A transmit stamp enters the timestamp queue (R383). -/
def canTxts (s : State) (c fid stamp : Nat) : State :=
  let x := s.canSt c
  if x.txts.length < 16 then s.setCan c { x with txts := x.txts ++ [(fid, stamp)] }
  else
    let told := s.bit CB_STAT.TSOVF c
    let s := s.setBit CB_STAT.TSOVF c true
    if told then s else canEventF s c 0x7004

/-- The frame as it was on the bus. -/
def frameOf (s : State) (c : Nat) (b : CanBuf) : CanFrame :=
  { id := b.id.setWidth 29, ide := b.id.getLsbD 29, rtr := b.id.getLsbD 30, fdf := b.id.getLsbD 31,
    brs := b.id.getLsbD 31 && b.id.getLsbD 32 && s.bit CB_CTL.BRSEN c,
    esi := b.id.getLsbD 31 && decide (canEst s c = 1), dlc := (b.id >>> 33).setWidth 4, data := b.data }

/-- CAN_FRAME_END: the frame on the wire ends SENT or SENT_LATE (R378, R379, R383). -/
def canEnd (s : State) (c : Nat) : State :=
  match (s.canSt c).wire with
  | none => s
  | some (n, t) =>
    match (s.mbxSt c n).launch with
    | none => s
    | some b =>
      let i := mbxAt c n
      let f := frameOf s c b
      let late := match b.lt with
        | some lt => decide ((nomClocks (s.reg .CB_NBT c) * 25 : Int) < 4 * stampDiff lt t)
        | none => false
      let code := if late then 3 else 2
      let loop := decide (s.fld CB_CTL.MODE c = 3)
      let s := s.setCan c { s.canSt c with wire := none }
      let s := if loop then rxOffer s c (frameWord f) b.data t
        else
          let s := if replaying s then s else s.send (.canFrame c f)
          syncEst (s.setFld CB_STAT.TEC c (s.fld CB_STAT.TEC c - 1)) c
      let s := if late then s.satAdd CB_CNT.LATE c 1 else s
      let s := s.setMbx c n { s.mbxSt c n with launch := none }
      let s := setCode (s.setFld CB_MBX_STAT.STAMP i t) c n code 0
      let s := if s.bit CB_MBX_CTL.TSREQ i then canTxts s c (bitsOf b.id 63 48) t else s
      let s := lsFinal s (canSrc c) n code true b.data
      let s := journalTx (sealEnd s 1 c n b.data true) (canSrc c) (b.lt.getD t) code b.data
      takeHeld s c n

/-- The frame on the wire has been cut: it is retried, or ends ONESHOT_FAILED, or ABORTED in a controller
that drains; a held request takes its buffer (R379, R380, R388). -/
def canCut (s : State) (c reason : Nat) : State :=
  match (s.canSt c).wire with
  | none => s
  | some (n, _) =>
    let s := s.setCan c { s.canSt c with wire := none }
    let s := if s.bit CB_MBX_CTL.ONESHOT (mbxAt c n) then bufEnd s c n 4 reason
      else if s.fld CB_CTL.STATE c = 1 then bufEnd s c n 6 0 else s
    takeHeld s c n

/-- The transmit error count grows by 8; above 255 the controller is bus-off (R372). -/
def tecBad (s : State) (c : Nat) : State :=
  let v := s.fld CB_STAT.TEC c + 8
  let s := s.setFld CB_STAT.TEC c (min 255 v)
  if 255 < v ∧ ¬ canDown s c then
    let s := canEventF (s.setFld CB_STAT.EST c 2) c 0x7001
    let s := s.setCan c { s.canSt c with recover := s.bit CB_CTL.AUTOREC c }
    downBuffers s c
  else syncEst s c

/-- REASON of an error of a sent frame (R380). -/
def canReason : CanFault → Nat
  | .ack => 2
  | .bit => 3
  | .stuff => 4
  | .form => 5

/-- CAN_FRAME_ERROR (R372, R380). -/
def canError (s : State) (c : Nat) (e : CanErr) : State :=
  match e with
  | .received eight => if canHears s c then recBad s c (if eight then 8 else 1) else s
  | .arbitration => canCut s c 1
  | .own why counted =>
    if (s.canSt c).wire.isNone then s
    else
      let s := canCut s c (canReason why)
      if counted then tecBad s c else s

/-! ## Bus-off, bus faults and the transceiver (R372, R384-R386, R522) -/

/-- RECOVER written 1. -/
def canRecover (s : State) (c : Nat) : State :=
  if canEst s c = 2 then s.setCan c { s.canSt c with recover := true } else s

/-- The error counters return to 0. -/
def clearCounts (s : State) (c : Nat) : State :=
  ((s.setFld CB_STAT.TEC c 0).setFld CB_STAT.REC c 0).setCan c
    { s.canSt c with recover := false, recHigh := false }

/-- CAN_BUS_ON: recovery has ended. -/
def canBusOn (s : State) (c : Nat) : State :=
  if canEst s c = 2 ∧ (s.canSt c).recover then
    canEventF ((clearCounts s c).setFld CB_STAT.EST c 0) c 0x7002
  else s

/-- CAN_BUS_FAULT: the transceiver reports a fault; faults 1-3 switch the driver off. -/
def canFault (s : State) (c fault : Nat) : State :=
  if fault = 0 ∨ 6 < fault then s
  else
    let s := canEvent (s.setFld CB_PHY.FAULT c fault) c 0x7005 fault
    if fault ≤ 3 then
      let s := (s.setFld CB_STAT.EST c 3).setCan c { s.canSt c with cond := true, recover := false }
      let s := canCut s c 3
      downBuffers s c
    else s

/-- CAN_DOMINANT_TIMEOUT: the forced release counts as a bit error. -/
def canDominant (s : State) (c : Nat) : State := canError s c (.own .bit true)

/-- CLR written 1: bus fault is left when its condition is gone. -/
def phyClear (s : State) (c : Nat) : State :=
  if canEst s c = 3 ∧ ¬ (s.canSt c).cond then (clearCounts s c).setFld CB_STAT.EST c 0 else s

/-- A termination measurement is requested. -/
def termRequest (s : State) (c : Nat) : State := s.setBit CB_PHY.MBUSY c true

/-- CAN_TERM_MEASURE_PERIODIC. -/
def termPeriodic (s : State) (c : Nat) : State := if s.fld CB_PHY.MPER c = 0 then s else termRequest s c

/-- TERM of a resistance (R385). -/
def termOf (ohms : Nat) : Nat :=
  if ohms < 45 then 3
  else if ohms ≤ 75 then 0
  else if 90 ≤ ohms ∧ ohms ≤ 150 then 1
  else if 500 ≤ ohms then 2
  else 4

/-- CAN_TERM_MEASURE_DONE. -/
def termDone (s : State) (c ohms : Nat) : State :=
  if ! s.bit CB_PHY.MBUSY c then s
  else
    let t := termOf ohms
    let s := (s.setFld CB_PHY.RTERM c (if 2000 < ohms then 0xFFFF else ohms)).setFld CB_PHY.TERM c t
    let s := s.setBit CB_PHY.MBUSY c false
    if t = 1 ∨ t = 2 then canFault s c 4 else if t = 3 then canFault s c 6 else s

/-- CAN_POLARITY_CHECK. -/
def polarity (s : State) (c : Nat) (swapped : Bool) : State :=
  if swapped then canFault (s.setBit CB_PHY.SWAPDET c true) c 5 else s

/-! ## Enable, drain, abort and safe state (R370, R387, R388) -/

/-- The checks of a write of EN = 1 fail; `ctl` is CB_CTL as written. -/
def canCfgBad (s : State) (c : Nat) (ctl : Word) : Bool :=
  let nb := s.reg .CB_NBT c
  let db := s.reg .CB_DBT c
  let n := nomClocks nb
  let d := dataClocks db
  decide (n < 160) || decide (3200 < n) || decide (bitsOf nb 22 16 < bitsOf nb 29 23) ||
  (ctl.getLsbD 5 && (! ctl.getLsbD 4 || decide (d < 20) || decide (n < d) || decide (bitsOf db 19 16 < bitsOf db 23 20)))

/-- EN written 1 while DISABLED. -/
def canEnable (s : State) (c : Nat) : State :=
  if s.fld CB_CTL.STATE c ≠ 2 then s
  else if canCfgBad s c (s.reg .CB_CTL c) then canEventF (s.setBit CB_CTL.EN c false) c 0x7007
  else
    let s := clearCounts (s.setFld CB_CTL.STATE c 0) c
    if canEst s c = 3 then s else s.setFld CB_STAT.EST c 0

/-- Held requests are dropped and the buffers not on the wire end ABORTED. -/
def abortBufs (s : State) (c : Nat) : State :=
  forL (upFrom 0 128) (fun n s =>
    let s := s.setMbx c n { s.mbxSt c n with held := none }
    if onWire s c n then s else bufEnd s c n 6 0) s

/-- EN written 0. -/
def canDrain (s : State) (c : Nat) : State :=
  if s.fld CB_CTL.STATE c = 0 then abortBufs (s.setFld CB_CTL.STATE c 1) c else s

/-- ABORT: the driver goes recessive and every buffer ends ABORTED. -/
def canAbort (s : State) (c : Nat) : State :=
  let s := s.setCan c { s.canSt c with wire := none }
  ((abortBufs s c).setBit CB_CTL.EN c false).setFld CB_CTL.STATE c 2

/-- The drained controller is DISABLED. -/
def canDrained (s : State) (c : Nat) : State :=
  if s.fld CB_CTL.STATE c = 1 ∧ (s.canSt c).wire = none then s.setFld CB_CTL.STATE c 2 else s

/-- The module enters safe state: mailbox MBX is queued without a launch time and offered first (R387). -/
def canSafe (s : State) (c : Nat) : State :=
  if s.bit CB_SAFE.EN c then canRequest s c (s.fld CB_SAFE.MBX c) none s.stamp true else s

/-- A read of CB_TXTS removes the oldest transmit stamp (R383). -/
def canTxtsPop (s : State) (c : Nat) : State × Word :=
  let x := s.canSt c
  match x.txts with
  | [] => (s, 0)
  | (fid, t) :: r => (s.setCan c { x with txts := r }, w64 (fid + 2 ^ 16 + t * 2 ^ 32))

/-! ## The Servo Engine's field writes (R342, R376) -/

/-- Bytes at an offset of a mailbox's template, with the mark of the value they belong to. -/
def mbxField (s : State) (c n off : Nat) (bs : List Byte) (p : Bool) : State :=
  if ! mbxSends s c n then s
  else
    let i := mbxAt c n
    let at_ := (upFrom off bs.length).zip bs
    forL (upFrom 0 8) (fun w s =>
      let here := at_.filter fun x => decide (x.1 / 8 = w)
      if here.isEmpty then s
      else
        let v := here.foldl (fun v x => putBits v (8 * (x.1 % 8) + 7) (8 * (x.1 % 8)) x.2.toNat)
          (s.reg .CB_MBX_DATA (8 * i + w))
        let s := s.setReg .CB_MBX_DATA (8 * i + w) v
        if p then setPsn s .CB_MBX_DATA (8 * i + w) true
        else if here.length = 8 then setPsn s .CB_MBX_DATA (8 * i + w) false else s) s

end Sys2Proof.Machine
end

