-- ==== Sys2Proof/Machine/Timebase.lean ====
section
/-! DEFINITION. The Timebase: its tick, loads, adjustments, and the writes and reads of its registers
(R350-R355). -/

namespace Sys2Proof.Machine

/-- Source id of the Timebase (R515). -/
def tbSrc : Nat := 0xF000

/-- The total in units of 2^-32 ns. -/
def TimeSt.units (t : TimeSt) : Int := (t.sec * 1000000000 + t.ns : Nat) * 2 ^ 32 + t.frac

/-- The Timebase of a total. -/
def TimeSt.ofUnits (u : Int) : TimeSt :=
  let n := (u % (2 ^ 48 * 1000000000 * 2 ^ 32)).toNat
  { sec := n / 2 ^ 32 / 1000000000, ns := n / 2 ^ 32 % 1000000000, frac := n % 2 ^ 32 }

/-- Loads or adjustments are pending. -/
def stepDue (s : State) : Bool := s.tbPend.load.isSome || ! s.tbPend.adj.isEmpty

/-- A step of d ns is counted, told and recorded (R352). -/
def tbStepped (s : State) (d : Int) : State :=
  let n := (BitVec.ofInt 64 (max (-(2 ^ 63)) (min (2 ^ 63 - 1) d))).toNat
  let s := event (s.satAdd TB_STAT.STEPS 0 1) 0 0xF001 tbSrc n
  journalIn s 0x07 tbSrc s.stamp (leBytes 8 1 ++ leBytes 8 n)

/-- A tick of the timebase clock: the pending load, the pending adjustments, then the increment (R350). A tick
at which a load or an adjustment acts is a step, and a change of TB_INC that takes effect at the tick is recorded (R352,
R395). -/
def tbTick (s : State) : State :=
  let u := s.tb.units
  let u₁ := match s.tbPend.load with
    | some n => (n : Int) * 2 ^ 32
    | none => u
  let u₂ := s.tbPend.adj.foldl (fun u a => u + a * 2 ^ 32) u₁
  let p := s.tbPend
  let s := { s with tb := TimeSt.ofUnits (u₂ + s.fld TB_INC.INC 0), tbPend := {} }
  let s := if p.load.isSome || ! p.adj.isEmpty then tbStepped s (Int.tdiv (u₂ - u) (2 ^ 32)) else s
  match p.inc with
  | some n =>
    if s.fld TB_INC.INC 0 = n then s
    else journalIn s 0x07 tbSrc s.stamp (leBytes 8 0 ++ leBytes 8 (s.fld TB_INC.INC 0))
  | none => s

/-- TB_STEP: the tick at which the pending loads and adjustments act. -/
def tbStep (s : State) : State := if stepDue s then tbTick s else s

/-- A Dvoril port that is UP with DISC set disciplines the Timebase (R351). -/
def disciplined (s : State) : Bool := (upFrom 0 2).any fun p => dvUp s p && s.bit DVL_CTL.DISC p

/-- TB_INC accepts a value (R351). -/
def incOk (w : Word) : Bool := decide (0x0200000000 ≤ bitsOf w 39 0) && decide (bitsOf w 39 0 ≤ 0x02FFFFFFFF)

/-- TB_INC has changed from `old`: the change takes effect at the next tick (R350, R352). -/
def tbIncWritten (s : State) (old : Nat) : State :=
  { s with tbPend := { s.tbPend with inc := some (s.tbPend.inc.getD old) } }

/-- GO of TB_ADJ. -/
def tbAdjGo (s : State) (v : Word) : State :=
  if v.getLsbD 63 then
    { s with tbPend := { s.tbPend with adj := s.tbPend.adj ++ [(v.extractLsb' 0 32).toInt] } }
  else s

/-- GO of TB_LOADSEC. -/
def tbLoadGo (s : State) (v : Word) : State :=
  if v.getLsbD 63 then
    { s with tbPend := { s.tbPend with load := some (bitsOf v 47 0 * 1000000000 + s.fld TB_LOADNS.LOADNS 0) } }
  else s

/-- A read of TB_NOW0 latches SEC for its reader (R355). -/
def tbNow0 (s : State) (src : Nat) : State × Word :=
  ({ s with nowLatch := tput (fun _ => 0) s.nowLatch src s.tb.sec }, w64 (s.tb.ns + s.stamp * 2 ^ 32))

/-- A read of TB_NOW1. -/
def tbNow1 (s : State) (src : Nat) : Word := w64 (tget (fun _ => 0) s.nowLatch src)

/-- DVORIL_TIME_EXCHANGE, with the record of a change of TB_INC (R222, R352). -/
def dvTimeExchange (s : State) (p t1 t2 t3 t4 : Nat) : State :=
  let s' := dvTime s p t1 t2 t3 t4
  if s'.fld TB_INC.INC 0 = s.fld TB_INC.INC 0 then s' else tbIncWritten s' (s.fld TB_INC.INC 0)

end Sys2Proof.Machine
end

