-- ==== Sys2Proof/Machine/Eth.lean ====
section
/-! DEFINITION. The Ethernet ports (R356-R368). -/

namespace Sys2Proof.Machine

/-- Source id of a port (R515). -/
def ethSrc (p : Nat) : Nat := 0x8000 + p

def State.port (s : State) (p : Nat) : EthPort := tget (fun _ => {}) s.eth p

def State.setPort (s : State) (p : Nat) (x : EthPort) : State := { s with eth := tput (fun _ => {}) s.eth p x }

/-- An event of a port, to its queue. -/
def ethEvent (s : State) (p code detail : Nat) : State := event s (s.fld ETH_CTL.EVQ p) code (ethSrc p) detail

/-- An event of a port whose detail no rule gives. -/
def ethEventF (s : State) (p code : Nat) : State := eventFree s (s.fld ETH_CTL.EVQ p) code (ethSrc p)

/-! ## Classification (R359, R360) -/

/-- A big-endian 16-bit field of a frame. -/
def be16 (b : List Byte) (i : Nat) : Nat := (b.getD i 0).toNat * 256 + (b.getD (i + 1) 0).toNat

/-- The frame carries an 802.1Q tag. -/
def ethTagged (b : List Byte) : Bool := decide (be16 b 12 = 0x8100)

/-- The EtherType, after a tag if one is present. -/
def etherType (b : List Byte) : Nat := be16 b (if ethTagged b then 16 else 12)

/-- The payload: what follows the EtherType. -/
def ethPayload (b : List Byte) : List Byte := b.drop (if ethTagged b then 18 else 14)

/-- A PAUSE frame. -/
def isPause (b : List Byte) : Bool := decide (be16 b 12 = 0x8808) && decide (be16 b 14 = 1)

/-- The longest frame a port takes or sends, without its FCS: MAXLEN is at most 9,216 (R358; a greater value acts as
9,216, assumption log 29). -/
def maxLen (s : State) (p : Nat) : Nat := min 9216 (s.fld ETH_CTL.MAXLEN p)

/-- Hub mover 1 carries the ports' transfers to and from the Cistern (R358): it takes none while it is DRAINING or DISABLED
(R173). What a port then does no rule says: a received frame is discarded as one without room, and a queue's frames wait
(assumption log 29). -/
def hubCarries (s : State) : Bool := decide (s.fld CST_MVR_PTR.STATE 5 = 0)

/-- The port's filter passes the destination: MCDROP drops multicast also under PROMISC (R359). -/
def destOk (s : State) (p : Nat) (b : List Byte) : Bool :=
  let d := leNat (b.take 6)
  let group := (b.getD 0 0).getLsbD 0
  decide (d = 2 ^ 48 - 1) ||
    if group then ! s.bit ETH_CTL.MCDROP p else s.bit ETH_CTL.PROMISC p || decide (d = s.fld ETH_MAC.MAC p)

/-- Servo slot i of a port matches a frame (R360). -/
def slotMatch (s : State) (p : Nat) (b : List Byte) (i : Nat) : Bool :=
  let k := 16 * p + i
  let w := leNat (((ethPayload b).drop (s.fld ETH_RXSV0.MOFF k)).take 4)
  s.bit ETH_RXSV0.EN k && decide (etherType b = s.fld ETH_RXSV0.ETYPE k) &&
    decide (w &&& s.fld ETH_RXSV1.MMASK k = s.fld ETH_RXSV1.MVAL k)

/-! ## Reception (R357, R359-R361) -/

/-- A frame that finds no buffer is discarded and counted, and reported once per run (R361). -/
def rxOverrun (s : State) (p q : Nat) : State :=
  let s := s.satAdd ETH_STAT.OVR p 1
  if (s.port p).overrun.contains q then s
  else ethEventF (s.setPort p { s.port p with overrun := q :: (s.port p).overrun }) p 0x8004

/-- A frame goes to receive queue q (R361). -/
def rxQueue (s : State) (p q : Nat) (b : List Byte) (stamp : Nat) : State :=
  let i := 2 * p + q
  let head := s.fld ETH_RXQ1.HEAD i
  let d := s.fld ETH_RXQ0.BASE i / 32 * 32 + 32 * head
  let buf := bitsOf (s.word d) 39 0
  let cap := s.fld ETH_RXQ0.BUFSZ i * 128
  if ¬ hubCarries s ∨ head = s.fld ETH_RXQ1.TAIL i ∨ cap < b.length ∨ ¬ s.within .cistern buf b.length ∨ ¬ s.within .cistern d 32 then
    rxOverrun s p q
  else
    let s := s.setPort p { s.port p with overrun := (s.port p).overrun.filter (· != q) }
    let put := fun (s : State) a bs => performG s (ethSrc p) (atAddr a bs) fun _ => false
    let s := put s buf b
    let s := put s (d + 8) (leBytes 8 (b.length + (if ethTagged b then 2 ^ 14 else 0) + stamp * 2 ^ 32))
    let s := put s (d + 16) (leBytes 8 (1 + etherType b * 2 ^ 16))
    let s := s.setFld ETH_RXQ1.HEAD i ((head + 1) % 256)
    if s.bit ETH_RXQ2.GEN i then signalHandle s (ethSrc p) (w64 (s.fld ETH_RXQ2.GATE i)) 1 else s

/-- A frame that the port accepts is recorded, latched by its servo slot and queued (R359, R360, R395). -/
def rxAccept (s : State) (p : Nat) (b : List Byte) (stamp : Nat) : State :=
  let s := journalIn s 0x04 (ethSrc p) stamp (leBytes 8 p ++ b)
  let slot := (upFrom 0 16).find? (slotMatch s p b)
  let s := match slot with
    | some i =>
      let pl := (ethPayload b).take 64
      latch s 2 p i stamp (pl ++ List.replicate (64 - pl.length) 0)
    | none => s
  let goes := match slot with
    | some i => s.bit ETH_RXSV0.COPY (16 * p + i)
    | none => true
  if ! goes then s
  else rxQueue s p (if etherType b = s.fld ETH_RXCLS.ETYPE1 p then 1 else 0) b stamp

/-- ETH_FRAME_RECEIVE: a frame has been received whole; its timestamp point passed the MAC `ago` ns ago
(R357-R359). -/
def ethReceive (s : State) (p : Nat) (f : EthFrame) (ago : Nat) : State :=
  if s.fld ETH_CTL.STATE p ≠ 0 ∨ replaying s ∨ ¬ s.bit ETH_LINK.LINK p then s
  else if ! f.fcsOk || decide (f.bytes.length + 4 < 64) || decide (maxLen s p < f.bytes.length) ||
      isPause f.bytes then s.satAdd ETH_LINK.DISC p 1
  else if ! destOk s p f.bytes then s
  else
    let back := (ago + s.fld ETH_LAT.RXLAT p) % 2 ^ 32
    rxAccept s p f.bytes ((s.stamp + 2 ^ 32 - back) % 2 ^ 32)

/-! ## Transmit queues (R362, R363) -/

/-- Register instance of a transmit queue. -/
def txq (p q : Nat) : Nat := 4 * p + q

/-- Address of a transmit descriptor. -/
def txDesc (s : State) (p q i : Nat) : Nat := s.fld ETH_TXQ0.BASE (txq p q) / 32 * 32 + 32 * i

def headOf (s : State) (p q : Nat) : Nat := tget (fun _ => 0) (s.port p).heads q

def setHead (s : State) (p q v : Nat) : State :=
  s.setPort p { s.port p with heads := tput (fun _ => 0) (s.port p).heads q v }

/-- Key of a frame in the lock-step comparison. -/
def txKey (q i : Nat) : Nat := 256 + 256 * q + i

/-- Length, launch time, stamp request, frame id of a descriptor. -/
def txLt (w : Word × Word) : Option Nat := if w.1.getLsbD 54 then some (bitsOf w.2 31 0) else none

def txWords (s : State) (p q i : Nat) : Word × Word := (s.word (txDesc s p q i), s.word (txDesc s p q i + 8))

/-- A descriptor breaks R363. -/
def txBad (s : State) (p : Nat) (w : Word × Word) : Bool :=
  let len := bitsOf w.1 53 40
  decide (bitsOf w.1 63 56 ≠ 0) || decide (bitsOf w.2 63 48 ≠ 0) || decide (len < 60) ||
  decide (maxLen s p < len) || ! s.within .cistern (bitsOf w.1 39 0) len

/-- The port ends the head descriptor of a queue: word 2 with CODE and stamp, then HEAD (R363). -/
def txEnd (s : State) (p q code stamp : Nat) : State :=
  let i := s.fld ETH_TXQ1.HEAD (txq p q)
  let s := performG s (ethSrc p) (atAddr (txDesc s p q i + 16) (leBytes 8 (code + stamp * 2 ^ 32))) fun _ => false
  let s := if code = 1 ∨ code = 2 then s else lsFinal s (ethSrc p) (txKey q i) code false []
  setHead (s.setFld ETH_TXQ1.HEAD (txq p q) ((i + 1) % 256)) p q 0

/-- The link carries frames; in replay the medium is idle (R367, R400). -/
def ethUp (s : State) (p : Nat) : Bool := s.bit ETH_LINK.LINK p || replaying s

/-- A frame ends LINKDOWN (R367). -/
def txLinkDown (s : State) (p q : Nat) : State := txEnd (s.satAdd ETH_STAT.LINKDOWN p 1) p q 6 0

/-- A frame for launch time t must start now: its first preamble bit then reaches the MDI at t, TXLAT later (R357, R362). -/
def launchDue (s : State) (p t : Nat) : Bool := s.reached ((t + 2 ^ 32 - s.fld ETH_LAT.TXLAT p) % 2 ^ 32)

/-- Looks at the head descriptor of a queue: refused, ready, ready and late, ended LINKDOWN, or waiting for
its launch time; `fuel` bounds the descriptors refused in one go. -/
def txLook (s : State) (p q : Nat) : Nat → State
  | 0 => s
  | fuel + 1 =>
    let k := txq p q
    let i := s.fld ETH_TXQ1.HEAD k
    let wired : Bool := match (s.port p).wire with
      | some (.queue q' _, _, _) => q' == q
      | _ => false
    if s.fld ETH_CTL.STATE p ≠ 0 ∨ ¬ hubCarries s ∨ ¬ s.bit ETH_TXQ1.EN k ∨ i = s.fld ETH_TXQ1.TAIL k ∨ headOf s p q ≠ 0 ∨ wired
    then s
    else
      let w := txWords s p q i
      if txBad s p w then txLook (txEnd s p q 3 0) p q fuel
      else match txLt w with
        | none => setHead s p q 2
        | some t =>
          if ! launchDue s p t then setHead s p q 1
          else if ethUp s p then setHead s p q (if s.reached t then 3 else 2)
          else txLook (txLinkDown s p q) p q fuel

/-- Looks at every queue of a port. -/
def ethPump (s : State) (p : Nat) : State := forL (upFrom 0 4) (fun q s => txLook s p q 256) s

/-- A write of a queue's TAIL or EN: the descriptors from the old TAIL on are posted (R363, R404). -/
def txPost (s : State) (k oldTail : Nat) : State :=
  let p := k / 4
  let q := k % 4
  let n := (s.fld ETH_TXQ1.TAIL k + 256 - oldTail) % 256
  let s := if designated s (ethSrc p) then
      forL (upFrom oldTail n) (fun i s =>
        lsFill s (ethSrc p) (txKey q (i % 256)) ((txLt (txWords s p q (i % 256))).getD s.stamp)) s
    else s
  ethPump s p

/-! ## Servo transmit slots (R364, R366) -/

def State.ethSlot (s : State) (p i : Nat) : Option EthBuf := tget (fun _ => none) (s.port p).slots i

def setSlotBuf (s : State) (p i : Nat) (b : Option EthBuf) : State :=
  s.setPort p { s.port p with slots := tput (fun _ => none) (s.port p).slots i b }

/-- Bytes of a slot's header. -/
def slotHdr (s : State) (p i : Nat) : Nat := if s.bit ETH_TXSVC.TAGGED (16 * p + i) then 18 else 14

/-- Field bytes written into a slot's payload (R342, R364). -/
def slotField (s : State) (p i off : Nat) (bs : List Byte) (psn : Bool) : State :=
  let k := 16 * (16 * p + i)
  let at_ := ((upFrom (slotHdr s p i + off) bs.length).zip bs).filter fun x => decide (x.1 < 128)
  forL (upFrom 0 16) (fun w s =>
    let here := at_.filter fun x => decide (x.1 / 8 = w)
    if here.isEmpty then s
    else
      let v := here.foldl (fun v x => putBits v (8 * (x.1 % 8) + 7) (8 * (x.1 % 8)) x.2.toNat)
        (s.reg .ETH_TXSV (k + w))
      let s := s.setReg .ETH_TXSV (k + w) v
      if psn then setPsn s .ETH_TXSV (k + w) true
      else if here.length = 8 then setPsn s .ETH_TXSV (k + w) false else s) s

/-- A servo slot's frame ends without being sent. -/
def slotEnd (s : State) (p i code : Nat) : State :=
  match s.ethSlot p i with
  | none => s
  | some b =>
    let s := lsFinal (setSlotBuf s p i none) (ethSrc p) i code false []
    sealEnd s 2 p i b.data false

/-- A slot's buffer becomes ready: its seal is settled (R418). -/
def slotReady (s : State) (p i : Nat) (b : EthBuf) (late : Bool) : State :=
  let h := slotHdr s p i
  let r := sealReady s 2 p i (b.data.drop h)
  setSlotBuf r.1 p i (some { b with data := b.data.take h ++ r.2, ready := true, late := late })

/-- A committed slot whose frame must start now is ready, `late` or not, or ends LINKDOWN (R362, R367). -/
def slotDue (s : State) (p i : Nat) (late : Bool) : State :=
  match s.ethSlot p i with
  | none => s
  | some b =>
    if b.ready || ! launchDue s p (b.lt.getD s.stamp) then s
    else if ethUp s p then slotReady s p i b late
    else slotEnd (s.satAdd ETH_STAT.LINKDOWN p 1) p i 6

/-- A commit of a slot: the template goes to the launch buffer with the launch time; `inst` is the committing
loop's instant (R342, R364, R416). -/
def slotCommit (s : State) (p i : Nat) (lt inst : Nat) : State :=
  let k := 16 * p + i
  if ! s.bit ETH_TXSVC.EN k then s.satAdd ETH_SVSTAT.QREF p 1
  else if s.fld ETH_CTL.STATE p ≠ 0 then s
  else
    let s := if (s.ethSlot p i).isSome then s.satAdd ETH_SVSTAT.SUPER p 1 else s
    let all := (upFrom 0 16).flatMap fun w => leBytes 8 (s.reg .ETH_TXSV (16 * k + w)).toNat
    let h := slotHdr s p i
    let r := sealFill s 2 p i (all.drop h) inst
    let b : EthBuf := { data := all.take h ++ r.2, lt := some lt,
                        psn := (upFrom 0 16).any fun w => regPsn s .ETH_TXSV (16 * k + w) }
    let s := lsFill (setSlotBuf r.1 p i (some b)) (ethSrc p) i lt
    slotDue s p i (s.reached lt)

/-! ## Launching (R362, R365-R367) -/

/-- ETH_LAUNCH_TIME_REACHED: a head descriptor or a servo slot becomes ready, TXLAT before its launch time at the MDI; it
is late when another frame is on the wire (R357, R362). -/
def ethDue (s : State) (p : Nat) (t : EthTxSrc) : State :=
  let busy := (s.port p).wire.isSome
  match t with
  | .servo i => slotDue s p i.val busy
  | .queue q =>
    if headOf s p q.val ≠ 1 then s
    else match txLt (txWords s p q.val (s.fld ETH_TXQ1.HEAD (txq p q.val))) with
      | none => s
      | some lt =>
        if ! launchDue s p lt then s
        else if ethUp s p then setHead s p q.val (if busy then 3 else 2)
        else ethPump (txLinkDown s p q.val) p

/-- The launch times pending at a port. -/
def pendingLaunches (s : State) (p : Nat) : List Nat :=
  ((upFrom 0 16).filterMap fun i => (s.ethSlot p i).bind fun b => if b.ready then none else b.lt) ++
  ((upFrom 0 4).filterMap fun q =>
    if headOf s p q = 1 then txLt (txWords s p q (s.fld ETH_TXQ1.HEAD (txq p q))) else none)

/-- A frame of n bytes, with preamble and frame check sequence, ends at the MDI before every pending launch time. -/
def ethFits (s : State) (p n : Nat) : Bool :=
  (pendingLaunches s p).all fun t =>
    decide (((n + 12) * 8 : Int) ≤ 10 * (stampDiff s.stamp t - (s.fld ETH_LAT.TXLAT p : Int)))

/-- The head frame of a queue is ready; whether it has a launch time. -/
def queueReady (s : State) (p : Nat) (lt : Bool) (q : Nat) : Option (EthSrc × Nat) :=
  let i := s.fld ETH_TXQ1.HEAD (txq p q)
  let w := txWords s p q i
  if 2 ≤ headOf s p q ∧ (txLt w).isSome = lt then some (.queue q i, bitsOf w.1 53 40) else none

/-- The frames ready at a port in the order in which they leave: those at or past their launch time first, then the others,
each by priority: servo slots, then queues 3 to 0 (R362). -/
def ethReady (s : State) (p : Nat) : List (EthSrc × Nat) :=
  ((upFrom 0 16).filterMap fun i => (s.ethSlot p i).bind fun b =>
    if b.ready then some (EthSrc.slot i, b.data.length) else none) ++
  [3, 2, 1, 0].filterMap (queueReady s p true) ++ [3, 2, 1, 0].filterMap (queueReady s p false)

/-- Every other frame that is ready with a launch time is delayed and ends LATE (R362). -/
def delayOthers (s : State) (p : Nat) : State :=
  let s := forL (upFrom 0 16) (fun i s => match s.ethSlot p i with
    | some b => if b.ready then setSlotBuf s p i (some { b with late := true }) else s
    | none => s) s
  forL (upFrom 0 4) (fun q s =>
    if headOf s p q = 2 ∧ (txLt (txWords s p q (s.fld ETH_TXQ1.HEAD (txq p q)))).isSome then setHead s p q 3 else s) s

/-- The stamp of a frame whose timestamp point passes the MAC now; in replay it left at its launch time
(R357, R400). -/
def txStamp (s : State) (p : Nat) (lt : Option Nat) : Nat :=
  if replaying s then lt.getD s.stamp else (s.stamp + s.fld ETH_LAT.TXLAT p) % 2 ^ 32

/-- A frame goes onto the wire, and the others wait behind it. -/
def wireFrame (s : State) (p : Nat) (f : EthSrc) (b : EthBuf) : State :=
  delayOthers (s.setPort p { s.port p with wire := some (f, b, txStamp s p b.lt) }) p

/-- ETH_FRAME_TRANSMIT: the first ready frame that fits before the pending launch times starts, and a frame with a launch
time that does not start is delayed and ends LATE; one with a poisoned sent byte ends POISONED (R362, R366). -/
def ethStart (s : State) (p : Nat) : State :=
  if s.fld ETH_CTL.STATE p ≠ 0 ∨ (s.port p).wire.isSome ∨ ¬ ethUp s p then s
  else match (ethReady s p).find? fun x => ethFits s p x.2 with
    | none => delayOthers s p
    | some (.slot i, _) =>
      match s.ethSlot p i with
      | none => s
      | some b =>
        if b.psn then consumePoison (slotEnd s p i 5) (ethSrc p) 4 0
        else
          let h := slotHdr s p i
          let r := sealStart s 2 p i (b.data.drop h)
          wireFrame (setSlotBuf r.1 p i none) p (.slot i) { b with data := b.data.take h ++ r.2 }
    | some (.queue q i, _) =>
      let w := txWords s p q i
      let a := bitsOf w.1 39 0
      let len := bitsOf w.1 53 40
      let s := touchRead s (ethSrc p) a len 0
      match s.firstPoison a len with
      | some x => ethPump (consumePoison (txEnd s p q 5 0) (ethSrc p) 4 x) p
      | none =>
        let b : EthBuf := { data := s.bytes a len, lt := txLt w, ready := true, late := headOf s p q == 3 }
        wireFrame (setHead s p q 0) p (.queue q i) b

/-- A transmit stamp enters the timestamp queue (R365). -/
def ethTxts (s : State) (p fid stamp : Nat) : State :=
  let x := s.port p
  if x.txts.length < 32 then s.setPort p { x with txts := x.txts ++ [(fid, stamp)] }
  else
    let told := s.bit ETH_STAT.TSOVF p
    let s := s.setBit ETH_STAT.TSOVF p true
    if told then s else ethEventF s p 0x8003

/-- ETH_TX_COMPLETE: the frame on the wire has left: SENT or LATE, with its stamp (R362-R365). -/
def ethDone (s : State) (p : Nat) : State :=
  match (s.port p).wire with
  | none => s
  | some (f, b, t) =>
    let code := if b.late then 2 else 1
    let key := match f with
      | .slot i => i
      | .queue q i => txKey q i
    let s := s.setPort p { s.port p with wire := none }
    let s := if replaying s then s else s.send (.ethFrame p b.data)
    let s := if b.late then s.satAdd ETH_STAT.LATE p 1 else s
    let s := match f with
      | .slot i =>
        let k := 16 * p + i
        let s := if s.bit ETH_TXSVC.TSREQ k then ethTxts s p (0xFF00 + i) t else s
        sealEnd s 2 p i (b.data.drop (slotHdr s p i)) true
      | .queue q i =>
        let w := txWords s p q i
        let s := if w.1.getLsbD 55 then ethTxts s p (bitsOf w.2 47 32) t else s
        txEnd s p q code t
    let s := lsFinal s (ethSrc p) key code true (ethPayload b.data)
    let s := journalTx s (ethSrc p) (b.lt.getD t) code (ethPayload b.data)
    ethPump s p

/-- ETH_LINK_DOWN: every frame whose launch time has been reached ends LINKDOWN, the one on the wire with
them (R367). -/
def linkDown (s : State) (p : Nat) : State :=
  if ! s.bit ETH_LINK.LINK p then s
  else
    let s := ethEventF (s.setBit ETH_LINK.LINK p false) p 0x8002
    let s := match (s.port p).wire with
      | some (f, _, _) =>
        let s := s.setPort p { s.port p with wire := none }
        match f with
        | .slot i =>
          sealCancel (lsFinal (s.satAdd ETH_STAT.LINKDOWN p 1) (ethSrc p) i 6 false []) 2 p i
        | .queue q _ => txLinkDown s p q
      | none => s
    let s := forL (upFrom 0 16) (fun i s => match s.ethSlot p i with
      | some b => if b.ready then slotEnd (s.satAdd ETH_STAT.LINKDOWN p 1) p i 6 else s
      | none => s) s
    let s := forL (upFrom 0 4) (fun q s =>
      if 2 ≤ headOf s p q ∧ (txLt (txWords s p q (s.fld ETH_TXQ1.HEAD (txq p q)))).isSome then txLinkDown s p q
      else s) s
    ethPump s p

/-- ETH_LINK_UP. -/
def linkUp (s : State) (p : Nat) (polrev : Bool) : State :=
  if s.bit ETH_LINK.LINK p then s
  else ethEventF ((s.setBit ETH_LINK.LINK p true).setBit ETH_LINK.POLREV p polrev) p 0x8001

/-- A read of ETH_TXTS removes the oldest transmit stamp (R365). -/
def ethTxtsPop (s : State) (p : Nat) : State × Word :=
  let x := s.port p
  match x.txts with
  | [] => (s, 0)
  | (fid, t) :: r => (s.setPort p { x with txts := r }, w64 (fid + 2 ^ 16 + t * 2 ^ 32))

/-! ## Enable, drain, abort (R368, R488) -/

/-- EN written 1 while DISABLED. -/
def ethEnable (s : State) (p : Nat) : State :=
  if s.fld ETH_CTL.STATE p = 2 then ethPump (s.setFld ETH_CTL.STATE p 0) p else s

/-- Servo slots waiting to leave end ABORTED. -/
def abortSlots (s : State) (p : Nat) : State := forL (upFrom 0 16) (fun i s => slotEnd s p i 4) s

/-- EN written 0: the frame on the wire completes; the frames that wait with a launch time end ABORTED. -/
def ethDrain (s : State) (p : Nat) : State :=
  if s.fld ETH_CTL.STATE p ≠ 0 then s
  else
    let s := abortSlots (s.setFld ETH_CTL.STATE p 1) p
    forL (upFrom 0 4) (fun q s =>
      if headOf s p q = 0 then s
      else if (txLt (txWords s p q (s.fld ETH_TXQ1.HEAD (txq p q)))).isSome then txEnd s p q 4 0
      else setHead s p q 0) s

/-- Every posted descriptor of a queue ends ABORTED. -/
def abortQueue (s : State) (p q : Nat) : Nat → State
  | 0 => s
  | fuel + 1 =>
    if s.fld ETH_TXQ1.HEAD (txq p q) = s.fld ETH_TXQ1.TAIL (txq p q) then setHead s p q 0
    else abortQueue (txEnd s p q 4 0) p q fuel

/-- ABORT: the frame on the wire is cut, and every queued frame ends ABORTED. -/
def ethAbort (s : State) (p : Nat) : State :=
  let s := match (s.port p).wire with
    | some (.slot i, _, _) => sealCancel (lsFinal s (ethSrc p) i 4 false []) 2 p i
    | _ => s
  let s := abortSlots (s.setPort p { s.port p with wire := none }) p
  let s := forL (upFrom 0 4) (fun q s => abortQueue s p q 256) s
  (s.setBit ETH_CTL.EN p false).setFld ETH_CTL.STATE p 2

/-- The drained port is DISABLED. -/
def ethDrained (s : State) (p : Nat) : State :=
  if s.fld ETH_CTL.STATE p = 1 ∧ (s.port p).wire = none then s.setFld ETH_CTL.STATE p 2 else s

end Sys2Proof.Machine
end

