-- ==== Sys2Proof/Machine/Servo.lean ====
section
/-! DEFINITION. The Servo Engine: instants, inputs, evaluations, outputs, safe state, enabling, SPI, the
injector and the capture unit (R331-R349, R520). -/

namespace Sys2Proof.Machine

/-- Source id of a loop (R515). -/
def loopSrc (n : Nat) : Nat := 0x6000 + n

/-- Source id of injection and capture. -/
def injSrc : Nat := 0x60C0

def State.loop (s : State) (n : Nat) : LoopSt := tget (fun _ => {}) s.loops n

def State.setLoop (s : State) (n : Nat) (x : LoopSt) : State := { s with loops := tput (fun _ => {}) s.loops n x }

def State.modLoop (s : State) (n : Nat) (f : LoopSt → LoopSt) : State := s.setLoop n (f (s.loop n))

/-- An event of the Servo Engine. -/
def srvEvent (s : State) (src code detail : Nat) : State := event s (s.fld SRV_CTL.EVQ 0) code src detail

/-- Strict mode as the Servo Engine sees it (R343, R394). -/
def srvStrict (s : State) : Bool := s.bit DET_STAT.STRICTNOW 0

/-- The binding words of a loop: IN, SPB, FFB (R339). -/
def binding (s : State) (n role : Nat) : Word :=
  s.reg (match role with
    | 0 => .SRV_LP_IN
    | 1 => .SRV_LP_SPB
    | _ => .SRV_LP_FFB) n

/-- KIND of a binding word. -/
def kindOf (b : Word) : Nat := bitsOf b 2 0

/-- Address of a KIND 4 word. -/
def cellOf (b : Word) : Nat := bitsOf b 39 3 * 8

/-! ## Inputs (R339-R341, R520) -/

/-- An input as found at selection: fresh or not; its value and whether it saturated, none when it is a NaN, an
infinity or poisoned; the arrival or sequence number; the address of a poisoned word. -/
structure InVal where
  fresh : Bool
  val   : Option (Bfv × Bool)
  use   : Option Nat := none
  psn   : Option Nat := none

/-- An input of a loop at instant t. -/
def readInput (s : State) (n role t : Nat) : InVal :=
  let b := binding s n role
  let k := kindOf b
  let last := tget (fun _ => none) (s.loop n).used role
  if 1 ≤ k ∧ k ≤ 3 then
    match arrivalAt s k (bitsOf b 5 3) (if k = 3 then 0 else bitsOf b 12 6) t with
    | none => { fresh := false, val := none }
    | some a =>
      let age := bitsOf b 63 40
      { fresh := decide (last ≠ some a.num) && (decide (age = 0) || decide (stampDiff a.stamp t ≤ (age * 1000 : Int))),
        val := bfOfVal (fieldVal a.data (bitsOf b 18 13) (bitsOf b 20 19) (b.getLsbD 21)) (b.extractLsb' 22 8).toInt,
        use := some a.num }
  else if k = 4 then
    let a := cellOf b
    let w := s.word a
    { fresh := decide (last ≠ some (bitsOf w 63 32)),
      val := if s.mark a then none else bfOfVal (fDecode .f32 (bitsOf w 31 0)) 0,
      use := some (bitsOf w 63 32), psn := if s.mark a then some a else none }
  else { fresh := true, val := some (0, false) }

/-- The input may be used: fresh, a number, not poisoned (R341). -/
def InVal.ok (x : InVal) : Bool := x.fresh && x.val.isSome

/-- A KIND 4 input of the loop is not fresh (R343). -/
def cellWaits (s : State) (n t : Nat) : Bool :=
  (upFrom 0 3).any fun r => decide (kindOf (binding s n r) = 4) && ! (readInput s n r t).fresh

/-- The value an input gives: its own, or the one last used (R341). -/
def inputVal (s : State) (n role : Nat) (x : InVal) : Bfv × Bool :=
  match x.ok, x.val with
  | true, some v => v
  | _, _ => (tget (fun _ => 0) (s.loop n).prev role, false)

/-- The reads of the KIND 4 words of a loop, at which code errors are met (R340, R438). -/
def cellReads (s : State) (n : Nat) : State :=
  forL (upFrom 0 3) (fun r s =>
    if kindOf (binding s n r) = 4 then touchRead s (loopSrc n) (cellOf (binding s n r)) 8 0 else s) s

/-- Poisoned inputs are consumed (R341). -/
def poisonedInputs (s : State) (n : Nat) (xs : List InVal) : State :=
  forL xs (fun x s => match x.psn with
    | some a => consumePoison s (loopSrc n) 5 a
    | none => s) s

/-- The inputs of instant t are selected (R340, R341). -/
def selectInputs (s : State) (n t : Nat) : State :=
  let s := cellReads s n
  let xs := (upFrom 0 3).map fun r => readInput s n r t
  let s := poisonedInputs s n xs
  let stale := (xs.filter fun x => ! x.ok).length
  let s := s.satAdd SRV_LP_CNT.STALE n stale
  let inBad := ! ((xs.head?.map InVal.ok).getD true)
  let run := if inBad then (s.loop n).staleRun + 1 else 0
  let lim := s.fld SRV_LP_CTL.NSTALE n
  let s := if lim ≠ 0 ∧ run = lim then srvEvent s (loopSrc n) 0x6001 (n + t * 2 ^ 32) else s
  let vs := (upFrom 0 3).map fun r => inputVal s n r (xs.getD r { fresh := true, val := none })
  let v := fun i => (vs.getD i (0, false)).1
  s.modLoop n fun l => { l with
    waits := none, staleRun := run
    sel := some { t := t, meas := v 0, sp := v 1, ff := v 2, stale := inBad, sat := vs.any Prod.snd,
                  uses := xs.map fun x => if x.ok then x.use else none
                  ffStale := ! ((xs[2]?.map InVal.ok).getD true) } }

/-! ## Outputs (R338, R342, R344) -/

/-- EGATE by EAMT. -/
def egate (s : State) (n : Nat) : State :=
  if s.bit SRV_LP_GATE.EGEN n then
    signalHandle s (loopSrc n) (w64 (s.fld SRV_LP_GATE.EGATE n)) (BitVec.ofNat 32 (s.fld SRV_LP_GATE.EAMT n))
  else s

/-- Writes u into the frame that OUT names and, with COMMIT, queues it for t + LOFF; `p` marks the value
poisoned. -/
def servoOutput (s : State) (n t : Nat) (u : Bfv) (p : Bool) : State :=
  let b := s.reg .SRV_LP_OUT n
  let unit := bitsOf b 5 3
  let mbx := bitsOf b 12 6
  let fmt := bitsOf b 20 19
  let r := fieldOut u (b.extractLsb' 22 8).toInt fmt
  let bs := fieldBytes r.1 fmt (b.getLsbD 21)
  let eth := decide (kindOf b = 2) && decide (unit < 4) && decide (mbx < 16)
  if kindOf b ≠ 1 ∧ ¬ eth then s
  else
    let s := if r.2 then s.satAdd SRV_LP_CNT.SAT n 1 else s
    let s := if eth then slotField s unit mbx (bitsOf b 18 13) bs p else mbxField s unit mbx (bitsOf b 18 13) bs p
    if ! b.getLsbD 30 then s
    else
      let lt := (t + s.fld SRV_LP_LOFF.LOFF n) % 2 ^ 32
      let late := s.reached lt && decide (s.stamp ≠ lt)
      let s := if eth then slotCommit s unit mbx lt t else canRequest s unit mbx (some lt) t false
      if ! late then s
      else if srvStrict s then s.satAdd SRV_LP_CNT.LATE n 1
      else srvEvent (s.satAdd SRV_LP_CNT.OVR n 1) (loopSrc n) 0x6002 (n + t * 2 ^ 32)

/-! ## Instants (R337, R343, R344) -/

/-- SERVO_INSTANT_RELEASE: the Timebase has reached the loop's next instant. -/
def servoRelease (s : State) (n : Nat) : State :=
  let l := s.loop n
  if s.fld SRV_LP_CTL.STATE n ≠ 0 ∨ ¬ s.reached l.next then s
  else s.setLoop n { l with released := l.released ++ [l.next],
                            next := (l.next + s.fld SRV_LP_TIME.PER n) % 2 ^ 32 }

/-- The loop's output in safe state (R344). -/
def servoSafe (s : State) (n t : Nat) : State :=
  let u := if s.bit SRV_LP_CTL.SAFEPOL n then s.fld SRV_LP_RATE.SAFEVAL n else s.fld SRV_LP_VAL.U n
  egate (servoOutput s n t (BitVec.ofNat 32 u) false) n

/-- SERVO_INPUT_SELECT: 1 µs after an instant its inputs are selected; in safe state the output is written
instead, and in strict mode the loop waits for a fresh word (R337, R343, R344). -/
def servoSelect (s : State) (n : Nat) : State :=
  let l := s.loop n
  match l.released with
  | [] => s
  | t :: r =>
    if s.fld SRV_LP_CTL.STATE n = 2 ∨ l.sel.isSome ∨ l.waits.isSome ∨ ¬ s.reached ((t + 1000) % 2 ^ 32) then s
    else
      let s := s.setLoop n { l with released := r }
      if inSafe s then servoSafe s n t
      else if srvStrict s && cellWaits s n t then
        (if s.fld SRV_LP_CTL.STATE n = 0 then s.modLoop n fun l => { l with waits := some t } else s)
      else selectInputs s n t

/-- SERVO_STRICT_INPUT_FRESH: the inputs that a loop waits for are fresh (R343). -/
def servoFresh (s : State) (n : Nat) : State :=
  match (s.loop n).waits with
  | some t => if cellWaits s n t then s else selectInputs s n t
  | none => s

/-- The earliest instant for which a loop has something to evaluate. -/
def servoDue (s : State) (n : Nat) : Option Nat :=
  let l := s.loop n
  match l.sel, l.waits with
  | some x, _ => some x.t
  | none, some _ => none
  | none, none => l.released.head?

/-- No other loop must be evaluated before loop n at instant t (R337). -/
def servoTurn (s : State) (n t : Nat) : Bool :=
  s.loops.all fun x => x.1 == n || match servoDue s x.1 with
    | none => true
    | some u => decide (0 < stampDiff t u) || (decide (u = t) && decide (n < x.1))

/-! ## The injector (R348) -/

/-- The greatest number with (2r - 1)^p at most 2^p × v, its n low bits added to r from the top down. -/
def rootHalf (p v : Nat) : Nat → Nat → Nat
  | 0, r => r
  | n + 1, r => rootHalf p v n (if (2 * (r + 2 ^ n) - 1) ^ p ≤ 2 ^ p * v then r + 2 ^ n else r)

/-- round(a × (b / a)^(j / p)): the increment of step j of a logarithmic sweep, exactly (R348). -/
def logInc (a b p j : Nat) : Nat := if p = 0 then a else rootHalf p (a ^ (p - j) * b ^ j) 33 0

/-- The step of a sweep that evaluation k belongs to, and its phase increment; the last step lasts for as long as the
run does (assumption log 31). A logarithmic sweep from 0 has a free increment. -/
def sweepInc (s : State) (k : Nat) : Nat :=
  let a := s.fld SRV_INJ_P.INC0 0
  let b := s.fld SRV_INJ_SWP.INC1 0
  let i0 : Int := a
  let i1 : Int := b
  let ns := s.fld SRV_INJ_SWP.NSTEP 0
  let j := min (k / max 1 (s.fld SRV_INJ_SWP.DWELL 0)) (ns - 1)
  let n := s.fld SRV_INJ_CTL.NSAMP 0
  match s.fld SRV_INJ_CTL.WAVE 0 with
  | 2 => ((i0 + Int.fdiv ((i1 - i0) * k) n) % 2 ^ 32).toNat
  | 3 => ((i0 + (if ns ≤ 1 then 0 else Int.fdiv ((i1 - i0) * j) (ns - 1))) % 2 ^ 32).toNat
  | _ => if a = 0 ∧ 0 < j then (Config.freeWord (s.freeCtr + k)).toNat % 2 ^ 32 else logInc a b (ns - 1) j

/-- The sine of the injector: exact at the quarter turns, elsewhere one of the two block-float values around the exact
one, each within 1 ulp of it (R348). -/
def sinq (phase : Nat) : Bfv :=
  let s := decide (2 ^ 31 ≤ phase % 2 ^ 32)
  if phase % 2 ^ 31 = 0 then 0
  else if phase % 2 ^ 31 = 2 ^ 30 then (bfNorm s 1 0 false).1
  else
    let v := (sinFix phase).toNat
    let up := (Config.sineRoutine (BitVec.ofNat 32 phase)).getLsbD 0
    (bfNorm s (v >>> (v.log2 - 22) + up.toNat) ((v.log2 : Int) - 22 - fxBits) false).1

/-- The parity of a number's bits below 31. -/
def parity31 (n : Nat) : Bool := decide (((upFrom 0 31).filter n.testBit).length % 2 = 1)

/-- The injected value of this evaluation and the run after it; whether a product saturated. -/
def injStep (s : State) : Bfv × InjSt × Bool :=
  let j := s.inj
  let amp := BitVec.ofNat 32 (s.fld SRV_INJ_P.AMP 0)
  match s.fld SRV_INJ_CTL.WAVE 0 with
  | 0 => (amp, { j with k := j.k + 1 }, false)
  | 1 =>
    let turn := decide (j.k % max 1 (s.fld SRV_INJ_SWP.DWELL 0) = 0)
    let b := if turn then parity31 (j.prbs &&& s.fld SRV_INJ_PRBS.TAPS 0) else j.bitv
    let reg := if turn then (j.prbs * 2 + if b then 1 else 0) % 2 ^ s.fld SRV_INJ_CTL.ORDER 0 else j.prbs
    let v := if b then (amp, false) else bfSum [(Bfv.term amp).neg]
    (v.1, { j with k := j.k + 1, prbs := reg, bitv := b }, v.2)
  | _ =>
    let v := bfSum [bfMul amp (sinq j.phase)]
    (v.1, { j with k := j.k + 1, phase := (j.phase + sweepInc s j.k) % 2 ^ 32 }, v.2)

/-- Evaluations of a run; 0 means until STOP (R348). -/
def injRun (s : State) : Nat := s.fld SRV_INJ_CTL.NSAMP 0

/-- The run has ended. -/
def injEnd (s : State) : State :=
  if s.bit SRV_INJ_CTL.BUSY 0 then eventFree (s.setBit SRV_INJ_CTL.BUSY 0 false) (s.fld SRV_CTL.EVQ 0) 0x6004 injSrc else s

/-- The injector adds its signal to loop n. -/
def injects (s : State) (n : Nat) : Bool := s.bit SRV_INJ_CTL.BUSY 0 && decide (s.fld SRV_INJ_CTL.LOOP 0 = n)

/-- GO of SRV_INJ_CTL: a run starts unless one runs or the settings are reserved or not permitted. -/
def injGo (s : State) : State :=
  let w := s.fld SRV_INJ_CTL.WAVE 0
  if s.bit SRV_INJ_CTL.BUSY 0 ∨ 5 ≤ w ∨ s.fld SRV_INJ_CTL.POINT 0 = 3 ∨ (w = 2 ∧ s.fld SRV_INJ_CTL.NSAMP 0 = 0)
  then s
  else { s.setBit SRV_INJ_CTL.BUSY 0 true with
         inj := { prbs := s.fld SRV_INJ_PRBS.SEED 0 % 2 ^ s.fld SRV_INJ_CTL.ORDER 0 } }

/-! ## The capture unit (R349) -/

/-- A signal of a loop's latest evaluation. -/
def sigOf (g : ServoSig) (i : Nat) : Bfv :=
  [g.meas, g.sp, g.e, g.c, g.i, g.u, g.inj, g.f].getD i 0

/-- Writes one sample. -/
def capSample (s : State) (k : Nat) : State :=
  let nch := s.fld SRV_CAP_CTL.NCHM1 0 + 1
  forL (upFrom 0 nch) (fun ch s =>
    let a := s.fld SRV_CAP_BASE.BASE 0 + (k * nch + ch) * 4
    let v := bfToF32 (sigOf (s.loop (s.fld SRV_CAP_SEL.LOOP ch)).sig (s.fld SRV_CAP_SEL.SIG ch)) 0
    if s.within .cistern a 4 then performG s injSrc (atAddr a (leBytes 4 v)) fun _ => false else s) s

/-- An evaluation of loop n at instant t is complete: the capture takes a sample when it is due; `first` is the
injector's first evaluation. -/
def capture (s : State) (n t : Nat) (first : Bool) : State :=
  if ! s.bit SRV_CAP_CTL.BUSY 0 || s.cap.ended then s
  else
    let s := if s.cap.armed && first then { s with cap := { s.cap with armed := false } } else s
    let c := s.cap
    if c.armed || decide (s.fld SRV_CAP_CTL.LOOP 0 ≠ n) then s
    else
      let due := decide (c.seen % (s.fld SRV_CAP_CTL.DEC 0 + 1) = 0)
      let s := { s with cap := { c with seen := c.seen + 1 } }
      if ! due then s
      else
        let s := capSample s c.count
        let k := c.count + 1
        let s := { s with cap := { s.cap with count := k, t0 := if c.count = 0 then t else c.t0,
                                              ended := decide (s.fld SRV_CAP_CTL.NSAMP 0 ≤ k) } }
        s.setFld SRV_CAP_STAT.COUNT 0 k

/-- GO of SRV_CAP_CTL. -/
def capGo (s : State) : State :=
  if s.bit SRV_CAP_CTL.BUSY 0 then s
  else
    let s := (s.setBit SRV_CAP_CTL.BUSY 0 true).setFld SRV_CAP_STAT.COUNT 0 0
    { s with cap := { armed := s.bit SRV_CAP_CTL.SYNC 0 } }

/-- STOP of SRV_CAP_CTL. -/
def capStop (s : State) : State := { s with cap := { s.cap with ended := true } }

/-- CAPTURE_DONE: the samples are written and every write has been performed. -/
def capDone (s : State) : State :=
  if s.bit SRV_CAP_CTL.BUSY 0 && s.cap.ended then
    let s := (s.setBit SRV_CAP_CTL.BUSY 0 false).setFld SRV_CAP_STAT.T0 0 s.cap.t0
    srvEvent s injSrc 0x6005 s.cap.count
  else s

/-! ## Evaluations (R333-R336, R341) -/

/-- The exact quotient of a term and a value other than zero, rounded once. -/
def termDiv (a : Term) (b : Bfv) : Bfv × Bool :=
  let n := a.t.natAbs * 2 ^ 64
  let d := b.mant.natAbs
  bfNorm (decide (a.t < 0) != decide (b.mant < 0)) (n / d) (a.f - ((b.exp : Int) - 150) - 64) (decide (n % d ≠ 0))

/-- clamp to the limits; whether it altered the value. -/
def bfClamp (lo hi v : Bfv) : Bfv × Bool :=
  if bfLt v lo then (lo, true) else if bfLt hi v then (hi, true) else (v, false)

/-- The stages of a loop in order: the output, the new state words by stage, whether norm saturated. -/
def runStages (s : State) (n : Nat) (e : Bfv) : Bfv × List (Word × Word) × Bool :=
  (upFrom 0 (s.fld SRV_LP_CTL.NSTAGE n)).foldl (fun a i =>
    let k := 8 * n + i
    let c := fun w => tget (fun _ => 0) (s.loop n).coef (3 * i + w)
    let r := bfStage (c 0) (c 1) (c 2) (s.reg .SRV_LP_STATE0 k) (s.reg .SRV_LP_STATE1 k) a.1
    (r.1, a.2.1 ++ [(r.2.1, r.2.2.1)], a.2.2 || r.2.2.2)) (e, [], false)

/-- A child of loop n runs in manual (R336). -/
def childManual (s : State) (n : Nat) : Bool :=
  s.loops.any fun x => decide (kindOf (s.reg .SRV_LP_SPB x.1) = 5) && decide (s.fld SRV_LP_CTL.PARENT x.1 = n) &&
    decide (s.fld SRV_LP_CTL.STATE x.1 ≠ 2) && s.bit SRV_LP_MODE.MODENOW x.1

/-- The parent's u from its latest evaluation at or before t (R340). -/
def parentOut (s : State) (p t : Nat) : Bfv :=
  match (s.loop p).hist.find? fun h => atOrBefore h.1 t with
  | some h => h.2
  | none => BitVec.ofNat 32 (s.fld SRV_LP_VAL.U p)

/-- The instants for which the children of loop n have still to be evaluated. -/
def childInstants (s : State) (n : Nat) : List Nat :=
  s.loops.flatMap fun x =>
    if kindOf (s.reg .SRV_LP_SPB x.1) = 5 ∧ s.fld SRV_LP_CTL.PARENT x.1 = n then
      x.2.released ++ (x.2.waits.map fun t => [t]).getD [] ++ (x.2.sel.map fun q => [q.t]).getD []
    else []

/-- Keeps of a loop's outputs the newest and those that a child can still need. -/
def pruneHist (l : List (Nat × Bfv)) (ts : List Nat) : List (Nat × Bfv) :=
  (upFrom 0 l.length).filterMap fun i =>
    match l[i]? with
    | none => none
    | some h => if i = 0 ∨ ts.any fun t =>
        atOrBefore h.1 t && ! (l.take i).any fun g => atOrBefore g.1 t then some h else none

/-- What an evaluation computes (R334, R335): the output, the integrator, the signals, whether norm saturated
or a limit altered a value, whether the feed-forward input counts as stale, MANUAL. -/
structure Eval where
  u      : Bfv
  i      : Bfv
  sig    : ServoSig
  states : List (Word × Word)
  sat    : Bool
  ffBad  : Bool
  manual : Bfv
  free   : Bool := false

/-- One evaluation (R334, R335); `point` is where inj is added, none when nothing is injected. -/
def evaluate (s : State) (n : Nat) (x : ServoSel) (inj : Bfv) (point : Option Nat) : Eval :=
  let g := fun (f : Fld) => (BitVec.ofNat 32 (s.fld f n) : Bfv)
  let ffm := s.fld SRV_LP_CTL.FFM n
  let aw := s.fld SRV_LP_CTL.AW n
  let spb := kindOf (s.reg .SRV_LP_SPB n)
  let sp0 := if spb = 5 then parentOut s (s.fld SRV_LP_CTL.PARENT n) x.t
    else if spb = 6 then g SRV_LP_SP.SP else x.sp
  let sp := if point = some 0 then bfSum [sp0.term, inj.term] else (sp0, false)
  let e0 := bfSum [sp.1.term, (Bfv.term x.meas).neg]
  let e := if point = some 1 then bfSum [e0.1.term, inj.term] else (e0.1, false)
  let st := runStages s n e.1
  let c := st.1
  let f := if ffm = 2 then bfSum [bfMul (g SRV_LP_FF.KA) x.ff] else (0, false)
  let vnom := g SRV_LP_FF.VNOM
  let low := decide (ffm = 1) && decide (Bfv.mant x.ff ≤ 0)
  let r := if ffm = 1 ∧ ¬ low then bfDiv vnom x.ff else (bfOne, false)
  let uprev := g SRV_LP_VAL.U
  let rmax := g SRV_LP_RATE.RMAX
  let clamp := bfClamp (g SRV_LP_LIM.UMIN) (g SRV_LP_LIM.UMAX)
  let dn := bfSum [Bfv.term uprev, (Bfv.term rmax).neg]
  let up_ := bfSum [Bfv.term uprev, Bfv.term rmax]
  let rlim := fun v => if Bfv.mant rmax = 0 then (v, false) else bfClamp dn.1 up_.1 v
  let rsat := decide (Bfv.mant rmax ≠ 0) && (dn.2 || up_.2)
  let isMan := s.bit SRV_LP_MODE.MODE n
  let wasMan := (s.loop n).wasMan
  let man := if isMan ∧ ¬ wasMan then uprev else g SRV_LP_SP.MANUAL
  let i0 := g SRV_LP_VAL.I
  let sat0 := x.sat || sp.2 || e0.2 || e.2 || st.2.2 || f.2 || rsat
  let sig := fun (i u : Bfv) =>
    ({ meas := x.meas, sp := sp.1, e := e.1, c := c, i := i, u := u, inj := inj, f := f.1 } : ServoSig)
  if isMan then
    let a := clamp man
    let b := rlim a.1
    ⟨b.1, i0, sig i0 b.1, st.2.1, sat0 || r.2 || a.2 || b.2, low, man, false⟩
  else
    let first := (s.loop n).preset
    let open_ := first && decide (ffm = 1) && ! low && decide (Bfv.mant vnom = 0)
    let mp := if ffm = 1 ∧ ¬ low then
        (if Bfv.mant vnom = 0 then (s.free.setWidth 32, false) else termDiv (bfMul man x.ff) vnom)
      else (man, false)
    let i1 := if first then bfSum [Bfv.term mp.1, c.term.neg, f.1.term.neg] else (i0, false)
    let q0 := bfSum [c.term, i1.1.term, f.1.term]
    let q1 := if point = some 2 then bfSum [q0.1.term, inj.term] else (q0.1, false)
    let q2 := if ffm = 1 then bfSum [bfMul q1.1 r.1] else (q1.1, false)
    let up := q2.1
    let a := clamp up
    let b := rlim a.1
    let ke := bfMul (g SRV_LP_GAIN.KI) e.1
    let d := bfSum [b.1.term, up.term.neg]
    let above := bfLt a.1 up
    let held := decide (aw = 1) && a.2 && decide (ke.t ≠ 0) && (decide (0 < ke.t) == above)
    let i2 := if first ∨ childManual s n then (i1.1, false)
      else if aw = 2 then
        let t := bfSum [i1.1.term, ke, bfMul (g SRV_LP_GAIN.KB) d.1]
        (t.1, t.2 || d.2)
      else if held then (i1.1, false)
      else bfSum [i1.1.term, ke]
    ⟨b.1, i2.1, sig i2.1 b.1, st.2.1,
      sat0 || r.2 || (first && mp.2) || i1.2 || q0.2 || q1.2 || q2.2 || a.2 || b.2 || i2.2, low,
      g SRV_LP_SP.MANUAL, open_⟩

/-- An evaluation is performed: its state is kept, its signals are captured, its output is written (R334,
R338, R342). `bad` is a residue mismatch of a stage multiply (R421). -/
def performEval (s : State) (n : Nat) (x : ServoSel) (bad : Bool) : State :=
  let on := injects s n
  let j := if on then injStep s else (0, s.inj, false)
  let v := evaluate s n x j.1 (if on then some (s.fld SRV_INJ_CTL.POINT 0) else none)
  let first := on && decide (s.inj.k = 0)
  let s := if v.free then s.useFree else s
  let s := if bad then detect s 11 (loopSrc n) else s
  let s := if v.ffBad && ! x.ffStale then s.satAdd SRV_LP_CNT.STALE n 1 else s
  let s := if v.sat || j.2.2 then s.satAdd SRV_LP_CNT.SAT n 1 else s
  let s := forL ((upFrom 0 v.states.length).zip v.states) (fun q s =>
    (s.setReg .SRV_LP_STATE0 (8 * n + q.1) q.2.1).setReg .SRV_LP_STATE1 (8 * n + q.1) q.2.2) s
  let man := s.bit SRV_LP_MODE.MODE n
  let s := ((s.setFld SRV_LP_VAL.I n v.i.toNat).setFld SRV_LP_VAL.U n v.u.toNat).setFld SRV_LP_SP.MANUAL n
    v.manual.toNat
  let s := s.setBit SRV_LP_MODE.MODENOW n man
  let kids := childInstants s n
  let s := s.modLoop n fun l => { l with
    wasMan := man, preset := man, sig := v.sig, hist := pruneHist ((x.t, v.u) :: l.hist) kids
    used := forL ((upFrom 0 3).zip x.uses) (fun q t => match q.2 with
      | some k => tput (fun _ => none) t q.1 (some k)
      | none => t) l.used
    prev := forL [(0, x.meas), (1, x.sp), (2, x.ff)] (fun q t => tput (fun _ => 0) t q.1 q.2) l.prev }
  let s := capture { s with inj := j.2.1 } n x.t first
  let s := if on && decide (injRun s ≠ 0) && decide (injRun s ≤ s.inj.k) then injEnd s else s
  egate (servoOutput s n x.t v.u bad) n

/-- SERVO_EVALUATE: the loop's evaluation is performed, or skipped under STALEPOL (R334, R337, R341). -/
def servoEvaluate (s : State) (n : Nat) (bad : Bool) : State :=
  match (s.loop n).sel with
  | none => s
  | some x =>
    if ! servoTurn s n x.t then s
    else
      let s := s.modLoop n fun l => { l with sel := none }
      let pol := s.fld SRV_LP_CTL.STALEPOL n
      if ! x.stale || decide (pol = 0) then performEval s n x bad
      else if pol = 1 then egate (servoOutput s n x.t (BitVec.ofNat 32 (s.fld SRV_LP_VAL.U n)) false) n
      else if pol = 2 then egate (servoOutput s n x.t (BitVec.ofNat 32 (s.fld SRV_LP_RATE.SAFEVAL n)) false) n
      else egate s n

/-! ## Safe state, enable, drain, abort (R344-R347) -/

/-- The module enters safe state: every loop stops evaluating. -/
def servoEnterSafe (s : State) : State :=
  forL (s.loops.map Prod.fst) (fun n s => s.modLoop n fun l => { l with sel := none, waits := none }) s

/-- A binding word is refused in its role (R345): 0-2 inputs, 3 the output. -/
def bindBad (s : State) (n role : Nat) (b : Word) : Bool :=
  let k := kindOf b
  let frame := decide (1 ≤ k) && decide (k ≤ (if role = 3 then 2 else 3))
  if k = 0 then false
  else if frame then
    decide (bitsOf b 39 31 ≠ 0) || (if role = 3 then decide (bitsOf b 63 40 ≠ 0) else b.getLsbD 30)
  else if k = 4 ∧ role ≠ 3 then
    decide (bitsOf b 63 40 ≠ 0) || decide (cellOf b < cisternBase) || decide (runtimeBase ≤ cellOf b)
  else if k = 5 ∧ role = 1 then decide (bitsOf b 63 3 ≠ 0) || decide (n ≤ s.fld SRV_LP_CTL.PARENT n)
  else if k = 6 ∧ role = 1 then decide (bitsOf b 63 3 ≠ 0)
  else true

/-- The slot configuration is refused (R345). -/
def loopBad (s : State) (n : Nat) : Bool :=
  let per := s.fld SRV_LP_TIME.PER n
  decide (8 < s.fld SRV_LP_CTL.NSTAGE n) || decide (per < 25000) || decide (1000000000 < per) ||
  decide (1000000 < s.fld SRV_LP_LOFF.LOFF n) || decide (s.fld SRV_LP_CTL.FFM n = 3) ||
  decide (s.fld SRV_LP_CTL.AW n = 3) || ((upFrom 0 3).any fun r => bindBad s n r (binding s n r)) ||
  bindBad s n 3 (s.reg .SRV_LP_OUT n) ||
  (decide (s.fld SRV_LP_CTL.FFM n ≠ 0) && decide (kindOf (s.reg .SRV_LP_FFB n) = 0)) ||
  (s.bit SRV_LP_GATE.EGEN n && ! handleOkUnit (w64 (s.fld SRV_LP_GATE.EGATE n)) false)

/-- The first instant at enable (R337). -/
def firstInstant (s : State) (n : Nat) : Nat :=
  let start := s.fld SRV_LP_TIME.START n
  let per := s.fld SRV_LP_TIME.PER n
  if 0 ≤ stampDiff s.stamp start then start
  else
    let k := ((s.stamp + 2 ^ 32 - start) % 2 ^ 32) / per + 1
    (start + k * per) % 2 ^ 32

/-- EN written 1 while DISABLED (R345). -/
def loopEnable (s : State) (n : Nat) : State :=
  if s.fld SRV_LP_CTL.STATE n ≠ 2 then s
  else if loopBad s n then srvEvent (s.setBit SRV_LP_CTL.EN n false) (loopSrc n) 0x6003 n
  else
    let s := s.setFld SRV_LP_CTL.STATE n 0
    let s := forL (upFrom 0 8) (fun i s =>
      (s.setReg .SRV_LP_STATE0 (8 * n + i) 0).setReg .SRV_LP_STATE1 (8 * n + i) 0) s
    let man := s.bit SRV_LP_MODE.MODE n
    let s := s.setBit SRV_LP_MODE.MODENOW n man
    let l := s.loop n
    let used : Tab (Option Nat) := forL (upFrom 0 3) (fun r t =>
      let b := binding s n r
      if kindOf b = 4 then tput (fun _ => none) t r (some (bitsOf (s.word (cellOf b)) 63 32)) else t) []
    s.setLoop n
      ({ next := firstInstant s n, wasMan := man, preset := l.offMan && ! man, coef := l.coef, sig := l.sig, used := used } : LoopSt)

/-- The loop is DISABLED. -/
def loopOff (s : State) (n : Nat) : State :=
  let s := (s.setFld SRV_LP_CTL.STATE n 2).setBit SRV_LP_CTL.EN n false
  s.modLoop n fun l => { l with released := [], sel := none, waits := none, offMan := s.bit SRV_LP_MODE.MODENOW n }

/-- An island reset of island 29 leaves the loop DISABLED, its state lost; the coefficient words in effect are those of its
registers, which the reset keeps (R346, R347, R484). -/
def loopLost (n : Nat) (s : State) : State :=
  let on := decide (s.fld SRV_LP_CTL.STATE n ≠ 2) || s.bit SRV_LP_CTL.EN n
  let man := s.bit SRV_LP_MODE.MODENOW n
  let s := s.modLoop n fun l => { coef := l.coef, offMan := if on then man else l.offMan }
  if on then (s.setFld SRV_LP_CTL.STATE n 2).setBit SRV_LP_CTL.EN n false else s

/-- EN written 0 (R346). -/
def loopDrain (s : State) (n : Nat) : State :=
  if s.fld SRV_LP_CTL.STATE n = 0 then
    (s.setFld SRV_LP_CTL.STATE n 1).modLoop n fun l => { l with waits := none }
  else s

/-- ABORT (R346). -/
def loopAbort (s : State) (n : Nat) : State := loopOff s n

/-- The drained loop is DISABLED. -/
def loopDrained (s : State) (n : Nat) : State :=
  if s.fld SRV_LP_CTL.STATE n = 1 ∧ (s.loop n).released = [] ∧ (s.loop n).sel = none then loopOff s n else s

/-- COEF2 of a stage is written: the three words take effect together (R347). -/
def coefCommit (s : State) (n i : Nat) : State :=
  let k := 8 * n + i
  let ws := [(0, s.reg .SRV_LP_COEF0 k), (1, s.reg .SRV_LP_COEF1 k), (2, s.reg .SRV_LP_COEF2 k)]
  s.modLoop n fun l =>
    { l with coef := forL ws (fun q t => tput (fun _ => 0) t (3 * i + q.1) q.2) l.coef }

/-! ## SPI (R340) -/

/-- SPI_TRANSACTION: the port sends TXLEN bytes and reads RXLEN bytes into the sample, stamped at the end of
the transaction. -/
def spiRun (s : State) (p : Nat) (data : List Byte) : State :=
  if ! s.bit SRV_SPI.EN p then s
  else
    let tx := (leBytes 8 (s.reg .SRV_SPI_TX p).toNat).take (s.fld SRV_SPI.TXLEN p)
    let s := s.send (.spi p tx)
    if replaying s then s
    else
      let rx := data.take (s.fld SRV_SPI.RXLEN p)
      journalIn (latch s 3 p 0 s.stamp rx) 0x05 0x6000 s.stamp (leBytes 8 p ++ rx)

end Sys2Proof.Machine
end

