-- ==== Sys2Proof/Machine/Intake.lean ====
section
/-! DEFINITION. Intake: camera channels, pixel processing, buffer sets and frame records, steering
(R280-R295), the frozen-frame detector (R424), power over coax (R280, R507). -/

namespace Sys2Proof.Machine

/-- Source id of a channel (R515). -/
def ingSrc (c : Nat) : Nat := 0x4000 + c

def State.chan (s : State) (c : Nat) : ChanSt := tget (fun _ => {}) s.chans c

def State.setChan (s : State) (c : Nat) (x : ChanSt) : State := { s with chans := tput (fun _ => {}) s.chans c x }

/-- An intake event (R305). -/
def ingEvent (s : State) (src code detail : Nat) : State := event s (s.fld ING_FB_CTL.EVQ 0) code src detail

/-- An intake event whose detail no rule gives. -/
def ingEventF (s : State) (src code : Nat) : State := eventFree s (s.fld ING_FB_CTL.EVQ 0) code src

/-! ## Raw samples (R281; the packing of MIPI CSI-2, assumption log 43) -/

/-- Bits of a sample of a data type; 0 for a type that is not taken. -/
def dtBits (dt : Nat) : Nat :=
  match dt with
  | 0x2A => 8 | 0x2B => 10 | 0x2C => 12 | 0x2D => 14 | 0x2E => 16 | _ => 0

/-- Bytes of a packed row of w samples. -/
def rowBytes (dt w : Nat) : Nat := w * dtBits dt / 8

/-- The samples of one packed group. -/
def unpackGroup (dt : Nat) (b : List Nat) : List Nat :=
  let g := fun i => b.getD i 0
  match dt with
  | 0x2A => [g 0]
  | 0x2B => (upFrom 0 4).map fun i => g i * 4 + g 4 / 4 ^ i % 4
  | 0x2C => [g 0 * 16 + g 2 % 16, g 1 * 16 + g 2 / 16]
  | 0x2D =>
    let low := g 4 + g 5 * 2 ^ 8 + g 6 * 2 ^ 16
    (upFrom 0 4).map fun i => g i * 64 + low / 64 ^ i % 64
  | _ => [g 0 * 256 + g 1]

/-- Bytes of a packed group. -/
def groupBytes (dt : Nat) : Nat :=
  match dt with
  | 0x2A => 1 | 0x2B => 5 | 0x2C => 3 | 0x2D => 7 | _ => 2

/-- The samples of a packed row. -/
def unpackRow (dt : Nat) (bs : List Byte) : List Nat :=
  (pieces (groupBytes dt) (bs.map BitVec.toNat)).flatMap (unpackGroup dt)

/-- One group packed. -/
def packGroup (dt : Nat) (p : List Nat) : List Nat :=
  let g := fun i => p.getD i 0
  match dt with
  | 0x2A => [g 0]
  | 0x2B => (upFrom 0 4).map (fun i => g i / 4) ++ [(upFrom 0 4).foldl (fun n i => n + g i % 4 * 4 ^ i) 0]
  | 0x2C => [g 0 / 16, g 1 / 16, g 0 % 16 + g 1 % 16 * 16]
  | 0x2D =>
    let low := (upFrom 0 4).foldl (fun n i => n + g i % 64 * 64 ^ i) 0
    (upFrom 0 4).map (fun i => g i / 64) ++ [low % 256, low / 256 % 256, low / 65536 % 256]
  | _ => [g 0 / 256, g 0 % 256]

/-- A row of samples packed per its data type. -/
def packRow (dt : Nat) (row : List Nat) : List Byte :=
  let n := match dt with
    | 0x2B | 0x2D => 4
    | 0x2C => 2
    | _ => 1
  ((pieces n row).flatMap (packGroup dt)).map (BitVec.ofNat 8)

/-! ## The pixel chain (R284-R286) -/

/-- What the chain needs besides samples: colour pattern, sample bits, size, black levels, colour matrix and
offsets. -/
structure PixCtx where
  cfa  : Nat
  bits : Nat
  w    : Nat
  h    : Nat
  bl   : Word
  ccm  : List Word

/-- Mono has one channel, a colour pattern three. -/
def PixCtx.chans (k : PixCtx) : Nat := if k.cfa = 4 then 1 else 3

/-- A mirrored coordinate. -/
def mirror (n : Nat) (i : Int) : Nat := if i < 0 then 1 else if (n : Int) ≤ i then n - 2 else i.toNat

/-- CFA position. -/
def cfaPos (x y : Int) : Nat := (x % 2 + 2 * (y % 2)).toNat

/-- Colour at a position: 0 R, 1 G, 2 B. -/
def cfaColour (cfa : Nat) (x y : Int) : Nat :=
  let l := match cfa with
    | 0 => [0, 1, 1, 2]
    | 1 => [1, 0, 2, 1]
    | 2 => [1, 2, 0, 1]
    | _ => [2, 1, 1, 0]
  l.getD (cfaPos x y) 0

/-- r(x, y) and the poison of its raw word; `raw` is a sample as received. -/
def rawLevel (k : PixCtx) (raw : Nat → Nat → Nat × Bool) (x y : Int) : Nat × Bool :=
  let mx := mirror k.w x
  let my := mirror k.h y
  let v := raw mx my
  let ph := cfaPos mx my
  (v.1 * 2 ^ (16 - k.bits) - bitsOf k.bl (16 * ph + 15) (16 * ph), v.2)

/-- Value i of the colour matrix sequence, signed. -/
def ccmVal (k : PixCtx) (i : Nat) : Int := ((k.ccm.getD (i / 4) 0).extractLsb' (16 * (i % 4)) 16).toInt

/-- The eight neighbours of a pixel. -/
def neighbours (x y : Int) : List (Int × Int) :=
  [(x - 1, y - 1), (x, y - 1), (x + 1, y - 1), (x - 1, y), (x + 1, y), (x - 1, y + 1), (x, y + 1), (x + 1, y + 1)]

/-- d[c] of a pixel. -/
def demosaic (k : PixCtx) (raw : Nat → Nat → Nat × Bool) (x y : Int) (c : Nat) : Nat × Bool :=
  if k.cfa = 4 ∨ cfaColour k.cfa x y = c then rawLevel k raw x y
  else
    let l := ((neighbours x y).filter fun p => cfaColour k.cfa p.1 p.2 == c).map fun p => rawLevel k raw p.1 p.2
    let n := l.length
    ((l.foldl (fun t p => t + p.1) 0 + n / 2) / n, l.any Prod.snd)

/-- A value clamped to 16 bits. -/
def clamp16 (v : Int) : Nat := (max 0 (min 65535 v)).toNat

/-- o[i] of level 0 (R284). -/
def pixel0 (k : PixCtx) (raw : Nat → Nat → Nat × Bool) (i x y : Nat) : Nat × Bool :=
  let d := (upFrom 0 k.chans).map (demosaic k raw x y)
  let t := ((upFrom 0 k.chans).zip d).foldl (fun (t : Int) p => t + ccmVal k (3 * i + p.1) * p.2.1) 0
  (clamp16 (Int.fdiv (t + 2048) 4096 + ccmVal k (9 + i)), d.any Prod.snd)

/-- One output of a group of three. -/
def third (odd : Bool) (a b c : Nat × Bool) : Nat × Bool :=
  if odd then ((2 * b.1 + 4 * c.1 + 3) / 6, b.2 || c.2) else ((4 * a.1 + 2 * b.1 + 3) / 6, a.2 || b.2)

/-- A value of a pyramid level (R285). -/
def pixelAt (k : PixCtx) (f15 : Nat) (raw : Nat → Nat → Nat × Bool) : Nat → Nat → Nat → Nat → Nat × Bool
  | 0, c, x, y => pixel0 k raw c x y
  | l + 1, c, x, y =>
    let p := pixelAt k f15 raw l c
    if f15.testBit l then
      let h := fun yy => third (x % 2 == 1) (p (x / 2 * 3) yy) (p (x / 2 * 3 + 1) yy) (p (x / 2 * 3 + 2) yy)
      third (y % 2 == 1) (h (y / 2 * 3)) (h (y / 2 * 3 + 1)) (h (y / 2 * 3 + 2))
    else
      let q := [p (2 * x) (2 * y), p (2 * x + 1) (2 * y), p (2 * x) (2 * y + 1), p (2 * x + 1) (2 * y + 1)]
      ((q.foldl (fun t v => t + v.1) 0 + 2) / 4, q.any Prod.snd)

/-- An extent, or a number of complete rows, one level down. -/
def downBy (f15 l n : Nat) : Nat := if f15.testBit l then 2 * n / 3 else n / 2

/-- An extent at a level. -/
def levelExt (f15 n : Nat) : Nat → Nat
  | 0 => n
  | l + 1 => downBy f15 l (levelExt f15 n l)

/-- Bytes of an output element. -/
def outBytes (ofmt : Nat) : Nat := if ofmt = 0 then 1 else 2

/-- Output conversion (R286). -/
def outPixel (ofmt p : Nat) : List Byte :=
  match ofmt with
  | 0 => [BitVec.ofInt 8 ((min ((p + 128) / 256) 255 : Nat) - 128)]
  | 1 => leBytes 2 (roundV .f16 rne false (.fin false p (-16))).1
  | _ => leBytes 2 (roundV .bf16 rne false (.fin false p (-16))).1

/-- A size rounded up to 128 bytes. -/
def up128 (n : Nat) : Nat := (n + 127) / 128 * 128

/-! ## Configuration and the set layout (R288) -/

def stripeRows (s : State) (c : Nat) : Nat := 8 * s.fld ING_CH_CTL.STRIPE c
def ringRows (s : State) (c : Nat) : Nat := 2 * stripeRows s c + 2
def rawPitch (s : State) (c : Nat) : Nat := up128 (2 * s.fld ING_CH_GEOM.W0 c)
def chanC (s : State) (c : Nat) : Nat := if s.fld ING_CH_CTL.CFA c = 4 then 1 else 3
def levelW (s : State) (c l : Nat) : Nat := levelExt (s.fld ING_CH_CTL.F15 c) (s.fld ING_CH_GEOM.W0 c) l
def levelH (s : State) (c l : Nat) : Nat := levelExt (s.fld ING_CH_CTL.F15 c) (s.fld ING_CH_GEOM.H0 c) l

/-- Stride of a map of w columns. -/
def mapPitch (s : State) (c w : Nat) : Nat := up128 (chanC s c * w * outBytes (s.fld ING_CH_CTL.OFMT c))

/-- Offset of a whole level in the set. -/
def levelOffs (s : State) (c l : Nat) : Nat :=
  let f := s.fld ING_CH_CTL.FULLFROM c
  (upFrom f (l - f)).foldl (fun o j => o + levelH s c j * mapPitch s c (levelW s c j))
    (0x480 + ringRows s c * rawPitch s c)

/-- Offset of the first tile. -/
def tileOffs (s : State) (c : Nat) : Nat := levelOffs s c (s.fld ING_CH_CTL.NLVL c)

def setBytes (s : State) (c : Nat) : Nat := s.fld ING_CH_GEOM.BSTRIDE c * 128
def setCount (s : State) (c : Nat) : Nat := s.fld ING_CH_CTL.NB c + 1

/-- Address of the set of a counter value. -/
def setAddr (s : State) (c v : Nat) : Nat :=
  s.fld ING_CH_BASE.BASE c / 128 * 128 + v % setCount s c * setBytes s c

/-- Every field is in range and the layout fits (R288). -/
def chanOk (s : State) (c : Nat) : Bool :=
  let w := s.fld ING_CH_GEOM.W0 c
  let h := s.fld ING_CH_GEOM.H0 c
  let n := s.fld ING_CH_CTL.NLVL c
  let f := s.fld ING_CH_CTL.FULLFROM c
  let r := s.fld ING_CH_CTL.RGL c
  let st := s.fld ING_CH_CTL.STRIPE c
  decide (s.fld ING_CH_CTL.GEAR c ≠ 3) && decide (dtBits (s.fld ING_CH_CTL.DT c) ≠ 0) &&
  decide (s.fld ING_CH_CTL.CFA c ≤ 4) && decide (s.fld ING_CH_CTL.OFMT c ≠ 3) && decide (1 ≤ n) && decide (n ≤ 6) &&
  decide (f < n) && decide (f ≤ r) && decide (r < n) && decide (1 ≤ st) && decide (st ≤ 32) &&
  decide (1 ≤ s.fld ING_CH_CTL.NB c) && decide (16 ≤ w) && decide (w ≤ 8192) && decide (w % 8 = 0) &&
  decide (16 ≤ h) && decide (h ≤ 8192) && decide (tileOffs s c ≤ setBytes s c) &&
  s.within .cistern (setAddr s c 0) (setCount s c * setBytes s c)

/-! ## Frames held (R282, R283, R287) -/

/-- HELD follows the frames held. -/
def syncHeldSets (s : State) (c : Nat) : State := s.setFld ING_CH_PTR.HELD c (s.chan c).frames.length

def setFrames (s : State) (c : Nat) (l : List ChanFrame) : State :=
  syncHeldSets (s.setChan c { s.chan c with frames := l }) c

/-- The frame being received: the newest one held, while it has not ended. -/
def openFrame (s : State) (c : Nat) : Option ChanFrame :=
  match (s.chan c).frames.getLast? with
  | some f => if f.fe.isNone then some f else none
  | none => none

/-- Replaces the newest frame held. -/
def setNewest (s : State) (c : Nat) (f : ChanFrame) : State :=
  setFrames s c ((s.chan c).frames.dropLast ++ [f])

/-- Counter value of the set of the i-th frame held. -/
def frameSet (s : State) (c i : Nat) : Nat := (s.fld ING_CH_PTR.WR c + i) % 256

/-- Address of a row in the raw stage of the set at `a`. -/
def rawAddr (s : State) (c a y : Nat) : Nat := a + 0x480 + y % ringRows s c * rawPitch s c

/-- Writes a row of samples into the raw stage, each as a little-endian 16-bit number (assumption log 44). -/
def putRaw (s : State) (c a y : Nat) (row : List Nat) : State :=
  performG s (ingSrc c) (atAddr (rawAddr s c a y) (row.flatMap (leBytes 2))) fun _ => false

/-- The row's place in the ring holds a row of a stripe not yet processed. -/
def rowBusy (s : State) (c : Nat) (f : ChanFrame) (y : Nat) : Bool :=
  decide (ringRows s c ≤ y) && decide (f.done ≤ (y - ringRows s c) / stripeRows s c)

def zeroRow (s : State) (c : Nat) : List Nat := List.replicate (s.fld ING_CH_GEOM.W0 c) 0

/-- Zero rows reach the raw stage as their places become free. -/
def flushZeros (s : State) (c a : Nat) (f : ChanFrame) : State × ChanFrame :=
  let now := f.zeros.filter fun y => ! rowBusy s c f y
  (forL now (fun y s => putRaw s c a y (zeroRow s c)) s, { f with zeros := f.zeros.filter (rowBusy s c f) })

/-- Stripes that are ready: those whose following row has arrived; all of them once the frame has ended. -/
def stripesReady (s : State) (c : Nat) (f : ChanFrame) : Nat :=
  let st := stripeRows s c
  if f.fe.isSome then (s.fld ING_CH_GEOM.H0 c + st - 1) / st else (f.rows.length - 1) / st

/-- Stripes that have become ready take their places in the order of readiness; those that become ready at one time may
have done so in one intake clock, and then share a place (R283; assumption log 32). -/
def markReady (s : State) (c : Nat) (f : ChanFrame) : State :=
  let n := stripesReady s c f - f.ready.length
  if n = 0 then setNewest s c f
  else
    let ties := decide (s.stripeNs = s.totalNs) && s.free.getLsbD 0
    let first := if ties then s.stripeSeq - 1 else s.stripeSeq
    let s := setNewest s.useFree c { f with ready := f.ready ++ upFrom first n }
    { s with stripeSeq := first + n, stripeNs := s.totalNs }

/-- Address of the set of the newest frame held. -/
def newestSet (s : State) (c : Nat) : Nat := setAddr s c (frameSet s c ((s.chan c).frames.length - 1))

/-- A row arrives in the open frame (R282, R283). -/
def addRow (s : State) (c : Nat) (bad : Bool) (row : List Nat) : State :=
  match openFrame s c with
  | none => s
  | some f =>
    let y := f.rows.length
    if s.fld ING_CH_GEOM.H0 c ≤ y then setNewest s c { f with flags := f.flags ||| 2 }
    else
      let busy := rowBusy s c f y
      let bad := bad || busy
      let row := if bad then zeroRow s c else row
      let a := newestSet s c
      let s := if bad then s.satAdd ING_CH_STAT.BADROWS c 1 else s
      let f := { f with rows := f.rows ++ [row], bad := f.bad + (if bad then 1 else 0) }
      let s := if busy then s else putRaw s c a y row
      markReady s c (if busy then { f with zeros := f.zeros ++ [y] } else f)

/-- The open frame ends at a stamp; missing rows are zeros (R282). -/
def endFrame (s : State) (c fe flags : Nat) : State :=
  match openFrame s c with
  | none => s
  | some f =>
    let n := f.rows.length
    let miss := s.fld ING_CH_GEOM.H0 c - n
    let f := { f with
      fe := some fe
      flags := f.flags ||| flags ||| (if miss = 0 then 0 else 1)
      rows := f.rows ++ List.replicate miss (zeroRow s c)
      zeros := f.zeros ++ upFrom n miss }
    let r := flushZeros s c (newestSet s c) f
    markReady r.1 c r.2

/-- A frame start (R282, R287, R293). -/
def startFrame (s : State) (c fnum fs : Nat) : State :=
  let s := endFrame s c fs 1
  if s.fld ING_CH_PTR.STATE c ≠ 0 then s
  else
    let n := (s.chan c).frames.length
    let out := (s.fld ING_CH_PTR.WR c + 256 - s.fld ING_CH_PTR.RD c) % 256
    if out + n < setCount s c ∧ n < 2 then
      let x := s.chan c
      let boxes := x.next.getD x.boxes
      let s := s.setChan c { x with boxes := boxes, next := none }
      setFrames s c ((s.chan c).frames ++
        [{ fs := fs, fnum := fnum, bl := s.reg .ING_CH_BL c
           ccm := (upFrom 0 3).map fun k => s.reg .ING_CH_CCM (3 * c + k), boxes := boxes }])
    else
      let s := s.satAdd ING_CH_STAT.DROPPED c 1
      let s := s.setChan c { s.chan c with drops := min 65535 ((s.chan c).drops + 1) }
      let s := journalIn s 0x02 (ingSrc c) fs [BitVec.ofNat 8 c]
      ingEvent s (ingSrc c) 0x4001 fs

/-! ## Packets (R281) -/

/-- The channel receives packets: locked, not DISABLED, and not in replay. -/
def hears (s : State) (c : Nat) : Bool :=
  s.bit ING_CH_LINK.LOCK c && decide (s.fld ING_CH_PTR.STATE c ≠ 2) && ! replaying s

/-- A packet's header is counted; whether the packet is taken. -/
def takePacket (s : State) (c vc : Nat) (dtOk : Bool) (ecc : EccKind) : State × Bool :=
  match ecc with
  | .bad => (s.satAdd ING_CH_STAT.ECCBAD c 1, false)
  | e =>
    let s := if e = .fixed then s.satAdd ING_CH_STAT.ECCFIX c 1 else s
    if vc = s.fld ING_CH_CTL.VC c ∧ dtOk then (s, true) else (s.satAdd ING_CH_LINK.OTHER c 1, false)

/-- CSI2_FRAME_START. -/
def csiStart (s : State) (c vc fnum : Nat) (ecc : EccKind) : State :=
  if ! hears s c then s
  else
    let r := takePacket s c vc true ecc
    if r.2 then startFrame r.1 c fnum s.stamp else r.1

/-- CSI2_ROW_RECEIVE. -/
def csiRow (s : State) (c : Nat) (p : CsiPacket) : State :=
  if ! hears s c then s
  else
    let dt := s.fld ING_CH_CTL.DT c
    let r := takePacket s c p.vc.toNat (decide (p.dt.toNat = dt)) p.ecc
    let bad := ! p.crcOk || decide (p.bytes.length ≠ rowBytes dt (s.fld ING_CH_GEOM.W0 c))
    if r.2 then addRow r.1 c bad (unpackRow dt p.bytes) else r.1

/-- CSI2_FRAME_END. -/
def csiEnd (s : State) (c vc : Nat) (ecc : EccKind) : State :=
  if ! hears s c then s
  else
    let r := takePacket s c vc true ecc
    if r.2 then endFrame r.1 c s.stamp 0 else r.1

/-- FRAME_TIMEOUT: no packet for 100 ms inside a frame (R282). -/
def frameTimeout (s : State) (c : Nat) : State :=
  if replaying s then s else endFrame s c s.stamp 17

/-- APHY_LOCK_LOSS (R282). -/
def aphyLoss (s : State) (c : Nat) : State :=
  if s.bit ING_CH_LINK.LOCK c then
    let s := s.setBit ING_CH_LINK.LOCK c false
    let s := if replaying s then s else endFrame s c s.stamp 17
    ingEventF s (ingSrc c) 0x4002
  else s

/-- APHY_LOCK: the receiver locks in a gear (R280). -/
def aphyLock (s : State) (c gear : Nat) : State :=
  if gear = 3 then s else (s.setBit ING_CH_LINK.LOCK c true).setFld ING_CH_LINK.GEARNOW c gear

/-- POC_SHORT (R280, R507). -/
def pocShort (s : State) (c : Nat) : State :=
  if s.bit ING_CH_CTL.POC c ∧ s.fld ING_CH_LINK.POCST c ≠ 3 then
    ingEvent (s.setFld ING_CH_LINK.POCST c 3) (ingSrc c) 0x4003 3
  else s

/-- POC_OPEN (R280, R507). -/
def pocOpen (s : State) (c : Nat) : State :=
  if s.bit ING_CH_CTL.POC c ∧ s.fld ING_CH_LINK.POCST c = 1 then
    ingEvent (s.setFld ING_CH_LINK.POCST c 2) (ingSrc c) 0x4003 2
  else s

/-- POC is written: power goes on, rechecked, or off; POCST 3 lasts until POC is written 1 again (R507). -/
def pocWritten (s : State) (c : Nat) (was : Bool) : State :=
  if s.bit ING_CH_CTL.POC c then (if was then s else s.setFld ING_CH_LINK.POCST c 1)
  else if s.fld ING_CH_LINK.POCST c = 3 then s
  else s.setFld ING_CH_LINK.POCST c 0

/-! ## Stripes (R283-R286, R290, R291) -/

/-- The pixel chain of a channel's frame. -/
def chanPix (s : State) (c : Nat) (f : ChanFrame) : PixCtx :=
  { cfa := s.fld ING_CH_CTL.CFA c, bits := dtBits (s.fld ING_CH_CTL.DT c), w := s.fld ING_CH_GEOM.W0 c,
    h := s.fld ING_CH_GEOM.H0 c, bl := f.bl, ccm := f.ccm }

/-- A row of the raw stage as the pipe reads it; a row not yet written as zeros reads as zeros. -/
def readRaw (s : State) (c a : Nat) (f : ChanFrame) (y : Nat) : List (Nat × Bool) :=
  let w := s.fld ING_CH_GEOM.W0 c
  if f.zeros.contains y then List.replicate w (0, false)
  else
    let r := rawAddr s c a y
    (upFrom 0 w).map fun x => (s.load (r + 2 * x) 2, s.mark (r + 2 * x))

/-- Sample (x, y) of rows that start at row 0. -/
def rowsAt (rows : List (List (Nat × Bool))) (x y : Nat) : Nat × Bool := (rows.getD y []).getD x (0, false)

/-- The bytes of n rows of a window of a level, with poison. -/
def windowBulk (k : PixCtx) (f15 ofmt : Nat) (raw : Nat → Nat → Nat × Bool) (l x0 y0 w n a pitch : Nat) : Bulk :=
  (upFrom 0 n).flatMap fun j =>
    (upFrom 0 w).flatMap fun i =>
      (upFrom 0 k.chans).flatMap fun ch =>
        let p := pixelAt k f15 raw l ch (x0 + i) (y0 + j)
        (atAddr (a + j * pitch + (i * k.chans + ch) * outBytes ofmt) (outPixel ofmt p.1)).map fun b =>
          (b.1, b.2, p.2)

/-- Rows of level 0 complete once a frame has n stripes processed. -/
def rowsDone (s : State) (c n : Nat) : Nat := min (s.fld ING_CH_GEOM.H0 c) (n * stripeRows s c)

/-- The samples a pipe has read once it has processed one more stripe of a frame. -/
def readStripe (s : State) (c a : Nat) (f : ChanFrame) : List (List (Nat × Bool)) :=
  let r0 := rowsDone s c f.done
  f.sam ++ (upFrom r0 (rowsDone s c (f.done + 1) - r0)).map (readRaw s c a f)

/-- What a stripe writes: its rows of every whole level. The row below the stripe is read with it. -/
def stripeBulk (s : State) (c a : Nat) (f : ChanFrame) : Bulk :=
  let sam := readStripe s c a f
  let r1 := rowsDone s c (f.done + 1)
  let all := if r1 < s.fld ING_CH_GEOM.H0 c then sam ++ [readRaw s c a f r1] else sam
  let f15 := s.fld ING_CH_CTL.F15 c
  let full := s.fld ING_CH_CTL.FULLFROM c
  (upFrom full (s.fld ING_CH_CTL.NLVL c - full)).flatMap fun l =>
    let y0 := levelExt f15 (rowsDone s c f.done) l
    let w := levelW s c l
    let p := mapPitch s c w
    windowBulk (chanPix s c f) f15 (s.fld ING_CH_CTL.OFMT c) (rowsAt all) l 0 y0 w
      (levelExt f15 r1 l - y0) (a + levelOffs s c l + y0 * p) p

/-- The oldest frame of a channel with a ready stripe that is not processed: its place and the stripe's order
number. -/
def dueStripe (s : State) (c : Nat) : Option (Nat × Nat) :=
  let l := (s.chan c).frames
  ((upFrom 0 l.length).zip l).findSome? fun p => (p.2.ready[p.2.done]?).map fun n => (p.1, n)

/-- The stripe a pipe processes next: channel, place, order number. -/
def pipeNext (s : State) (p : Nat) : Option (Nat × Nat × Nat) :=
  (upFrom 0 24).foldl (fun best c =>
    if s.fld ING_CH_CTL.PIPE c ≠ p then best
    else match dueStripe s c, best with
      | some d, some b => if d.2 < b.2.2 then some (c, d) else some b
      | some d, none => some (c, d)
      | none, b => b) none

/-- PIPE_STRIPE_DONE: the pipe has processed the stripe that became ready first, its rows are performed, and
RGATE is signalled by the rows of level RGL completed since it last was (R290). -/
def pipeStripe (s : State) (p : Nat) : State :=
  match pipeNext s p with
  | none => s
  | some (c, i, _) =>
    match (s.chan c).frames[i]? with
    | none => s
    | some f =>
      let a := setAddr s c (frameSet s c i)
      let r0 := rowsDone s c f.done
      let n := rowsDone s c (f.done + 1) - r0
      let s := forL (upFrom r0 (n + 1)) (fun y s =>
        if f.zeros.contains y then s else touchRead s (ingSrc c) (rawAddr s c a y) (rawPitch s c) 0) s
      let b := stripeBulk s c a f
      let f := { f with sam := readStripe s c a f, done := f.done + 1, psn := f.psn || ! b.marked.isEmpty }
      let s := bulkPerform s (ingSrc c) b
      let r := flushZeros s c a f
      let rows := levelExt (s.fld ING_CH_CTL.F15 c) (r0 + n) (s.fld ING_CH_CTL.RGL c)
      let tells := s.bit ING_CH_GATE.RGEN c
      let s := setFrames r.1 c ((s.chan c).frames.set i { r.2 with told := if tells then rows else r.2.told })
      if tells then
        signalHandle s (ingSrc c) (w64 (s.fld ING_CH_GATE.RGATE c)) (BitVec.ofNat 32 (rows - f.told))
      else s

/-! ## Tiles and frame records (R289, R290, R293, R294) -/

/-- A steering box's window after growth: X0', Y0', width, height; none when the box is refused. -/
def boxWindow (s : State) (c : Nat) (b : Word × Word × Bool) : Option (Nat × Nat × Nat × Nat) :=
  let m := s.fld ING_CH_GEOM.MARGIN c
  let l := bitsOf b.2.1 2 0
  let x0 := bitsOf b.1 15 0 - m
  let y0 := bitsOf b.1 31 16 - m
  let x1 := min (bitsOf b.1 47 32 + m) (levelW s c l)
  let y1 := min (bitsOf b.1 63 48 + m) (levelH s c l)
  if b.2.2 ∨ bitsOf b.2.1 63 4 ≠ 0 ∨ s.fld ING_CH_CTL.FULLFROM c ≤ l ∨ x1 ≤ x0 ∨ y1 ≤ y0 then none
  else some (x0, y0, x1 - x0, y1 - y0)

/-- The tiles of a frame: table entries, what they write, TILEFULL, boxes refused, and the offset of the next
tile. -/
structure Tiles where
  table : List (Word × Word) := []
  bulk  : Bulk := []
  full  : Bool := false
  skip  : Nat := 0
  next  : Nat

/-- Adds a box's tile. -/
def addTile (s : State) (c a : Nat) (f : ChanFrame) (i : Nat) (b : Word × Word × Bool) (t : Tiles) : Tiles :=
  if ! b.2.1.getLsbD 3 then t
  else match boxWindow s c b with
    | none => { t with skip := t.skip + 1 }
    | some (x0, y0, w, h) =>
      let pitch := mapPitch s c w
      if setBytes s c < t.next + h * pitch then { t with full := true }
      else
        let l := bitsOf b.2.1 2 0
        { t with
          table := t.table ++ [(w64 (x0 + y0 * 2 ^ 16 + w * 2 ^ 32 + h * 2 ^ 48),
            w64 (l + i * 8 + t.next * 2 ^ 32))]
          bulk := t.bulk ++ windowBulk (chanPix s c f) (s.fld ING_CH_CTL.F15 c) (s.fld ING_CH_CTL.OFMT c)
            (rowsAt f.sam) l x0 y0 w h (a + t.next) pitch
          next := t.next + h * pitch }

/-- The tiles of a frame. -/
def frameTiles (s : State) (c a : Nat) (f : ChanFrame) : Tiles :=
  forL ((upFrom 0 f.boxes.length).zip f.boxes) (fun p t => addTile s c a f p.1 p.2 t) { next := tileOffs s c }

/-- The signature of a frame (R424). -/
def frameSig (s : State) (c : Nat) (f : ChanFrame) : Word :=
  let col := fun i => 2 * ((2 * i + 1) * s.fld ING_CH_GEOM.W0 c / 64)
  let row := fun j => 2 * ((2 * j + 1) * s.fld ING_CH_GEOM.H0 c / 64)
  (upFrom 0 16).foldl (fun h j =>
    (upFrom 0 16).foldl (fun h i => seededZ h ((f.rows.getD (row j) []).getD (col i) 0)) h) 0

/-- The frozen-frame detector: FROZEN and REPEATED of this frame, with what it remembers (R424). -/
def frozenCheck (s : State) (c : Nat) (f : ChanFrame) : State × Bool × Bool :=
  let x := s.chan c
  if ! s.bit ING_CH_FRZ.EN c then (s.setChan c { x with sig := none, same := 0, fnum := f.fnum }, false, false)
  else
    let g := frameSig s c f
    let moved := decide (f.fnum ≠ 0) && decide (f.fnum ≠ x.fnum)
    let n := if x.sig = some g ∧ moved then x.same + 1 else 0
    let frozen := decide (1 ≤ n) && decide (s.fld ING_CH_FRZ.N c ≤ n)
    let rep := decide (f.fnum ≠ 0) && decide (f.fnum = x.fnum)
    let s := s.setChan c { x with sig := some g, same := n, fnum := f.fnum }
    let s := if frozen then detect (ingEvent s (ingSrc c) 0x4006 c) 12 (ingSrc c) else s
    let s := if rep then detect (ingEvent s (ingSrc c) 0x4007 c) 13 (ingSrc c) else s
    (s, frozen, rep)

/-- Words 0-9 of a frame record (R289). -/
def frameRecord (s : State) (c : Nat) (f : ChanFrame) (t : Tiles) (psn frozen rep : Bool) : List Word :=
  let x := s.chan c
  let nl := s.fld ING_CH_CTL.NLVL c
  let full := s.fld ING_CH_CTL.FULLFROM c
  let b := fun (c : Bool) n => if c then 2 ^ n else 0
  let w0 := f.fs + f.fe.getD 0 * 2 ^ 32
  let w1 := x.count % 2 ^ 32 + f.fnum % 2 ^ 16 * 2 ^ 32 + s.fld ING_CH_PTR.WR c % setCount s c * 2 ^ 48 +
    t.table.length * 2 ^ 51
  let w2 := f.flags + b psn 2 + b t.full 3 + b frozen 5 + b rep 6 + min 65535 f.bad * 2 ^ 16 + x.drops * 2 ^ 32 +
    t.skip * 2 ^ 48
  let w3 := nl + full * 8 + s.fld ING_CH_CTL.OFMT c * 64 + b (decide (chanC s c = 1)) 8
  [w64 w0, w64 w1, w64 w2, w64 w3] ++ (upFrom 0 6).map fun l =>
    if l < nl then
      w64 (levelW s c l + levelH s c l * 2 ^ 16 + (if full ≤ l then levelOffs s c l else 0) * 2 ^ 32)
    else 0

/-- The frame's journal record (R395, R396). -/
def journalFrame (s : State) (c : Nat) (f : ChanFrame) (recd : List Byte) : State :=
  let rows := f.rows.flatMap (packRow (s.fld ING_CH_CTL.DT c))
  let hash := s.bit JNL_CTL.FHASH 0
  let stream := s.bit JNL_CTL.STREAM 0
  let flags := if hash then 256 + (if stream then 0 else 2048) else 0
  let n := s.jnl.held.length
  let s := journalIn s 0x01 (ingSrc c) (f.fe.getD 0) (recd ++ (if hash then sha256 rows else rows)) [] flags
  if hash && stream && decide (n < s.jnl.held.length) then
    { s with jnl := { s.jnl with held := lmod (fun (r : JIn) => { r with rows := rows }) s.jnl.held n } }
  else s

/-- FRAME_DELIVER: every stripe of the oldest frame is processed; tiles, record, FGATE, WR (R290). -/
def deliver (s : State) (c : Nat) : State :=
  match (s.chan c).frames with
  | [] => s
  | f :: rest =>
    if f.fe.isNone ∨ f.done < f.ready.length ∨ s.fld ING_CH_PTR.STATE c = 2 then s
    else
      let wr := s.fld ING_CH_PTR.WR c
      let a := setAddr s c wr
      let t := frameTiles s c a f
      let s := bulkPerform s (ingSrc c) t.bulk
      let k := frozenCheck s c f
      let s := performG k.1 (ingSrc c)
        (atAddr (a + 0x80) (t.table.flatMap fun (w : Word × Word) => leBytes 8 w.1.toNat ++ leBytes 8 w.2.toNat)) fun _ => false
      let ws := frameRecord s c f t (f.psn || ! t.bulk.marked.isEmpty) k.2.1 k.2.2
      let rec_ := (ws ++ List.replicate 6 0).flatMap fun (w : Word) => leBytes 8 w.toNat
      let s := performG s (ingSrc c) (atAddr a rec_) fun _ => false
      let s := if replaying s then s else journalFrame s c f rec_
      let s := if s.bit ING_CH_GATE.FGEN c then
          signalHandle s (ingSrc c) (w64 (s.fld ING_CH_GATE.FGATE c)) 1 else s
      let s := s.setFld ING_CH_PTR.WR c ((wr + 1) % 256)
      let s := s.setChan c { s.chan c with count := (s.chan c).count + 1, drops := 0 }
      setFrames s c rest

/-- A recorded frame is presented in replay: the frame as recorded, with its rows (R402). -/
def replayFrame (s : State) (c : Nat) (w0 w1 w2 : Word) (rows : List Byte) : State :=
  let dt := s.fld ING_CH_CTL.DT c
  let n := (s.chan c).frames.length
  let s := startFrame s c (bitsOf w1 47 32) (bitsOf w0 31 0)
  if (s.chan c).frames.length = n then s
  else
    let rb := max 1 (rowBytes dt (s.fld ING_CH_GEOM.W0 c))
    let s := forL (pieces rb rows) (fun r s => addRow s c false (unpackRow dt r)) s
    let s := match openFrame s c with
      | some f => setNewest s c { f with bad := bitsOf w2 31 16, flags := bitsOf w2 4 0 &&& 19 }
      | none => s
    endFrame s c (bitsOf w0 63 32) 0

/-- A recorded drop is presented in replay: the channel drops the frame (R402). -/
def replayDrop (s : State) (c fs : Nat) : State :=
  let s := s.satAdd ING_CH_STAT.DROPPED c 1
  let s := s.setChan c { s.chan c with drops := min 65535 ((s.chan c).drops + 1) }
  ingEvent s (ingSrc c) 0x4001 fs

/-! ## Steering (R293) -/

/-- GO of ING_STEER. -/
def steerGo (s : State) (c : Nat) : State :=
  if s.bit ING_STEER.BUSY c then s
  else (s.setBit ING_STEER.BUSY c true).setChan c
    { s.chan c with steer := some (s.fld ING_STEER.ADDR c, s.fld ING_STEER.N c) }

/-- STEER_COPY_DONE: the pending table is the copied list, unless its address or length is not permitted. -/
def steerDone (s : State) (c : Nat) : State :=
  match (s.chan c).steer with
  | none => s
  | some (a, n) =>
    let s := (s.setBit ING_STEER.BUSY c false).setChan c { s.chan c with steer := none }
    if a % 16 ≠ 0 ∨ 64 < n ∨ ¬ s.within .cistern a (max 1 (16 * n)) then s
    else
      let s := touchRead s (ingSrc c) a (16 * n) 0
      let l := (upFrom 0 n).map fun i =>
        (s.word (a + 16 * i), s.word (a + 16 * i + 8), s.poisoned (a + 16 * i) 16)
      s.setChan c { s.chan c with next := some l }

/-! ## Enable, drain, abort (R288, R295, R488) -/

/-- EN written 1 while DISABLED. -/
def chanEnable (s : State) (c : Nat) : State :=
  if s.fld ING_CH_PTR.STATE c ≠ 2 then s
  else if chanOk s c then s.setFld ING_CH_PTR.STATE c 0
  else ingEventF (s.setBit ING_CH_CTL.EN c false) (ingSrc c) 0x4005

/-- EN written 0. -/
def chanDrain (s : State) (c : Nat) : State :=
  if s.fld ING_CH_PTR.STATE c = 0 then s.setFld ING_CH_PTR.STATE c 1 else s

/-- ABORT: the frames held are discarded, the line being written is complete or poisoned. -/
def chanAbort (s : State) (c : Nat) : State :=
  let s := match dueStripe s c with
    | none => s
    | some (i, _) => match (s.chan c).frames[i]? with
      | none => s
      | some f => bulkAbort s (ingSrc c) (stripeBulk s c (setAddr s c (frameSet s c i)) f)
  ((setFrames s c []).setFld ING_CH_PTR.STATE c 2).setBit ING_CH_CTL.EN c false

/-- The drained channel is DISABLED. -/
def chanDrained (s : State) (c : Nat) : State :=
  if s.fld ING_CH_PTR.STATE c = 1 ∧ (s.chan c).frames = [] then s.setFld ING_CH_PTR.STATE c 2 else s

/-- The drain's bound has passed: an open frame ends there as TRUNC; with none, what is left is aborted. -/
def chanDrainBound (s : State) (c : Nat) : State :=
  if s.fld ING_CH_PTR.STATE c ≠ 1 then s
  else if (openFrame s c).isSome then endFrame s c s.stamp 1 else chanAbort s c

/-- RD is written; a value that would release an undelivered set is ignored (R287). -/
def rdOk (s : State) (c rd : Nat) : Bool :=
  let wr := s.fld ING_CH_PTR.WR c
  decide ((wr + 256 - rd) % 256 ≤ (wr + 256 - s.fld ING_CH_PTR.RD c) % 256)

end Sys2Proof.Machine
end

