-- ==== Sys2Proof/Machine/Forebay.lean ====
section
/-! DEFINITION. The Forebay: batches, samples, augmentation, the tokenizer, budgets and deadlines
(R296-R306). -/

namespace Sys2Proof.Machine

/-- Source id of the Forebay (R515). -/
def fbSrc : Nat := 0x4018

def State.fbSlot (s : State) (n : Nat) : FbSlot := tget (fun _ => {}) s.fb.slots n

/-- READY, FILLING and TAKEN follow the slots, and the low-water alarm fires as READY falls below LOW
(R305). -/
def syncFb (s : State) : State :=
  let count := fun st => ((upFrom 0 32).filter fun n => decide ((s.fbSlot n).state = st)).length
  let low := s.fld ING_FB_CTL.LOW 0
  let was := s.fld ING_FB_STAT.READY 0
  let now := count 2
  let s := ((s.setFld ING_FB_STAT.READY 0 now).setFld ING_FB_STAT.FILLING 0 (count 1)).setFld ING_FB_STAT.TAKEN 0
    (count 3)
  if low ≠ 0 ∧ low ≤ was ∧ now < low then
    ingEvent (s.setBit ING_FB_STAT.ALM 0 true) fbSrc 0x4010 now
  else s

/-- Sets a slot. -/
def setFbSlot (s : State) (n : Nat) (x : FbSlot) : State :=
  syncFb { s with fb := { s.fb with slots := tput (fun _ => {}) s.fb.slots n x } }

/-- Address of a slot. -/
def slotBase (s : State) (n : Nat) : Nat :=
  s.fld ING_FB_BASE.BASE 0 / 4096 * 4096 + n * (s.fld ING_FB_BASE.SLOTSZ 0 * 4096)

/-! ## Descriptors (R296) -/

/-- Word i of the descriptor in a slot's header. -/
def fbWord (s : State) (n i : Nat) : Word := s.word (slotBase s n + 8 * i)

/-- The eight words break a check of R296; reserved values of OFMT and CHP count as malformed (assumption
log 45). -/
def batchBad (s : State) (n a : Nat) (ws : List Word) : Bool :=
  let w := fun i => ws.getD i 0
  let ns := bitsOf (w 0) 8 0
  let sstr := bitsOf (w 5) 31 0
  decide (a % 64 ≠ 0) || ! s.within .cistern a 64 ||
  decide (bitsOf (w 0) 63 21 ≠ 0) || decide (bitsOf (w 2) 63 33 ≠ 0) || decide (bitsOf (w 3) 63 40 ≠ 0) ||
  decide (bitsOf (w 6) 31 22 ≠ 0) || decide (w 7 ≠ 0) || decide (ns = 0) || decide (256 < ns) ||
  decide (sstr % 128 ≠ 0) || decide (s.fld ING_FB_BASE.SLOTSZ 0 * 4096 < 512 + ns * sstr) ||
  decide (bitsOf (w 0) 20 19 = 3) || decide (24 ≤ bitsOf (w 0) 18 14) ||
  ! s.within .cistern (slotBase s n) (512 + ns * sstr)

/-- A refused push. -/
def fbRefuse (s : State) (a reason : Nat) : State :=
  ingEvent (s.satAdd ING_FB_STAT.REFUSED 0 1) fbSrc 0x4011 (a + reason * 2 ^ 40)

/-- A push (R296). -/
def fbPush (s : State) (a : Nat) : State :=
  if s.fld ING_FB_CTL.STATE 0 ≠ 0 then fbRefuse s a 3
  else match (upFrom 0 32).find? fun n => decide ((s.fbSlot n).state = 0) with
    | none => fbRefuse s a 1
    | some n =>
      let s := touchRead s fbSrc a 64 0
      if batchBad s n a (s.words a 8) then fbRefuse s a 2
      else
        let b := slotBase s n
        let s := performG s fbSrc ((upFrom 0 64).map fun i => (b + i, s.byte (a + i))) fun w =>
          s.mark (a + (8 * w - b))
        let num := s.fb.num
        let s := { s with fb := { s.fb with num := num + 1, order := s.fb.order ++ [n] } }
        setFbSlot s n { state := 1, num := num, trie := s.reg .ING_TOK_TRIE 0 }

/-- A release (R305). -/
def fbRelease (s : State) (n : Nat) : State := if (s.fbSlot n).state = 3 then setFbSlot s n {} else s

/-- A write of ING_FB_CMD. -/
def fbCommand (s : State) (v : Word) : State :=
  match bitsOf v 46 45 with
  | 1 => fbPush s (bitsOf v 39 0)
  | 2 => fbRelease s (bitsOf v 44 40)
  | _ => s

/-- A read of ING_FB_TAKE: the state after it and the word (R305). -/
def fbTake (s : State) : State × Word :=
  match s.fb.order with
  | [] => (s, 0)
  | n :: rest =>
    if (s.fbSlot n).state = 2 then
      (setFbSlot { s with fb := { s.fb with order := rest } } n { s.fbSlot n with state := 3 }, w64 (n + 32))
    else (s, 0)

/-! ## The tokenizer (R299, R300) -/

/-- A node of the trie, and whether it is poisoned. -/
def trieNode (s : State) (trie : Word) (i : Nat) : Word × Bool :=
  let a := bitsOf trie 39 0 / 8 * 8 + 8 * i
  (s.word a, s.mark a)

def nodeByte (w : Word) : Nat := bitsOf w 7 0
def nodeNch (w : Word) : Nat := bitsOf w 17 9
def nodeCh (w : Word) : Nat := bitsOf w 38 18

/-- The outcome of a walk of the trie: a poisoned node was read, the trie is corrupt, or a value. -/
inductive Walk (α : Type) where
  | poison
  | corrupt
  | ok (a : α)

/-- Binary search for a byte among the children lo to hi - 1. -/
def trieFind (s : State) (trie : Word) (b : Nat) : Nat → Nat → Nat → Walk (Option Nat)
  | 0, _, _ => .ok none
  | fuel + 1, lo, hi =>
    if hi ≤ lo then .ok none
    else
      let mid := (lo + (hi - 1)) / 2
      let n := trieNode s trie mid
      if n.2 then .poison
      else if nodeByte n.1 = b then .ok (some mid)
      else if nodeByte n.1 < b then trieFind s trie b fuel (mid + 1) hi
      else trieFind s trie b fuel lo mid

/-- The longest match from a node: the best token so far with its length, at depth d. -/
def trieBest (s : State) (trie : Word) : Nat → Nat → Nat → Option (Nat × Nat) → List Byte → Walk (Option (Nat × Nat))
  | 0, _, _, best, _ => .ok best
  | _ + 1, _, _, best, [] => .ok best
  | fuel + 1, node, d, best, b :: r =>
    let n := trieNode s trie node
    if n.2 then .poison
    else if bitsOf trie 61 40 < nodeCh n.1 + nodeNch n.1 then .corrupt
    else match trieFind s trie b.toNat 10 (nodeCh n.1) (nodeCh n.1 + nodeNch n.1) with
      | .poison => .poison
      | .corrupt => .corrupt
      | .ok none => .ok best
      | .ok (some m) =>
        let t := trieNode s trie m
        trieBest s trie fuel m (d + 1) (if t.1.getLsbD 8 then some (bitsOf t.1 56 39, d + 1) else best) r

/-- The tokens of a text, at most `room` of them, and whether one more would have been emitted. -/
def tokenize (s : State) (trie : Word) (room : Nat) : Nat → List Nat → List Byte → Walk (List Nat × Bool)
  | 0, acc, _ => .ok (acc, false)
  | _ + 1, acc, [] => .ok (acc, false)
  | fuel + 1, acc, b :: r =>
    match trieBest s trie 255 0 0 none (b :: r) with
    | .poison => .poison
    | .corrupt => .corrupt
    | .ok best =>
      let t := best.getD (3 + b.toNat, 1)
      if room ≤ acc.length then .ok (acc, true)
      else tokenize s trie room fuel (acc ++ [t.1]) ((b :: r).drop t.2)

/-! ## Samples (R297, R298, R302) -/

/-- The range lies in the program range of the Cistern. -/
def inProgram (a n : Nat) : Bool := decide (cisternBase ≤ a) && decide (a + n ≤ runtimeBase)

/-- The descriptor's settings for images. -/
structure ImgSet where
  crop  : Bool
  flip  : Bool
  jit   : Bool
  noise : Bool
  ctr   : Nat
  ofmt  : Nat
  seed  : Word
  ow    : Nat
  oh    : Nat
  jamp  : Nat
  namp  : Nat
  idx   : Nat

/-- draw(k) of a sample (R298). -/
def ImgSet.draw (g : ImgSet) (k : Nat) : Nat := seededU g.seed (g.idx * 2 ^ 32 + k)

/-- Gain of a colour channel, signed. -/
def ImgSet.gain (g : ImgSet) (c : Nat) : Int :=
  if g.jit then 32768 + Int.fdiv (((g.draw (3 + c) : Int) - 2 ^ 23) * g.jamp) (2 ^ 23) else 32768

/-- R286's conversion of a value that a negative gain may have made negative; the byte for one below the range of INT8 is
free (assumption log 45). -/
def outSigned (ofmt : Nat) (p : Int) (free_ : Word) : List Byte :=
  if 0 ≤ p then outPixel ofmt p.toNat
  else match ofmt with
    | 0 => if -128 ≤ p then outPixel 0 0 else [free_.setWidth 8]
    | 1 => leBytes 2 (roundV .f16 rne false (.fin true p.natAbs (-16))).1
    | _ => leBytes 2 (roundV .bf16 rne false (.fin true p.natAbs (-16))).1

/-- The output of a RAW sample: a map at the stride of R286. -/
def augment (k : PixCtx) (g : ImgSet) (raw : Nat → Nat → Nat × Bool) : List Byte :=
  let x0 := if g.crop then g.draw 0 * (k.w - g.ow + 1) / 2 ^ 24 else (k.w - g.ow) / 2
  let y0 := if g.crop then g.draw 1 * (k.h - g.oh + 1) / 2 ^ 24 else (k.h - g.oh) / 2
  let fl := g.flip && (g.draw 2).testBit 23
  let c := k.chans
  let rowLen := c * g.ow * outBytes g.ofmt
  (upFrom 0 g.oh).flatMap fun v =>
    ((upFrom 0 g.ow).flatMap fun u =>
      (upFrom 0 c).flatMap fun ch =>
        let j := (v * g.ow + u) * c + ch
        let p : Nat := (pixel0 k raw ch (if fl then x0 + g.ow - 1 - u else x0 + u) (y0 + v)).1
        let p : Int := min (Int.fdiv (p * g.gain ch + 16384) (2 ^ 15)) 65535
        let d : Int := ((g.draw (16 + j) / 2 ^ 16 % 2 ^ 8 : Nat) : Int) - 128
        let p : Int := if g.noise then clamp16 (p + Int.fdiv (d * g.namp) 128) else p
        outSigned g.ofmt p (Config.freeWord (g.ctr + j))) ++ List.replicate (up128 rowLen - rowLen) 0

/-- The status and the output of a sample. -/
structure Sample where
  status : Nat
  out    : List Byte := []

/-- A RAW sample of `len` bytes at `src`. LEN covers the header and the rows (assumption log 45). -/
def rawSample (s : State) (n src len idx : Nat) : Sample :=
  let w0 := s.word src
  let w := bitsOf w0 15 0
  let h := bitsOf w0 31 16
  let dt := bitsOf w0 37 32
  let cfa := bitsOf w0 40 38
  let d := fbWord s n 0
  let d4 := fbWord s n 4
  let chp := bitsOf d 18 14
  let ow := bitsOf d4 15 0
  let oh := bitsOf d4 31 16
  let ofmt := bitsOf d 20 19
  let c := if cfa = 4 then 1 else 3
  let rb := rowBytes dt w
  if w = 0 ∨ w % 8 ≠ 0 ∨ h < 16 ∨ 8192 < h ∨ dtBits dt = 0 ∨ 4 < cfa ∨ len ≠ 16 + h * rb ∨ w < ow ∨ h < oh ∨
      bitsOf (fbWord s n 5) 31 0 < oh * up128 (c * ow * outBytes ofmt) then ⟨3, []⟩
  else
    let k : PixCtx := { cfa := cfa, bits := dtBits dt, w := w, h := h, bl := s.reg .ING_CH_BL chp,
                        ccm := (upFrom 0 3).map fun i => s.reg .ING_CH_CCM (3 * chp + i) }
    let rows := (upFrom 0 h).map fun y => (unpackRow dt (s.bytes (src + 16 + y * rb) rb)).map fun v => (v, false)
    let g : ImgSet := { flip := d.getLsbD 10, crop := d.getLsbD 11, jit := d.getLsbD 12, noise := d.getLsbD 13,
                        ctr := s.freeCtr, ofmt := ofmt, seed := fbWord s n 1, ow := ow, oh := oh, jamp := bitsOf d4 47 32,
                        namp := bitsOf d4 63 48, idx := idx }
    ⟨0, augment k g (rowsAt rows)⟩

/-- A TEXT sample: NTOK, then the tokens. -/
def textSample (s : State) (n src len : Nat) : Sample :=
  let trie := (s.fbSlot n).trie
  let sstr := bitsOf (fbWord s n 5) 31 0
  if sstr < 4 then ⟨3, []⟩
  else if bitsOf trie 61 40 = 0 then ⟨4, []⟩
  else match tokenize s trie (sstr / 4 - 1) (len + 1) [] (s.bytes src len) with
    | .poison => ⟨2, []⟩
    | .corrupt => ⟨4, []⟩
    | .ok (l, more) => ⟨if more then 1 else 0, (l.length :: l).flatMap (leBytes 4)⟩

/-- Address of a sample list entry. -/
def entryAddr (s : State) (n i : Nat) : Nat := bitsOf (fbWord s n 3) 39 0 / 16 * 16 + 16 * i

/-- Kind of a sample. -/
def sampleKind (s : State) (n i : Nat) : Nat := bitsOf (s.word (entryAddr s n i)) 41 40

/-- What sample i of a batch comes to. -/
def sampleRun (s : State) (n i : Nat) : Sample :=
  let e := entryAddr s n i
  let w0 := s.word e
  let src := bitsOf w0 39 0
  let len := bitsOf (s.word (e + 8)) 31 0
  let idx := bitsOf (s.word (e + 8)) 63 32
  if ! s.within .cistern e 16 then ⟨3, []⟩
  else if s.poisoned e 16 then ⟨2, []⟩
  else if bitsOf w0 41 40 = 3 ∨ ¬ inProgram src (max 1 len) ∨ (bitsOf w0 41 40 = 1 ∧ len < 16) then ⟨3, []⟩
  else if 0 < len ∧ s.poisoned src len then ⟨2, []⟩
  else match bitsOf w0 41 40 with
    | 0 => if bitsOf (fbWord s n 5) 31 0 < len then ⟨3, []⟩ else ⟨0, s.bytes src len⟩
    | 1 => rawSample s n src len idx
    | _ => textSample s n src len

/-! ## Ends of samples and batches (R301, R303-R306) -/

def batchNs (s : State) (n : Nat) : Nat := bitsOf (fbWord s n 0) 8 0

/-- Status of a sample that has ended. -/
def endOf (s : State) (n i : Nat) : Option Nat := tget (fun _ => none) (s.fbSlot n).ends i

/-- Sample i is a sample of a FILLING batch that has not ended. -/
def sampleOpen (s : State) (n i : Nat) : Bool :=
  decide ((s.fbSlot n).state = 1) && decide (i < batchNs s n) && (endOf s n i).isNone

/-- The area of sample i, filled with an output and zeros. -/
def sampleBulk (s : State) (n i : Nat) (out : List Byte) : Bulk :=
  let sstr := bitsOf (fbWord s n 5) 31 0
  let a := slotBase s n + 512 + i * sstr
  (atAddr a (out ++ List.replicate (sstr - out.length) 0)).map fun b => (b.1, b.2, false)

/-- The header's words 8 to 15 and status bytes; the slot is READY; the gate, then the event (R301). -/
def batchReady (s : State) (n : Nat) : State :=
  let b := slotBase s n
  let ns := batchNs s n
  let st := (upFrom 0 ns).map fun i => (endOf s n i).getD 0
  let cnt := fun (p : Nat → Bool) => (st.filter p).length
  let w8 := cnt (· ≤ 1) + cnt (fun x => decide (2 ≤ x) && decide (x ≤ 4)) * 2 ^ 9 + cnt (· == 5) * 2 ^ 18 + 2 ^ 36
  let w9 := s.stamp + (s.fbSlot n).num % 2 ^ 32 * 2 ^ 32
  let bytes := leBytes 8 w8 ++ leBytes 8 w9 ++ List.replicate 48 0 ++
    (upFrom 0 256).map (fun i => BitVec.ofNat 8 (st.getD i 0)) ++ List.replicate 128 0
  let s := performG s fbSrc (atAddr (b + 64) bytes) fun _ => false
  let s := setFbSlot s n { s.fbSlot n with state := 2 }
  let w6 := fbWord s n 6
  let s := if w6.getLsbD 21 then
      signalHandle s fbSrc (w64 (bitsOf w6 20 0)) (BitVec.ofNat 32 (bitsOf w6 63 32)) else s
  if (fbWord s n 0).getLsbD 9 then ingEventF s fbSrc 0x4012 else s

/-- Sample i ends with a status. -/
def endSample (s : State) (n i : Nat) (x : Sample) : State :=
  let s := bulkPerform s fbSrc (sampleBulk s n i (if x.status ≤ 1 then x.out else []))
  let s := if x.status = 5 then s.satAdd ING_FB_STAT.LATE 0 1 else s
  let k := s.fbSlot n
  setFbSlot s n { k with ends := tput (fun _ => none) k.ends i (some x.status) }

/-- The batch becomes READY once every sample has ended. -/
def finishBatch (s : State) (n : Nat) : State :=
  if (upFrom 0 (batchNs s n)).all fun i => (endOf s n i).isSome then batchReady s n else s

/-- Strict mode for the Forebay (R304). -/
def fbStrict (s : State) : Bool := s.bit DET_STAT.STRICTNOW 0

/-- The time budget of a sample in ns (R303). -/
def fbBudget (s : State) (n i : Nat) : Nat :=
  max (s.fld ING_FB_CTL.BMUL 0 * s.fb.mean.getD (sampleKind s n i) 0 / 4) (s.fld ING_FB_CTL.FLOOR 0 * 1000)

/-- The reads of a sample meet the code errors of its list entry, its source bytes and the nodes of the trie that its
walk reads: those whose poison would end it (R302, R438). -/
def sampleReads (s : State) (n i : Nat) : State :=
  let e := entryAddr s n i
  let s := touchRead s fbSrc e 16 0
  if s.latent.isEmpty || s.poisoned e 16 then s
  else
    let src := bitsOf (s.word e) 39 0
    let len := bitsOf (s.word (e + 8)) 31 0
    let s := if len = 0 ∨ ¬ inProgram src len then s else touchRead s fbSrc src len 0
    let trie := (s.fbSlot n).trie
    let base := bitsOf trie 39 0 / 8 * 8
    let near := s.latent.filter fun l => decide (l.1 < base + 8 * bitsOf trie 61 40) && decide (base < l.1 + 64)
    let nodes := near.flatMap fun l => (upFrom 0 8).map fun w => l.1 / 64 * 64 + 8 * w
    let read := fun a => decide ((sampleRun (s.upd (.mark (s.home a / 8) true)) n i).status = 2)
    if near.isEmpty || (sampleRun s n i).status = 2 then s
    else forL (nodes.filter read) (fun a s => touchRead s fbSrc a 8 0) s

/-- A pixel pipe has no channel stripe ready: Forebay work runs on it (R283). -/
def pipeIdle (s : State) : Bool := (upFrom 0 4).any fun p => (pipeNext s p).isNone

/-- FOREBAY_SAMPLE_DONE: sample i ends after `ns` ns, within its budget unless strict; the work of a RAW sample runs on a
pipe with no channel stripe ready. -/
def fbSampleDone (s : State) (n i ns : Nat) : State :=
  if ! sampleOpen s n i || (! fbStrict s && decide (fbBudget s n i ≤ ns)) || (sampleKind s n i == 1 && ! pipeIdle s) then s
  else
    let k := sampleKind s n i
    let s := sampleReads s n i
    let x := sampleRun s n i
    let s := { s with freeCtr := s.freeCtr + x.out.length }
    let s := if x.status ≤ 1 then
        { s with fb := { s.fb with mean := lmod (fun m => (m + Int.fdiv ((ns : Int) - m) 16).toNat) s.fb.mean k } }
      else s
    finishBatch (endSample s n i x) n

/-- FOREBAY_SAMPLE_LATE: sample i has reached its budget (R303). -/
def fbSampleLate (s : State) (n i ns : Nat) : State :=
  if ! sampleOpen s n i || fbStrict s || decide (ns < fbBudget s n i) then s
  else finishBatch (endSample s n i ⟨5, []⟩) n

/-- FOREBAY_DEADLINE: every sample not yet ended ends LATE (R303). -/
def fbDeadline (s : State) (n : Nat) : State :=
  let w := fbWord s n 2
  if (s.fbSlot n).state ≠ 1 ∨ fbStrict s ∨ ¬ w.getLsbD 32 ∨ ¬ s.reached (bitsOf w 31 0) then s
  else finishBatch (forL ((upFrom 0 (batchNs s n)).filter (sampleOpen s n)) (fun i s => endSample s n i ⟨5, []⟩) s) n

/-- EN written 1 while DISABLED; the means start from 0 (R303). -/
def fbEnable (s : State) : State :=
  if s.fld ING_FB_CTL.STATE 0 = 2 then
    { s.setFld ING_FB_CTL.STATE 0 0 with fb := { s.fb with mean := [0, 0, 0] } }
  else s

/-- EN written 0. -/
def fbDrain (s : State) : State := if s.fld ING_FB_CTL.STATE 0 = 0 then s.setFld ING_FB_CTL.STATE 0 1 else s

/-- FILLING slots. -/
def filling (s : State) : List Nat := (upFrom 0 32).filter fun n => decide ((s.fbSlot n).state = 1)

/-- Ends a FILLING batch: the sample being written stops, DONE is 0, the slot is FREE (R306). -/
def fbDiscard (s : State) (n : Nat) : State :=
  let s := match (upFrom 0 (batchNs s n)).find? (sampleOpen s n) with
    | some i =>
      let x := sampleRun s n i
      bulkAbort s fbSrc (sampleBulk s n i (if x.status ≤ 1 then x.out else []))
    | none => s
  let a := slotBase s n + 64
  let s := s.store a 8 (putBits (s.word a) 36 36 0).toNat
  setFbSlot { s with fb := { s.fb with order := s.fb.order.filter (· != n) } } n {}

/-- ABORT (R306). -/
def fbAbort (s : State) : State :=
  ((forL (filling s) (fun n s => fbDiscard s n) s).setFld ING_FB_CTL.STATE 0 2).setBit ING_FB_CTL.EN 0 false

/-- The drained Forebay is DISABLED. -/
def fbDrained (s : State) : State :=
  if s.fld ING_FB_CTL.STATE 0 = 1 ∧ filling s = [] then s.setFld ING_FB_CTL.STATE 0 2 else s

end Sys2Proof.Machine
end

