-- ==== Sys2Proof/Machine/Solver.lean ====
section
/-! DEFINITION. The Solver Array: doorbells, problems, warm starts, kept iterates, endings, the primitives,
drain and abort (R307-R330), and the header check of the seal unit (R422). -/

namespace Sys2Proof.Machine

def State.lane (s : State) (l : Nat) : LaneSt := tget (fun _ => {}) s.lanes l

def State.setLane (s : State) (l : Nat) (x : LaneSt) : State :=
  { s with lanes := tput (fun _ => {}) s.lanes l x }

/-- Source id of a lane (R515). -/
def laneSrc (l : Nat) : Nat := 0x5000 + l

/-- A lane as a core. -/
def laneCore (l : Nat) : Core := .lane (Fin.ofNat 64 l)

/-- First address of a lane's memory (R28). -/
def laneBase (l : Nat) : Nat := 0x5200000000 + l * 0x80000

/-- Bytes of the gang memory (R308). -/
def gangBytes (s : State) (l : Nat) : Nat := gangSize s l * 0x80000

/-- Lane l is a member of a gang led by another lane (R308). -/
def isMember (s : State) (l : Nat) : Bool :=
  [2, 4, 8].any fun k => decide (l % k ≠ 0) && decide (k ≤ gangSize s (l / k * k))

/-- MEMBER follows the gang sizes. -/
def syncMembers (s : State) : State := forL (upFrom 0 64) (fun l s => s.setBit SLV_LANE_STAT.MEMBER l (isMember s l)) s

/-- A Solver Array event. -/
def slvEvent (s : State) (l code detail : Nat) : State := event s (s.fld SLV_CTL.EVQ 0) code (laneSrc l) detail

/-- FIFO and BUSY follow the lane. -/
def syncLane (s : State) (l : Nat) : State :=
  let x := s.lane l
  (s.setFld SLV_LANE_STAT.FIFO l x.fifo.length).setBit SLV_LANE_STAT.BUSY l x.prob.isSome

def modLane (s : State) (l : Nat) (f : LaneSt → LaneSt) : State := syncLane (s.setLane l (f (s.lane l))) l

/-- Strict mode for a lane. -/
def laneStrict (s : State) : Bool := s.bit DET_STAT.STRICTNOW 0

/-! ## Doorbells (R315) -/

/-- A write of SLV_DOOR: queued, or refused; the reasons are tried in the order 3, 2, 1, 4 (assumption
log 46). -/
def doorbell (s : State) (l off : Nat) : State :=
  let no := fun r => slvEvent s l 0x5001 (off + r * 2 ^ 32)
  if isMember s l then no 3
  else if s.fld SLV_LANE_STAT.STATE l ≠ 0 then no 2
  else if 8 ≤ (s.lane l).fifo.length then no 1
  else if off % 128 ≠ 0 then no 4
  else modLane (workArrives (s.modCore (laneCore l) fun k => { k with gated := false }) (laneSrc l)) l fun x =>
    { x with fifo := x.fifo ++ [off] }

/-! ## Descriptors (R315, R316) -/

/-- Positive infinity in FP64. -/
def f64inf : Word := 0x7FF0000000000000

def Problem.w (p : Problem) (i : Nat) : Word := p.words.getD i 0
def Problem.klen (p : Problem) : Nat := bitsOf (p.w 2) 45 32
def Problem.kbuf (p : Problem) : Nat := bitsOf (p.w 3) 31 0
def Problem.res (p : Problem) : Nat := bitsOf (p.w 3) 63 32
def Problem.ws (p : Problem) : Nat := bitsOf (p.w 4) 31 0
def Problem.wslot (p : Problem) : Nat := bitsOf (p.w 1) 38 35
def Problem.wuse (p : Problem) : Bool := (p.w 1).getLsbD 33
def Problem.wsave (p : Problem) : Bool := (p.w 1).getLsbD 34
def Problem.regen (p : Problem) : Bool := (p.w 1).getLsbD 39
def Problem.half (p : Problem) : Nat := 64 * ((32 + 8 * p.klen + 63) / 64)
def Problem.tag (p : Problem) : Nat := bitsOf (p.w 13) 31 0

/-- The signature of a problem (R317). -/
def Problem.sig (p : Problem) : Word :=
  seededZ 0 (bitsOf (p.w 0) 15 0 + bitsOf (p.w 0) 31 16 * 2 ^ 16 + bitsOf (p.w 0) 39 32 * 2 ^ 32 +
    bitsOf (p.w 0) 63 40 * 2 ^ 40)

/-- Where regions of a problem end: below the warm-start table of the leader. -/
def regionTop : Nat := 0x7FF00

/-- A region is aligned and lies below the table. -/
def regionOk (off n al : Nat) : Bool := decide (off % al = 0) && decide (off + n ≤ regionTop)

/-- Address of warm-start entry w of a lane (R318). -/
def slotEntry (l w : Nat) : Nat := laneBase l + regionTop + 16 * w

/-- OFF of a warm-start slot. -/
def slotOff (s : State) (l w : Nat) : Nat := bitsOf (s.word (slotEntry l w + 8)) 31 0

def disjoint (a b : Nat × Nat) : Bool := decide (a.1 + a.2 ≤ b.1) || decide (b.1 + b.2 ≤ a.1)

/-- No two ranges of a list overlap. -/
def allDisjoint : List (Nat × Nat) → Bool
  | [] => true
  | a :: r => r.all (disjoint a) && allDisjoint r

/-- The reason of the first check that a descriptor fails (R316). -/
def problemBad (s : State) (l : Nat) (p : Problem) : Option Nat :=
  let k := p.klen
  let nvar := bitsOf (p.w 0) 15 0
  let slot := slotOff s l p.wslot
  let uses := p.wuse || p.wsave
  let regions := [(p.desc, 128), (p.kbuf, 2 * p.half), (p.res, 64 + 8 * k)] ++
    (if p.wuse then [(p.ws, 8 * k)] else []) ++ (if uses then [(slot, 8 * k)] else [])
  if decide (bitsOf (p.w 1) 63 40 ≠ 0) || decide (bitsOf (p.w 2) 63 46 ≠ 0) || decide (bitsOf (p.w 12) 31 22 ≠ 0) ||
      decide (p.w 14 ≠ 0) || decide (p.w 15 ≠ 0) || decide (nvar = 0) || decide (1024 * gangSize s l < nvar) ||
      decide (k = 0) || decide (8192 < k) || decide (200 < bitsOf (p.w 0) 39 32) then some 0x01
  else if ! regionOk p.desc 128 128 || ! regionOk p.kbuf (2 * p.half) 64 || ! regionOk p.res (64 + 8 * k) 64 ||
      (p.wuse && ! regionOk p.ws (8 * k) 64) then some 0x10
  else if uses && (! regionOk slot (8 * k) 1 || ! allDisjoint regions) then some 0x11
  else if (p.w 12).getLsbD 21 && ! handleOkUnit (w64 (bitsOf (p.w 12) 20 0)) false then some 0x12
  else none

/-! ## Endings (R319, R323) -/

/-- Writes a lane makes to its memory. -/
def lanePut (s : State) (l off : Nat) (bs : List Byte) (pois : Nat → Bool) : State :=
  performG s (laneSrc l) (atAddr (laneBase l + off) bs) pois

/-- Copies n bytes of memory, marks included; both ends are word-aligned or the marks are those of any word
touched. -/
def laneCopy (s : State) (l src dst n : Nat) : State :=
  let s := touchRead s (laneSrc l) src n 0
  performG s (laneSrc l) (atAddr dst (s.bytes src n)) fun w => s.poisoned (src + (8 * w - dst)) 8

/-- The returned block: words MERIT, RP, RD, GAP. -/
def blockHead (s : State) : Option Nat → List Word
  | some a => s.words a 4
  | none => List.replicate 4 f64inf

/-- The header is checked by the seal unit (R422). -/
def checkHeader (s : State) (l code : Nat) (empty : Bool) (rp rd : Word) : State :=
  let above := fun (v t : Word) => decide (t ≠ 0) && fLt (fDecode .f64 t.toNat) (fDecode .f64 v.toNat)
  if (s.reg .DRD_SLV_EN 0).getLsbD l &&
      ([2, 3, 5, 6, 7, 8].contains code || empty || above rp (s.reg .DRD_SLV0 l) ||
        above rd (s.reg .DRD_SLV1 l)) then detect s 7 (laneSrc l)
  else s

/-- A flag at bit i. -/
def flagAt (c : Bool) (i : Nat) : Nat := if c then 2 ^ i else 0

/-- WARM_REJECTED and REGULARIZED of a problem (R324). -/
def Problem.ownFlags (p : Problem) : Nat := flagAt p.rejected 8 + flagAt (decide (p.pivots ≠ 0)) 9

/-- What a problem's result header holds besides its code (R324). -/
structure Ending where
  code   : Nat
  flags  : Nat := 0
  count  : Bool := false
  ecause : Nat := 0
  reason : Nat := 0
  epc    : Nat := 0

/-- Writes the 64-byte header; words 1-4 are MERIT, RP, RD and GAP, with their marks. -/
def writeHeader (s : State) (l : Nat) (p : Problem) (e : Ending) (empty : Bool) (h : List Word)
    (marks : List Bool := []) : State :=
  let w0 := e.code + e.flags + min 65535 p.pivots * 2 ^ 16 + min (2 ^ 32 - 1) p.offers * 2 ^ 32
  let w5 := (if laneStrict s then 0 else s.stamp) + min (2 ^ 32 - 1) p.clauses * 2 ^ 32
  let ws := [w64 w0] ++ h ++ [w64 w5, w64 (e.ecause + e.reason * 2 ^ 8), w64 (e.epc % 2 ^ 22)]
  let s := lanePut s l p.res (ws.flatMap fun w => leBytes 8 w.toNat) fun w =>
    marks.getD (w - ((laneBase l + p.res) / 8 + 1)) false && decide ((laneBase l + p.res) / 8 < w)
  checkHeader s l e.code empty (h.getD 1 0) (h.getD 2 0)

/-- Signals DGATE when DSIG is set, and counts the ending. -/
def closeProblem (s : State) (l : Nat) (p : Problem) (code : Nat) : State :=
  let s := (s.setFld SLV_LANE_STAT.LASTCODE l code).wrapAdd SLV_LANE_CNT.DONE l 1
  let s := if code = 1 then s.satAdd SLV_LANE_CNT.DLINE l 1
    else if code = 7 then s.satAdd SLV_LANE_CNT.REFUSED l 1 else s
  if (p.w 12).getLsbD 21 then
    signalHandle s (laneSrc l) (w64 (bitsOf (p.w 12) 20 0)) (BitVec.ofNat 32 (bitsOf (p.w 12) 63 32))
  else s

/-- Saves the returned iterate into the problem's slot (R319). -/
def saveSlot (s : State) (l : Nat) (p : Problem) (block : Nat) : State :=
  let e := slotEntry l p.wslot
  let off := slotOff s l p.wslot
  let s := laneCopy s l (block + 32) (laneBase l + off) (8 * p.klen)
  let s := s.store e 8 p.sig.toNat
  s.store (e + 8) 8 (off + p.klen * 2 ^ 32 + 2 ^ 63)

/-- The problem in progress ends with a code and the block at an address, or the kept iterate (R323). `save`
allows the slot save. -/
def endProblem (s : State) (l : Nat) (block : Option Nat) (save : Bool) (e : Ending) : State :=
  match (s.lane l).prob with
  | none => s
  | some p =>
    let keptAt := p.kept.map fun h => laneBase l + p.kbuf + h * p.half
    let b := block.orElse fun _ => keptAt
    let n := 8 * p.klen
    let s := match b with
      | some a => laneCopy s l (a + 32) (laneBase l + p.res + 64) n
      | none => lanePut s l (p.res + 64) (List.replicate n 0) fun _ => false
    let psn := match b with
      | some a => s.poisoned a (32 + n)
      | none => false
    let bad := match b with
      | some a => s.poisoned (a + 32) n
      | none => false
    let marks := match b with
      | some a => (upFrom 0 4).map fun i => s.mark (a + 8 * i)
      | none => []
    let s := match b with
      | some a => if save && p.wsave && ! bad then saveSlot s l p a else s
      | none => s
    let flags := p.ownFlags + flagAt psn 10 + flagAt b.isNone 11 + flagAt e.count 12 +
      flagAt (block.isNone && p.seed && p.kept.isSome) 13
    let s := writeHeader s l p { e with flags := flags } b.isNone (blockHead s b) marks
    closeProblem (modLane s l fun x => { x with prob := none, run := none }) l p e.code

/-- After an ending other than `sdone` the lane's registers are zeroed and it continues at ENTRY (R323). -/
def laneRestart (s : State) (l : Nat) : State :=
  s.setCore (laneCore l) { pc := laneBase l + s.fld SLV_LANE_CTL.ENTRY l / 4 * 4 }

/-- The header of an ending that returns no iterate: EMPTY, and +∞ for MERIT, RP, RD and GAP (R323; assumption log 46). -/
def emptyHeader (s : State) (l : Nat) (p : Problem) (e : Ending) : State :=
  writeHeader s l p { e with flags := p.ownFlags + flagAt true 11 } true (List.replicate 4 f64inf)

/-- A posted problem that never began ends with a code, if RES itself passes: CANCELLED as a problem with no kept iterate,
otherwise by its header alone (R316, R323, R330). -/
def endQueued (s : State) (l off code reason : Nat) : State :=
  let p : Problem := { desc := off, words := s.words (laneBase l + off) 16 }
  let s := if regionOk p.res (64 + 8 * p.klen) 64 then
      let s := if code = 4 then lanePut s l (p.res + 64) (List.replicate (8 * p.klen) 0) fun _ => false else s
      emptyHeader s l p { code := code, reason := reason }
    else s
  closeProblem s l p code

/-- Every queued problem ends with a code. -/
def flushFifo (s : State) (l code : Nat) : State :=
  let q := (s.lane l).fifo
  forL q (fun off s => endQueued s l off code 0) (modLane s l fun x => { x with fifo := [] })

/-! ## Primitives (R325-R328) -/

/-- Why a primitive stops short. -/
inductive PrimStop where
  | singular
  | overflow
  | poison
deriving DecidableEq, Repr

/-- A value in a chain: bits, poison, flags raised so far. -/
structure El where
  v  : Nat
  p  : Bool
  fl : Flags

/-- A primitive while it runs: memory, flags, the largest accepted pivot, pivots regularised, elements
written, which of them a residue mismatch spoils, how many may be written, why it stopped. -/
structure PrimSt where
  s    : State
  fl   : Flags := 0
  dmax : FVal := .fin false 0 0
  reg  : Nat := 0
  n    : Nat := 0
  hit  : Option Nat := none
  cut  : Option Nat := none
  stop : Option PrimStop := none

/-- What a primitive runs on: lane, format, record, the problem's pivot settings. -/
structure PrimCtx where
  l     : Nat
  f     : FFmt
  rec_  : List Word
  regen : Bool
  eps   : Word
  dabs  : Word
  drel  : Word
  ovt   : Word

def PrimCtx.w (k : PrimCtx) (i : Nat) : Word := k.rec_.getD i 0
def PrimCtx.size (k : PrimCtx) : Nat := if k.f = .f32 then 4 else 8
def PrimCtx.nn (k : PrimCtx) : Nat := bitsOf (k.w 0) 31 16
def PrimCtx.kk (k : PrimCtx) : Nat := bitsOf (k.w 0) 47 32
def PrimCtx.mm (k : PrimCtx) : Nat := bitsOf (k.w 0) 63 48
def PrimCtx.off (k : PrimCtx) (i : Nat) : Nat := bitsOf (k.w (1 + i)) 31 0
def PrimCtx.ld (k : PrimCtx) (i : Nat) : Nat := bitsOf (k.w (1 + i)) 63 32
def PrimCtx.doff (k : PrimCtx) : Nat := bitsOf (k.w 4) 31 0
def PrimCtx.neg (k : PrimCtx) : Bool := (k.w 0).getLsbD 11

/-- Address of element (i, j) of operand m. -/
def PrimCtx.at_ (k : PrimCtx) (m i j : Nat) : Nat := laneBase k.l + k.off m + (i + j * k.ld m) * k.size

/-- Address of element i of D. -/
def PrimCtx.dAt (k : PrimCtx) (i : Nat) : Nat := laneBase k.l + k.doff + i * k.size

/-- Reads an element. -/
def PrimSt.get (p : PrimSt) (k : PrimCtx) (a : Nat) : El := ⟨p.s.load a k.size, p.s.mark a, 0⟩

def El.neg (f : FFmt) (x : El) : El := { x with v := fNegBits f x.v }

def elFma (f : FFmt) (a b c : El) : El :=
  let r := fFma f rne a.v b.v c.v
  ⟨r.1, a.p || b.p || c.p, a.fl ||| b.fl ||| c.fl ||| r.2⟩

def el2 (op : FFmt → RMode → Nat → Nat → Nat × Flags) (f : FFmt) (a b : El) : El :=
  let r := op f rne a.v b.v
  ⟨r.1, a.p || b.p, a.fl ||| b.fl ||| r.2⟩

def elSqrt (f : FFmt) (a : El) : El :=
  let r := fSqrt f rne a.v
  ⟨r.1, a.p, a.fl ||| r.2⟩

/-- The element is not finite, or above OVT (R328). -/
def overflows (k : PrimCtx) (v : Nat) : Bool :=
  match fDecode k.f v with
  | .fin _ m e => decide (k.ovt ≠ 0) && fLt (fDecode .f64 k.ovt.toNat) (.fin false m e)
  | _ => true

/-- Writes an element. -/
def PrimSt.put (p : PrimSt) (k : PrimCtx) (a : Nat) (x : El) : PrimSt :=
  if p.stop.isSome || decide (p.cut = some p.n) then p
  else
    let psn := x.p || decide (p.hit = some p.n)
    let s := performG p.s (laneSrc k.l) (atAddr a (leBytes k.size x.v)) fun _ => psn
    { p with s := s, fl := p.fl ||| x.fl, n := p.n + 1, stop := if overflows k x.v then some .overflow else none }

/-- Runs a step for every index while the primitive goes on. -/
def loopP (l : List Nat) (f : Nat → PrimSt → PrimSt) (p : PrimSt) : PrimSt :=
  forL l (fun i p => if p.stop.isSome then p else f i p) p

/-- The pivot rule for d at index j (R328). -/
def takePivot (k : PrimCtx) (p : PrimSt) (d : El) (j : Nat) (chol : Bool) : PrimSt × El :=
  let v := fDecode k.f d.v
  let eps := fDecode .f64 k.eps.toNat
  let small := if chol then fLt v eps else fLt (fMag v) eps
  let keepIt := fun (p : PrimSt) (d : El) =>
    let m := fMag (fDecode k.f d.v)
    ({ p with dmax := if fLt p.dmax m then m else p.dmax }, d)
  if d.p then ({ p with stop := some .poison }, d)
  else if k.regen && small then
    let a := fDecode .f64 k.dabs.toNat
    let b := (exMul (fDecode .f64 k.drel.toNat) p.dmax).getD (.nan false false 0)
    let r := roundV k.f rne false (if a.isNaN || b.isNaN then .nan false false (2 ^ 51) else if fLt a b then b else a)
    let minus := if chol then false else if ! v.isZero then v.sign else decide (bitsOf (k.w 4) 47 32 ≤ j)
    let x : El := ⟨if minus then fNegBits k.f r.1 else r.1, false, d.fl ||| r.2⟩
    keepIt { p with reg := if p.cut = some p.n then p.reg else p.reg + 1 } x
  else if ! k.regen && (v.isZero || (chol && ! v.isNaN && v.sign)) then ({ p with stop := some .singular }, d)
  else keepIt p d

/-- The LDLT column formula; `inBand i c` says whether factor (i, c) is in the matrix, `at_` its address
(R327). -/
def ldltColumn (k : PrimCtx) (at_ : Nat → Nat → Nat) (inBand : Nat → Nat → Bool) (rows : Nat) (jIn : Nat → Nat)
    (j : Nat) (p : PrimSt) : PrimSt :=
  let wOf := fun (p : PrimSt) c => el2 fMul k.f (p.get k (at_ j c)) (p.get k (k.dAt c))
  let d := ((upFrom 0 j).filter (inBand j)).foldl (fun d c =>
    elFma k.f ((wOf p c).neg k.f) (p.get k (at_ j c)) d) (p.get k (at_ j j))
  let r := takePivot k p d (jIn j) false
  let p := r.1.put k (k.dAt j) r.2
  loopP ((upFrom (j + 1) (rows - (j + 1))).filter fun i => inBand i j) (fun i p =>
    let t := ((upFrom 0 j).filter fun c => inBand i c && inBand j c).foldl (fun t c =>
      elFma k.f ((p.get k (at_ i c)).neg k.f) (wOf p c) t) (p.get k (at_ i j))
    p.put k (at_ i j) (el2 fDiv k.f t (p.get k (k.dAt j)))) p

/-- CHOL. -/
def primChol (k : PrimCtx) (p : PrimSt) : PrimSt :=
  loopP (upFrom 0 k.nn) (fun j p =>
    let d := (upFrom 0 j).foldl (fun d c =>
      elFma k.f ((p.get k (k.at_ 0 j c)).neg k.f) (p.get k (k.at_ 0 j c)) d) (p.get k (k.at_ 0 j j))
    let r := takePivot k p d j true
    let p := r.1.put k (k.at_ 0 j j) (elSqrt k.f r.2)
    loopP (upFrom (j + 1) (k.nn - (j + 1))) (fun i p =>
      let t := (upFrom 0 j).foldl (fun t c =>
        elFma k.f ((p.get k (k.at_ 0 i c)).neg k.f) (p.get k (k.at_ 0 j c)) t) (p.get k (k.at_ 0 i j))
      p.put k (k.at_ 0 i j) (el2 fDiv k.f t (p.get k (k.at_ 0 j j)))) p) p

/-- LDLT. -/
def primLdlt (k : PrimCtx) (p : PrimSt) : PrimSt :=
  loopP (upFrom 0 k.nn) (ldltColumn k (k.at_ 0) (fun _ _ => true) k.nn id) p

/-- Address of element (i, j) of a block-tridiagonal matrix: its diagonal or sub-diagonal block. -/
def bandAt (k : PrimCtx) (i j : Nat) : Nat :=
  let n := max 1 k.nn
  let o := (i % n + j % n * n) * k.size + j / n * (n * n) * k.size
  laneBase k.l + (if i / n = j / n then k.off 0 else k.off 1) + o

/-- Element (i, j) lies in the band, on or below the diagonal block. -/
def inBand (k : PrimCtx) (i j : Nat) : Bool :=
  let n := max 1 k.nn
  decide (i / n = j / n) || decide (i / n = j / n + 1)

/-- BTRI. -/
def primBtri (k : PrimCtx) (p : PrimSt) : PrimSt :=
  let m := k.nn * k.mm
  loopP (upFrom 0 m) (ldltColumn k (bandAt k) (inBand k) m fun j => j % max 1 k.nn) p

/-- Divides by a diagonal element unless the diagonal is unit. -/
def byDiag (k : PrimCtx) (p : PrimSt) (t : El) (a : Nat) : El :=
  if (k.w 0).getLsbD 10 then t else el2 fDiv k.f t (p.get k a)

/-- TRSV. -/
def primTrsv (k : PrimCtx) (p : PrimSt) : PrimSt :=
  let n := k.nn
  let tr := (k.w 0).getLsbD 9
  loopP (upFrom 0 k.kk) (fun r p =>
    loopP (if tr then (upFrom 0 n).reverse else upFrom 0 n) (fun i p =>
      let cs := if tr then upFrom (i + 1) (n - (i + 1)) else upFrom 0 i
      let t := cs.foldl (fun t c =>
        let a := if tr then k.at_ 0 c i else k.at_ 0 i c
        elFma k.f ((p.get k a).neg k.f) (p.get k (k.at_ 1 c r)) t) (p.get k (k.at_ 1 i r))
      p.put k (k.at_ 1 i r) (byDiag k p t (k.at_ 0 i i))) p) p

/-- BTSOL: forward, by D, then backward. -/
def primBtsol (k : PrimCtx) (p : PrimSt) : PrimSt :=
  let n := k.nn * k.mm
  loopP (upFrom 0 k.kk) (fun r p =>
    let p := loopP (upFrom 0 n) (fun i p =>
      let t := ((upFrom 0 i).filter (inBand k i)).foldl (fun t c =>
        elFma k.f ((p.get k (bandAt k i c)).neg k.f) (p.get k (k.at_ 2 c r)) t) (p.get k (k.at_ 2 i r))
      p.put k (k.at_ 2 i r) t) p
    let p := loopP (upFrom 0 n) (fun i p =>
      p.put k (k.at_ 2 i r) (el2 fDiv k.f (p.get k (k.at_ 2 i r)) (p.get k (k.dAt i)))) p
    loopP (upFrom 0 n).reverse (fun i p =>
      let t := ((upFrom (i + 1) (n - (i + 1))).filter fun c => inBand k c i).foldl (fun t c =>
        elFma k.f ((p.get k (bandAt k c i)).neg k.f) (p.get k (k.at_ 2 c r)) t) (p.get k (k.at_ 2 i r))
      p.put k (k.at_ 2 i r) t) p) p

/-- The sign of an update. -/
def signed (k : PrimCtx) (x : El) : El := if k.neg then x.neg k.f else x

/-- SCHUR. -/
def primSchur (k : PrimCtx) (p : PrimSt) : PrimSt :=
  let ident := decide (k.doff = 2 ^ 32 - 1)
  loopP (upFrom 0 k.nn) (fun j p =>
    loopP (upFrom j (k.nn - j)) (fun i p =>
      let t := (upFrom 0 k.kk).foldl (fun t c =>
        let a := p.get k (k.at_ 0 j c)
        let w := if ident then a else el2 fMul k.f a (p.get k (k.dAt c))
        elFma k.f (signed k (p.get k (k.at_ 0 i c))) w t) (p.get k (k.at_ 2 i j))
      p.put k (k.at_ 2 i j) t) p) p

/-- GEMM. -/
def primGemm (k : PrimCtx) (p : PrimSt) : PrimSt :=
  loopP (upFrom 0 k.mm) (fun j p =>
    loopP (upFrom 0 k.nn) (fun i p =>
      let c0 := if (k.w 0).getLsbD 12 then ⟨0, false, 0⟩ else p.get k (k.at_ 2 i j)
      let t := (upFrom 0 k.kk).foldl (fun t c =>
        elFma k.f (signed k (p.get k (k.at_ 0 i c))) (p.get k (k.at_ 1 c j)) t) c0
      p.put k (k.at_ 2 i j) t) p) p

/-- AXPBY: ALPHA and BETA are FP64 values, each operation rounded to the element format. -/
def primAxpby (k : PrimCtx) (p : PrimSt) : PrimSt :=
  loopP (upFrom 0 k.nn) (fun i p =>
    let a := p.get k (k.at_ 0 i 0)
    let b := p.get k (k.at_ 1 i 0)
    let d := fun (w : Word) => fDecode .f64 w.toNat
    let q := (nanResult k.f rne [d (k.w 6), fDecode k.f b.v]).getD
      (roundOr k.f rne (exMul (d (k.w 6)) (fDecode k.f b.v)))
    let r := fmaOf k.f rne (d (k.w 5)) (fDecode k.f a.v) (fDecode k.f q.1)
    p.put k (k.at_ 1 i 0) ⟨r.1, a.p || b.p, q.2 ||| r.2⟩) p

/-- ELEM. -/
def primElem (k : PrimCtx) (p : PrimSt) : PrimSt :=
  loopP (upFrom 0 k.nn) (fun i p =>
    let a := p.get k (k.at_ 0 i 0)
    let b := p.get k (k.at_ 1 i 0)
    let r := match bitsOf (k.w 0) 15 13 with
      | 0 => el2 fMul k.f a b
      | 1 => el2 fDiv k.f a b
      | 2 => elSqrt k.f a
      | 3 => el2 (fMinMax true) k.f a b
      | _ => el2 (fMinMax false) k.f a b
    p.put k (k.at_ 2 i 0) r) p

/-- Writes RES, an FP64 value, into the record; an overflow of it stops the problem (R328). -/
def PrimSt.putRes (p : PrimSt) (k : PrimCtx) (addr : Nat) (x : El) (checked : Bool := true) : PrimSt :=
  if p.stop.isSome || decide (p.cut = some p.n) then p
  else
    let psn := x.p || decide (p.hit = some p.n)
    { p with
      s := performG p.s (laneSrc k.l) (atAddr (addr + 56) (leBytes 8 x.v)) fun _ => psn
      fl := p.fl ||| x.fl
      n := p.n + 1
      stop := if checked && overflows { k with f := .f64 } x.v then some .overflow else none }

/-- An element as an FP64 value. -/
def El.wide (f : FFmt) (x : El) : El := if f = .f64 then x else { x with v := (fCvt f .f64 rne false x.v).1 }

/-- DOT: the chain is in FP64, the format of RES. -/
def primDot (k : PrimCtx) (addr : Nat) (psn : Bool) (p : PrimSt) : PrimSt :=
  let t := (upFrom 0 k.nn).foldl (fun (t : El) i =>
    let a := p.get k (k.at_ 0 i 0)
    let b := p.get k (k.at_ 1 i 0)
    let r := fmaOf .f64 rne (fDecode k.f a.v) (fDecode k.f b.v) (fDecode .f64 t.v)
    ⟨r.1, t.p || a.p || b.p, t.fl ||| r.2⟩) ⟨(k.w 7).toNat, psn, 0⟩
  p.putRes k addr t

/-- NRMI; no elements leave RES a free value (assumption log 5). -/
def primNrmi (k : PrimCtx) (addr : Nat) (p : PrimSt) : PrimSt :=
  let es := (upFrom 0 k.nn).map fun i => (p.get k (k.at_ 0 i 0)).wide k.f
  let psn := es.any El.p
  let nan := es.any fun x => (fDecode .f64 x.v).isNaN
  let sig := (upFrom 0 k.nn).any fun i => (fDecode k.f (p.get k (k.at_ 0 i 0)).v).isSig
  if es.isEmpty then { p with s := p.s.useFree }.putRes k addr ⟨p.s.free.toNat, false, 0⟩
  else
    let m := es.foldl (fun m x => if fLt (fDecode .f64 m) (fMag (fDecode .f64 x.v)) then x.v % 2 ^ 63 else m) 0
    p.putRes k addr ⟨if nan then FFmt.canonNaN .f64 else m, psn, flagIf sig flNV⟩

/-- RATIO; +∞ is its stated result where no element qualifies, and then no overflow (assumption log 46). -/
def primRatio (k : PrimCtx) (addr : Nat) (p : PrimSt) : PrimSt :=
  let t := (upFrom 0 k.nn).foldl (fun (t : El) i =>
    let a := p.get k (k.at_ 0 i 0)
    let b := p.get k (k.at_ 1 i 0)
    let t := { t with p := t.p || a.p || b.p }
    let v := fDecode k.f b.v
    if ! v.isNaN && v.sign && ! v.isZero then
      let q := (el2 fDiv k.f (a.neg k.f) b).wide k.f
      let r := fMinMax false .f64 rne t.v q.v
      ⟨r.1, t.p, t.fl ||| q.fl ||| r.2⟩
    else t) ⟨f64inf.toNat, false, 0⟩
  let none_ := (upFrom 0 k.nn).all fun i =>
    let v := fDecode k.f (p.get k (k.at_ 1 i 0)).v
    v.isNaN || ! v.sign || v.isZero
  p.putRes k addr t ! none_

/-- Runs a primitive. -/
def runPrim (k : PrimCtx) (addr : Nat) (psn : Bool) (p : PrimSt) : PrimSt :=
  match bitsOf (k.w 0) 7 0 with
  | 0x01 => primChol k p
  | 0x02 => primLdlt k p
  | 0x03 => primBtri k p
  | 0x04 => primTrsv k p
  | 0x05 => primBtsol k p
  | 0x06 => primSchur k p
  | 0x07 => primGemm k p
  | 0x08 => primAxpby k p
  | 0x09 => primElem k p
  | 0x0A => primDot k addr psn p
  | 0x0B => primNrmi k addr p
  | _ => primRatio k addr p

/-- The settings a primitive runs under; with no problem in progress they are 0 (assumption log 46). -/
def primCtx (s : State) (l : Nat) (ws : List Word) : PrimCtx :=
  let p := (s.lane l).prob
  let w := fun i => (p.map fun q => q.w i).getD 0
  { l := l, f := if (ws.getD 0 0).getLsbD 8 then .f32 else .f64, rec_ := ws, regen := (p.map Problem.regen).getD false,
    eps := w 5, dabs := w 6, drel := w 7, ovt := w 8 }

/-- Bytes that r × c elements of operand m span. -/
def PrimCtx.span (k : PrimCtx) (m r c : Nat) : List (Nat × Nat) :=
  if r = 0 ∨ c = 0 then [] else [(k.off m, (r - 1 + (c - 1) * k.ld m + 1) * k.size)]

/-- Bytes of a run of n elements at an offset. -/
def PrimCtx.run (k : PrimCtx) (off n : Nat) : List (Nat × Nat) := if n = 0 then [] else [(off, n * k.size)]

/-- The regions a primitive uses. -/
def primRegions (k : PrimCtx) : List (Nat × Nat) :=
  let n := k.nn
  let kk := k.kk
  let m := k.mm
  match bitsOf (k.w 0) 7 0 with
  | 0x01 => k.span 0 n n
  | 0x02 => k.span 0 n n ++ k.run k.doff n
  | 0x03 => k.run (k.off 0) (m * n * n) ++ k.run (k.off 1) ((m - 1) * n * n) ++ k.run k.doff (n * m)
  | 0x04 => k.span 0 n n ++ k.span 1 n kk
  | 0x05 =>
    k.run (k.off 0) (m * n * n) ++ k.run (k.off 1) ((m - 1) * n * n) ++ k.run k.doff (n * m) ++ k.span 2 (n * m) kk
  | 0x06 => k.span 0 n kk ++ k.span 2 n n ++ (if k.doff = 2 ^ 32 - 1 then [] else k.run k.doff kk)
  | 0x07 => k.span 0 n kk ++ k.span 1 kk m ++ k.span 2 n m
  | 0x08 => k.run (k.off 0) n ++ k.run (k.off 1) n
  | 0x09 => k.run (k.off 0) n ++ (if bitsOf (k.w 0) 15 13 = 2 then [] else k.run (k.off 1) n) ++ k.run (k.off 2) n
  | 0x0B => k.run (k.off 0) n
  | _ => k.run (k.off 0) n ++ k.run (k.off 1) n

/-- The record breaks a limit of R326. -/
def primIllegal (s : State) (k : PrimCtx) : Bool :=
  let n := k.nn
  let kk := k.kk
  let m := k.mm
  let btri := decide (64 < n) || decide (200 < m) || decide (1024 * gangSize s k.l < n * m)
  decide (bitsOf (k.w 4) 63 48 ≠ 0) || match bitsOf (k.w 0) 7 0 with
    | 0x01 | 0x02 => decide (256 < n)
    | 0x03 => btri
    | 0x04 => decide (256 < n) || decide (256 < kk)
    | 0x05 => btri || decide (16 < kk)
    | 0x06 => decide (256 < n) || decide (1024 < kk)
    | 0x07 => decide (128 < n) || decide (128 < kk) || decide (128 < m)
    | 0x09 => decide (4 < bitsOf (k.w 0) 15 13)
    | 0x08 | 0x0A | 0x0B | 0x0C => false
    | _ => true

/-- The trap a primitive's record raises at issue (R310, R326). -/
def primTrap (s : State) (k : PrimCtx) : Option Trap :=
  if primIllegal s k then some trIllegal
  else
    let rs := primRegions k
    match rs.find? fun r => decide (r.1 % k.size ≠ 0) with
    | some r => some (trAlign (laneBase k.l + r.1))
    | none => match rs.find? fun r => decide (gangBytes s k.l < r.1 + r.2) with
      | some r => some (trAccess (laneBase k.l + r.1))
      | none => none

/-- n bytes from an address lie in the lane's gang memory. -/
def inGang (s : State) (l a n : Nat) : Bool := decide (laneBase l ≤ a) && decide (a + n ≤ laneBase l + gangBytes s l)

/-- An operand address of a lane extension: 8-byte aligned, its bytes in the gang memory. A lane consumes
poison at pivots and merits only (R446). -/
def laneOperand (s : State) (l : Nat) (b : CoreSt) (ga : BitVec 5) (n : Nat) : Except Hold Nat := do
  let g := b.readG ga
  trapIf (decide (g.v.toNat % 8 ≠ 0)) (trAlign g.v.toNat)
  trapIf (! inGang s l g.v.toNat n) (trAccess g.v.toNat)
  .ok g.v.toNat

/-- `prim` issues: its record is checked, and the primitive runs (R310, R326). -/
def primIssue (l : Nat) (b : CoreSt) (gd ga : BitVec 5) (s : State) : Res := do
  let a ← laneOperand s l b ga 64
  let ws := s.words a 8
  match primTrap s (primCtx s l ws) with
  | some t => raise t
  | none => .ok (s.setLane l { s.lane l with run := some ⟨gd, a, ws, s.mark (a + 56), b.pc⟩ })

/-- Flags go into FFLAGS. -/
def orFlags (s : State) (c : Core) (fl : Flags) : State :=
  s.modCore c fun k => k.setSpecial 0x009 (k.special 0x009 ||| w64 fl.toNat)

/-- A primitive in progress is abandoned: an open number of its elements has been written, and the pivots replaced among
them count (R324, R328). -/
def dropPrim (s : State) (l : Nat) : State :=
  match (s.lane l).run with
  | none => s
  | some r =>
    let s := s.setLane l { s.lane l with run := none }
    let k := primCtx s l r.words
    let n := (runPrim k r.addr r.psn { s := s }).n
    let cut := s.free.toNat % (n + 1)
    let p := runPrim k r.addr r.psn { s := s.useFree, cut := some cut }
    modLane p.s l fun x => { x with prob := x.prob.map fun q => { q with pivots := q.pivots + p.reg } }

/-- The copy of a better offer into its half of the keep buffer (R321). -/
def keepBulk (s : State) (l : Nat) (p : Problem) (k : KeepRun) : Bulk :=
  (atAddr (laneBase l + p.kbuf + k.half * p.half) (s.bytes k.addr (32 + 8 * p.klen))).map fun b =>
    (b.1, b.2, s.mark (k.addr + (b.1 - (laneBase l + p.kbuf + k.half * p.half))))

/-- The copy of an offer has finished: the offer is retained (R321, R322). -/
def keepDone (s : State) (l : Nat) : State :=
  match (s.lane l).keep, (s.lane l).prob with
  | some k, some p =>
    let s := touchRead s (laneSrc l) k.addr (32 + 8 * p.klen) 0
    let s := bulkPerform s (laneSrc l) (keepBulk s l p k)
    modLane s l fun x =>
      { x with keep := none, prob := some { p with kept := some k.half, seed := false, merit := k.merit, retained := p.retained + 1, clauses := p.clauses + 1 } }
  | _, _ => s

/-- What is in progress when a problem is cut is abandoned. A copy of an offer has finished or is cut short, which is open;
cut short it leaves the kept iterate and KMERIT (R322, R324). -/
def dropRun (s : State) (l : Nat) : State :=
  match (s.lane l).keep, (s.lane l).prob with
  | some k, some p =>
    if s.free.getLsbD 0 then keepDone s.useFree l
    else
      let s := s.useFree
      (bulkAbort s (laneSrc l) (keepBulk s l p k)).setLane l { s.lane l with keep := none }
  | _, _ => dropPrim s l

/-! ## Preemption, faults, drain, abort (R313, R324, R330) -/

/-- The deadline or the budget has been reached (R324): the code is DEADLINE, by count or not. -/
def preempted (s : State) (l : Nat) : Option Bool :=
  match (s.lane l).prob with
  | none => none
  | some p =>
    if (p.w 1).getLsbD 32 && ! laneStrict s && s.reached (bitsOf (p.w 1) 31 0) then some false
    else if bitsOf (p.w 2) 31 0 ≠ 0 ∧ bitsOf (p.w 2) 31 0 ≤ p.clauses then some true
    else none

/-- The problem ends and the lane continues at ENTRY. -/
def endAndRestart (s : State) (l : Nat) (save : Bool) (e : Ending) : State :=
  laneRestart (endProblem (dropRun s l) l none save e) l

/-- Preempts the problem when the test is met. -/
def preempt (s : State) (l : Nat) : State :=
  match preempted s l with
  | some count => endAndRestart s l true { code := 1, count := count }
  | none => s

/-- The deadline has been reached. -/
def solverDeadline (s : State) (l : Nat) : State := if preempted s l = some false then preempt s l else s

/-- The clause budget has been reached. -/
def solverBudget (s : State) (l : Nat) : State := if preempted s l = some true then preempt s l else s

/-- A lane becomes FAILED: its queued problems end LANE_FAILED (R313, R330). -/
def laneFail (s : State) (l cause : Nat) : State :=
  let s := flushFifo s l 8
  let s := s.setFld SLV_LANE_STAT.STATE l 3
  let s := s.modCore (laneCore l) fun k => { k with stream := [], waiting := false, gated := false }
  detect (slvEvent s l 0x5003 cause) 8 (laneSrc l)

/-- A lane takes a fault at the clause at `pc` (R313). -/
def laneFault (s : State) (l : Nat) (t : Trap) (pc : Nat) : State :=
  let s := match t.psn with
    | some (kind, a) => consumePoison s (laneSrc l) kind a
    | none => s
  if (s.lane l).prob.isSome then
    laneRestart (endProblem (modLane s l fun x => { x with run := none }) l none true
      { code := 6, ecause := t.cls, epc := pc - laneBase l }) l
  else laneFail (modLane s l fun x => { x with run := none }) l t.cls

/-- PRIM_<name>: the primitive in progress ends (R326-R328); `bad` is a residue mismatch of one of its
products (R421). -/
def primDone (s : State) (l pop : Nat) (bad : Bool) : State :=
  match (s.lane l).run with
  | none => s
  | some r =>
    if bitsOf (r.words.getD 0 0) 7 0 ≠ pop then s
    else if (preempted s l).isSome then preempt s l
    else
      let k := primCtx s l r.words
      let n := (runPrim k r.addr r.psn { s := s }).n
      let hit := if bad then some (s.free.toNat % max 1 n) else none
      let p := runPrim k r.addr r.psn { s := if bad then s.useFree else s, hit := hit }
      let s := if bad then detect p.s 5 (laneSrc l) else p.s
      let s := orFlags s (laneCore l) p.fl
      let s := modLane s l fun x => { x with prob := x.prob.map fun q => { q with pivots := q.pivots + p.reg } }
      match p.stop with
      | some .poison => laneFault s l { cls := 8, psn := some (7, 0) } r.pc
      | some .singular => laneRestart (endProblem (modLane s l fun x => { x with run := none }) l none true { code := 2 }) l
      | some .overflow => laneRestart (endProblem (modLane s l fun x => { x with run := none }) l none true { code := 3 }) l
      | none =>
        let v := w64 ((if p.reg = 0 then 0 else 1) + min 65535 p.reg * 2 ^ 16)
        let s := s.modCore (laneCore l) fun c => c.writeG r.gd ⟨v, false⟩
        modLane s l fun x =>
          { x with run := none, prob := x.prob.map fun q => { q with clauses := q.clauses + 1 } }

/-- What follows a `keep` whose comparison, and copy if it is better, have ended: in DRAINING the problem ends CANCELLED
(R330). -/
def keepEnded (s : State) (l : Nat) : State :=
  if s.fld SLV_LANE_STAT.STATE l = 1 ∧ (s.lane l).keep = none then endAndRestart s l false { code := 4 } else s

/-! ## `keep`, `snext`, `sdone` (R316, R318, R321-R323) -/

/-- `keep` (R321): the offer counts, and a better one begins to be copied, which ends with the next command (assumption log
46). -/
def keepIssue (l : Nat) (b : CoreSt) (ga : BitVec 5) (s : State) : Res :=
  match (s.lane l).prob with
  | none => raise trIllegal
  | some p => do
    let a ← laneOperand s l b ga (32 + 8 * p.klen)
    trapIf (s.poisoned a 8) { cls := 8, psn := some (7, a) }
    let m := fDecode .f64 (s.load a 8)
    let better := ! m.isNaN && fLt m (fDecode .f64 p.merit.toNat)
    let half := match p.kept with
      | some h => 1 - h
      | none => 0
    let keep := if better then some ⟨a, half, s.word a, s.turn⟩ else none
    .ok (keepEnded (modLane s l fun x => { x with prob := some { p with offers := p.offers + 1 }, keep := keep }) l)

/-- Warm start of a problem that begins (R318). -/
def warmStart (s : State) (l : Nat) (p : Problem) : State × Problem :=
  if ! p.wuse then (s, p)
  else
    let e := slotEntry l p.wslot
    let w1 := s.word (e + 8)
    if ! w1.getLsbD 63 then (s, p)
    else if s.word e ≠ p.sig ∨ bitsOf w1 45 32 ≠ p.klen then (s, { p with rejected := true })
    else
      let src := laneBase l + bitsOf w1 31 0
      let s := laneCopy s l src (laneBase l + p.ws) (8 * p.klen)
      let s := lanePut s l p.kbuf ((List.replicate 4 f64inf).flatMap fun (w : Word) => leBytes 8 w.toNat) fun _ => false
      let s := laneCopy s l src (laneBase l + p.kbuf + 32) (8 * p.klen)
      (s, { p with warm := true, kept := some 0, seed := true })

/-- The problem at a posted offset. -/
def postedProblem (s : State) (l off : Nat) : Problem := { desc := off, words := s.words (laneBase l + off) 16 }

/-- While `snext` waits, posted problems that fail a check end REFUSED, up to the first that passes. -/
def refusePosted (l : Nat) : List Nat → State → State
  | [], s => s
  | off :: r, s =>
    let s := touchRead s (laneSrc l) (laneBase l + off) 128 0
    let p := postedProblem s l off
    match problemBad s l p with
    | some reason =>
      let s := s.modCore (laneCore l) fun k => k.setSpecial 0x009 0
      refusePosted l r (slvEvent (endQueued (modLane s l fun x => { x with fifo := r }) l off 7 reason) l 0x5002
        (p.tag + reason * 2 ^ 32))
    | none => s

/-- `snext` begins the oldest posted problem, which has passed every check; with none its clause waits. A
deadline already reached ends the problem at once (R316, R318, R324). With a problem in progress it raises
ILLEGAL (assumption log 46). -/
def snextIssue (l : Nat) (gd : BitVec 5) (s : State) : Res :=
  if (s.lane l).prob.isSome then raise trIllegal
  else match (s.lane l).fifo with
    | [] => .error .wait
    | off :: r =>
      let s := s.modCore (laneCore l) fun k => (k.setSpecial 0x009 0).writeG gd ⟨w64 off, false⟩
      let w := warmStart s l (postedProblem s l off)
      let s := modLane w.1 l fun x => { x with fifo := r, prob := some w.2 }
      .ok (if (preempted s l).isSome then preempt s l else s)

/-- `sdone` (R311, R323). -/
def sdoneIssue (l : Nat) (b : CoreSt) (ga gb : BitVec 5) (s : State) : Res :=
  match (s.lane l).prob with
  | none => raise trIllegal
  | some p => do
    let code := bitsOf (b.readG gb).v 7 0
    trapIf (decide (code ≠ 0) && decide (code < 64)) trIllegal
    if (b.readG ga).v = 0 then .ok (endProblem s l none true { code := code })
    else do
      let a ← laneOperand s l b ga (32 + 8 * p.klen)
      .ok (endProblem s l (some a) true { code := code })

/-- A clause of a lane has retired: it counts in the problem it was part of. -/
def laneRetire (s : State) (l : Nat) (had : Option Problem) : State :=
  match had, (s.lane l).prob with
  | some p, some q =>
    if (s.lane l).run.isSome || (s.lane l).keep.isSome || decide (p.desc ≠ q.desc) then s
    else s.setLane l { s.lane l with prob := some { q with clauses := q.clauses + 1 } }
  | _, _ => s

/-! ## Enable, drain, abort (R308, R330, R488) -/

/-- EN written 1 while DISABLED. -/
def laneEnable (s : State) (l : Nat) : State :=
  if s.fld SLV_LANE_STAT.STATE l = 2 then laneRestart (s.setFld SLV_LANE_STAT.STATE l 0) l else s

/-- EN written 0: queued problems end CANCELLED. -/
def laneDrain (s : State) (l : Nat) : State :=
  if s.fld SLV_LANE_STAT.STATE l = 0 then flushFifo (s.setFld SLV_LANE_STAT.STATE l 1) l 4 else s

/-- The lane issues no further clause. -/
def laneOff (s : State) (l : Nat) : State :=
  let s := (s.setFld SLV_LANE_STAT.STATE l 2).setBit SLV_LANE_CTL.EN l false
  s.modCore (laneCore l) fun k => { k with stream := [], waiting := false, gated := false }

/-- The drained lane is DISABLED. -/
def laneDrained (s : State) (l : Nat) : State :=
  if s.fld SLV_LANE_STAT.STATE l = 1 ∧ (s.lane l).prob = none then laneOff s l else s

/-- 100 µs after DRAINING began the problem in progress ends CANCELLED (R330). -/
def laneDrainTimeout (s : State) (l : Nat) : State :=
  if s.fld SLV_LANE_STAT.STATE l = 1 ∧ (s.lane l).prob.isSome then endAndRestart s l false { code := 4 } else s

/-- ABORT: the problem in progress and the queued ones end ABORTED with the header only (R330). -/
def laneAbort (s : State) (l : Nat) : State :=
  if s.fld SLV_LANE_STAT.STATE l = 3 then s
  else
    let s := dropRun s l
    let s := match (s.lane l).prob with
      | some p =>
        closeProblem (modLane (emptyHeader s l p { code := 5 }) l fun x => { x with prob := none, run := none }) l p 5
      | none => s
    laneOff (laneRestart (flushFifo s l 5) l) l

/-- LANE_CLOCK_GATE: `snext` has waited for 2 µs (R205, R316). -/
def laneGate (s : State) (l : Nat) : State :=
  s.modCore (laneCore l) fun k => if k.waiting then { k with gated := true } else k

end Sys2Proof.Machine
end

