-- ==== Sys2Proof/Machine/Journal.lean ====
section
/-! DEFINITION. The journal's recording side and its feed copies (R395-R401), strict mode and the
bit-equivalence key (R389-R394), and the lock-step comparator (R404, R405). -/

namespace Sys2Proof.Machine

/-- Source ids of the journal and of the lock-step comparator (R515). -/
def jnlSrc : Nat := 0xF001
def lsSrc : Nat := 0xF002

def jnlEvent (s : State) (code detail : Nat) : State := event s (s.fld JNL_CTL.EVQ 0) code jnlSrc detail

def State.setJnl (s : State) (j : JnlSt) : State := { s with jnl := j }

/-- The full time of a compact stamp near now, in total ns (R353). -/
def fullTime (s : State) (stamp : Nat) : Nat := ((s.totalNs : Int) + stampDiff s.stamp stamp).toNat

/-- A number rounded up to a multiple of 32. -/
def up32 (n : Nat) : Nat := (n + 31) / 32 * 32

/-! ## Records (R396) -/

/-- The bytes of a record. -/
def recordBytes (s : State) (r : JIn) (ooo : Bool) (seq : Nat) : List Byte :=
  let t := fullTime s r.stamp
  let w0 := r.kind + r.flags + (if ooo then 512 else 0) + (if r.psn.isEmpty then 0 else 1024) + r.src * 2 ^ 16 +
    r.payload.length * 2 ^ 32
  leBytes 8 w0 ++ leBytes 8 (r.stamp + seq % 2 ^ 32 * 2 ^ 32) ++ leBytes 8 (t / 1000000000 % 2 ^ 48) ++
    leBytes 8 (t % 1000000000 + min (2 ^ 32 - 1) r.delta * 2 ^ 32) ++ r.payload ++
    List.replicate (up32 r.payload.length - r.payload.length) 0

/-- A record that the journal makes of its own. -/
def ownRecord (s : State) (kind : Nat) (payload : List Byte) : JIn :=
  { kind := kind, src := jnlSrc, stamp := s.stamp, payload := payload }

/-! ## The ring (R398) -/

def ringSize (s : State) : Nat := s.fld JNL_RING.SIZE 0 * 2 ^ 20
def ringBase (s : State) : Nat := s.fld JNL_RING.BASE 0 / 2 ^ 20 * 2 ^ 20
def jnlWr (s : State) : Nat := s.fld JNL_PTR_WR.WR 0
def jnlRd (s : State) : Nat := s.fld JNL_PTR_RD.RD 0

/-- Bytes between RD and WR. -/
def ringUsed (s : State) : Nat := (jnlWr s + ringSize s - jnlRd s % max 1 (ringSize s)) % max 1 (ringSize s)

/-- Bytes that a record of n bytes takes: with the rest of the ring when it does not fit before the end. -/
def ringNeed (s : State) (n : Nat) : Nat := if jnlWr s + n ≤ ringSize s then n else ringSize s - jnlWr s + n

/-- A record of n bytes fits in the free space. -/
def ringFits (s : State) (n : Nat) : Bool := decide (ringUsed s + ringNeed s n < ringSize s)

/-- Records are lost: counted, and reported when LOST grows from 0. -/
def jnlLose (s : State) (n : Nat) : State :=
  if n = 0 then s
  else
    let was := s.fld JNL_STAT.LOST 0
    let s := (s.satAdd JNL_STAT.LOST 0 n).setJnl { s.jnl with lost := s.jnl.lost + n, total := s.jnl.total + n }
    if was = 0 then eventFree s (s.fld JNL_CTL.EVQ 0) 0xF010 jnlSrc else s

def stgBase (s : State) : Nat := s.fld JNL_STG.BASE 0 / 4096 * 4096
def stgSize (s : State) : Nat := s.fld JNL_STG.SIZE 0 * 4096

/-- Hands a copy of n bytes to a ring mover; the tag of its completion. -/
def jnlCopy (s : State) (m : Fin 12) (src dst n : Nat) : State × Nat :=
  let tag := s.jnl.tag
  let d := buildDesc (.unit jnlSrc tag) false 0 (s.fld JNL_CTL.EVQ 0) jnlSrc (tag % 2 ^ 32) (flatNoun src n) (flatNoun dst n)
  let k := s.mover (.ring m)
  let s := s.setMover (.ring m) { k with handoff := k.handoff ++ [d] }
  (s.setJnl { s.jnl with tag := tag + 1 }, tag)

/-- Where a run of n bytes goes in a host ring: at its offset, or at its start when it does not fit before the
end (assumption log 47). -/
def hostPlace (off size n : Nat) : Nat := if off + n ≤ size then off else 0

/-- Offset of the next bytes of an item in a host ring. -/
def hostAt (s : State) (o : JOut) : Nat :=
  if o.rows then hostPlace s.jnl.rowsOff (s.fld JNL_HOSTF.SIZE 0 * 2 ^ 20) o.bytes.length
  else hostPlace s.jnl.hostOff (s.fld JNL_HOST.SIZE 0 * 2 ^ 20) o.bytes.length

/-- The item is copied to a host ring as well: rows to the frame ring, records with STREAM to the record ring. -/
def toHost (s : State) (o : JOut) : Option (Fin 12) :=
  if o.rows then some 11 else if s.bit JNL_CTL.STREAM 0 && o.seq.isSome then some 10 else none

/-- The movers that copy the pieces of an item. -/
def pieceMovers (s : State) (o : JOut) : List (Fin 12) :=
  (if o.rows then [] else [Fin.ofNat 12 (quadOf (stgBase s))]) ++ (toHost s o).toList

/-- The handoff queue of a ring mover is full (R165). -/
def ringFull (s : State) (m : Fin 12) : Bool := decide (32 ≤ (s.mover (.ring m)).handoff.length)

/-- The next piece of the item being copied is put into the staging area and handed to the movers, once each has
room: a quadrant mover for the ring, hub mover 6 for the host ring, hub mover 7 for the host frame ring (R166). -/
def stagePiece (s : State) : State :=
  match s.jnl.out with
  | [] => s
  | o :: r =>
    if o.tag.isSome || o.host.isSome || (pieceMovers s o).any (ringFull s) then s
    else
      let n := min (o.bytes.length - o.staged) (max 1 (stgSize s))
      let a := stgBase s
      let lo := o.staged
      let s := performG s jnlSrc (atAddr a ((o.bytes.drop lo).take n)) fun w => o.psn.contains (lo / 8 + (w - a / 8))
      let ring := if o.rows then (s, none)
        else let c := jnlCopy s (Fin.ofNat 12 (quadOf a)) a (ringBase s + o.off + lo) n
             (c.1, some c.2)
      let s := ring.1
      let base := if o.rows then s.fld JNL_HOSTF.BASE 0 else s.fld JNL_HOST.BASE 0
      let host := match toHost s o with
        | some m => let c := jnlCopy s m a (base + hostAt s o + lo) n
                    (c.1, some c.2)
        | none => (s, none)
      let s := host.1
      s.setJnl { s.jnl with out := { o with piece := n, tag := ring.2, host := host.2 } :: r }

/-- Starts copying a record: before it the zero header of a wrap, and the rows of a hashed frame. -/
def startRecord (s : State) (r : JIn) (ooo isSeal : Bool) : State :=
  let b := recordBytes s r ooo s.jnl.seq
  if ! ringFits s b.length then jnlLose s 1
  else
    let wraps := decide (ringSize s < jnlWr s + b.length)
    let pad : List JOut := if wraps then [{ off := jnlWr s, bytes := List.replicate 32 0 }] else []
    let rows : List JOut := if r.rows.isEmpty then [] else [{ rows := true, off := 0, bytes := r.rows }]
    let o : JOut := { off := if wraps then 0 else jnlWr s, bytes := b, psn := r.psn.map (· + 4),
                      seq := some s.jnl.seq, isSeal := isSeal }
    stagePiece (s.setJnl { s.jnl with out := pad ++ rows ++ [o], seq := (s.jnl.seq + 1) % 2 ^ 32 })

/-- Of two held inputs the earlier stamp is written first, with ties in ascending SRC (R397). -/
def jnlBefore (a b : JIn) : Bool :=
  let d := stampDiff a.stamp b.stamp
  decide (0 < d) || (decide (d = 0) && decide (a.src ≤ b.src))

/-- The input to be written next: one that arrived more than 20 µs late, else the first in stamp order that
has been held for 20 µs or, in a drain, any (R397, R399). -/
def nextInput (s : State) : Option (JIn × Bool) :=
  match s.jnl.held.find? fun r => decide (20000 < r.delta) with
  | some r => some (r, true)
  | none =>
    match s.jnl.held with
    | [] => none
    | x :: l =>
      let r := l.foldl (fun a b => if jnlBefore a b then a else b) x
      if s.fld JNL_CTL.STATE 0 = 1 ∨ 20000 ≤ stampDiff r.stamp s.stamp then some (r, false) else none

/-- The SEAL record (R395, R399). -/
def sealRecord (s : State) : JIn := ownRecord s 0x0A (leBytes 8 s.jnl.lastSeq ++ leBytes 8 s.jnl.total)

/-- JOURNAL_RECORD_WRITE: the journal writes its next record; drained of inputs it writes the SEAL record. -/
def journalWrite (s : State) : State :=
  if ! s.jnl.out.isEmpty || decide (s.fld JNL_CTL.STATE 0 = 2) then s
  else match nextInput s with
    | some (r, ooo) => startRecord (s.setJnl { s.jnl with held := s.jnl.held.erase r }) r ooo false
    | none =>
      if s.fld JNL_CTL.STATE 0 = 1 ∧ s.jnl.held = [] ∧ ¬ s.jnl.sealed ∧ ¬ s.bit JNL_CTL.MODE 0 then
        startRecord (s.setJnl { s.jnl with sealed := true }) (sealRecord s) false true
      else s

/-- JOURNAL_LOST_RECORD: space is free again (R398). -/
def journalLost (s : State) : State :=
  if s.jnl.lost = 0 ∨ s.jnl.out ≠ [] ∨ s.fld JNL_CTL.STATE 0 = 2 ∨ ¬ ringFits s 64 then s
  else
    let r := ownRecord s 0x09 (leBytes 8 s.jnl.lost)
    startRecord (s.setJnl { s.jnl with lost := 0 }) r false false

/-- The completion of a tag: its CODE, once it has been reported. -/
def doneOf (s : State) (tag : Nat) : Option Nat :=
  (s.unitDone.find? fun d => d.1 == jnlSrc && d.2.1 == tag).map fun d => d.2.2

/-- Takes the completion of a tag out of the list. -/
def dropDone (s : State) (tags : List Nat) : State :=
  { s with unitDone := s.unitDone.filter fun d => ! (d.1 == jnlSrc && tags.contains d.2.1) }

/-- An item has been copied whole: WR passes it, and with STREAM so does RD (R398). -/
def itemDone (s : State) (o : JOut) : State :=
  let n := o.bytes.length
  if o.rows then s.setJnl { s.jnl with rowsOff := hostAt s o + n }
  else match o.seq with
    | none => s.setFld JNL_PTR_WR.WR 0 0
    | some q =>
      let s := (s.setFld JNL_PTR_WR.WR 0 ((o.off + n) % max 1 (ringSize s))).wrapAdd JNL_STAT.RECS 0 1
      let s := if s.bit JNL_CTL.STREAM 0 then
          (s.setJnl { s.jnl with hostOff := hostAt s o + n }).setFld JNL_PTR_RD.RD 0 (jnlWr s)
        else s
      if o.isSeal then jnlEvent s 0xF011 q else s.setJnl { s.jnl with lastSeq := q }

/-- JOURNAL_RECORD_LANDED: the copies of the piece in progress have been performed; the next piece is staged,
or the item ends. A copy that its mover refuses or aborts loses the record. -/
def journalLanded (s : State) : State :=
  match s.jnl.out with
  | [] => s
  | o :: r =>
    let tags := o.tag.toList ++ o.host.toList
    let codes := tags.map (doneOf s)
    if ! codes.all Option.isSome then s
    else
      let s := dropDone s tags
      if ! codes.all fun c => decide (c.getD 0 ≤ 2) then jnlLose (s.setJnl { s.jnl with out := [] }) 1
      else
        let o := { o with staged := o.staged + o.piece, piece := 0, tag := none, host := none }
        if o.staged < o.bytes.length then stagePiece (s.setJnl { s.jnl with out := o :: r })
        else
          let s := itemDone s o
          stagePiece (s.setJnl { s.jnl with out := r })

/-! ## Enable, drain, abort (R399, R488) -/

/-- EN written 1 while DISABLED; a SIZE of 0 leaves the journal DISABLED. -/
def journalEnable (s : State) : State :=
  if s.fld JNL_CTL.STATE 0 ≠ 2 then s
  else if s.fld JNL_STG.SIZE 0 = 0 then s.setBit JNL_CTL.EN 0 false
  else
    let j : JnlSt := { tag := s.jnl.tag, feed := s.jnl.feed, feedLeft := s.jnl.feedLeft, hostOff := s.jnl.hostOff, rowsOff := s.jnl.rowsOff }
    ((s.setFld JNL_CTL.STATE 0 0).setJnl j).setBit DET_STAT.REPLAYING 0 (s.bit JNL_CTL.MODE 0)

/-- EN written 0. -/
def journalDrain (s : State) : State :=
  if s.fld JNL_CTL.STATE 0 = 0 then (s.setFld JNL_CTL.STATE 0 1).setBit DET_STAT.REPLAYING 0 false else s

/-- Held inputs count as lost, a record not wholly written is left out, and a SEAL record is written at once
(R399). -/
def sealNow (s : State) : State :=
  if s.fld JNL_CTL.STATE 0 = 2 ∨ s.bit JNL_CTL.MODE 0 then s
  else
    let s := jnlLose s (s.jnl.held.length + (s.jnl.out.filter fun o => o.seq.isSome && ! o.isSeal).length)
    let s := s.setJnl { s.jnl with held := [], out := [], sealed := true }
    let b := recordBytes s (sealRecord s) false s.jnl.seq
    if ! ringFits s b.length then s
    else
      let q := s.jnl.seq
      let wr := jnlWr s
      let wraps := decide (ringSize s < wr + b.length)
      let s := if wraps then performG s jnlSrc (atAddr (ringBase s + wr) (List.replicate 32 0)) fun _ => false else s
      let off := if wraps then 0 else wr
      let s := performG s jnlSrc (atAddr (ringBase s + off) b) fun _ => false
      let s := s.setJnl { s.jnl with seq := (q + 1) % 2 ^ 32 }
      jnlEvent ((s.setFld JNL_PTR_WR.WR 0 ((off + b.length) % max 1 (ringSize s))).wrapAdd JNL_STAT.RECS 0 1) 0xF011 q

/-- The journal is DISABLED. -/
def journalOff (s : State) : State :=
  ((s.setFld JNL_CTL.STATE 0 2).setBit JNL_CTL.EN 0 false).setBit DET_STAT.REPLAYING 0 false

/-- ABORT. -/
def journalAbort (s : State) : State :=
  let s := sealNow s
  journalOff (s.setJnl { s.jnl with held := [], out := [] })

/-- The drained journal is DISABLED. -/
def journalDrained (s : State) : State :=
  if s.fld JNL_CTL.STATE 0 = 1 ∧ s.jnl.held = [] ∧ s.jnl.out = [] ∧ (s.jnl.sealed ∨ s.bit JNL_CTL.MODE 0) then
    journalOff s else s

/-- A write of JNL_MARK. -/
def journalMark (s : State) (v : Word) : State := journalIn s 0x0B jnlSrc s.stamp (leBytes 8 v.toNat)

/-! ## Feed copies (R401) -/

/-- Bytes of each half of the staging area in replay. -/
def halfSize (s : State) : Nat := stgSize s / 2

/-- A write of JNL_FEED.LEN is ignored and logged: a copy runs, or WR would pass RD; a length that is no
multiple of 32 or exceeds the feed area is ignored in the same way (assumption log 47). -/
def feedIgnored (s : State) (n : Nat) : Bool :=
  s.bit JNL_CTL.MODE 0 &&
    (s.bit JNL_FEED.BUSY 0 || decide (ringSize s ≤ ringUsed s + n) || decide (n % 32 ≠ 0) || decide (halfSize s < n))

/-- The runs of a feed copy: source, destination and length, cut where the feed area or the ring ends. -/
def feedRuns (s : State) : Nat → Nat → Nat → Nat → List (Nat × Nat × Nat)
  | 0, _, _, _ => []
  | _ + 1, _, _, 0 => []
  | fuel + 1, f, w, n =>
    let k := min n (min (halfSize s - f) (ringSize s - w))
    if k = 0 then []
    else (stgBase s + halfSize s + f, ringBase s + w, k) ::
      feedRuns s fuel ((f + k) % max 1 (halfSize s)) ((w + k) % max 1 (ringSize s)) (n - k)

/-- The runs of a feed copy still to be handed over go to their quadrant mover while it has room (R166). -/
def feedHand : List (Nat × Nat × Nat) → State → State
  | [], s => s.setJnl { s.jnl with feedLeft := [] }
  | x :: r, s =>
    let m : Fin 12 := Fin.ofNat 12 (quadOf x.1)
    if ringFull s m then s.setJnl { s.jnl with feedLeft := x :: r }
    else
      let c := jnlCopy s m x.1 x.2.1 x.2.2
      feedHand r (c.1.setJnl { c.1.jnl with feed := c.1.jnl.feed.map fun f => (f.1, f.2 ++ [c.2]) })

/-- A write of JNL_FEED.LEN. -/
def feedGo (s : State) (n : Nat) : State :=
  if ! s.bit JNL_CTL.MODE 0 || decide (n = 0) || feedIgnored s n then s
  else
    let s := (s.setBit JNL_FEED.BUSY 0 true).setJnl { s.jnl with feed := some (n, []) }
    feedHand (feedRuns s 4 (s.fld JNL_FEED.FOFF 0) (jnlWr s) n) s

/-- JOURNAL_FEED_DONE: the copy has been performed. -/
def feedDone (s : State) : State :=
  match s.jnl.feed with
  | none => s
  | some (n, tags) =>
    if ! s.jnl.feedLeft.isEmpty || ! tags.all fun t => (doneOf s t).isSome then s
    else
      let s := (dropDone s tags).setJnl { s.jnl with feed := none }
      let s := s.setFld JNL_PTR_WR.WR 0 ((jnlWr s + n) % max 1 (ringSize s))
      (s.setFld JNL_FEED.FOFF 0 ((s.fld JNL_FEED.FOFF 0 + n) % max 1 (halfSize s))).setBit JNL_FEED.BUSY 0 false

/-- What the journal has waiting for a mover goes on as soon as there is room (R166). -/
def jnlPump (s : State) : State :=
  let s := stagePiece s
  if s.jnl.feedLeft.isEmpty then s else feedHand s.jnl.feedLeft s

/-- The journal has nothing waiting for a mover. -/
def jnlRests (s : State) : Bool :=
  s.jnl.feedLeft.isEmpty &&
    match s.jnl.out with
    | [] => true
    | o :: _ => o.tag.isSome || o.host.isSome

/-! ## Strict mode and the key (R389-R394) -/

/-- The settings hash SH (R389). -/
def settingsHash (s : State) : Nat :=
  let w0 := s.fld DET_ARITH.DEFMODE 0 + (if s.bit DET_CTL.STRICT 0 then 256 else 0)
  let ws := w0 :: (upFrom 4 28).map fun w => (s.reg .FE_GRID w).toNat
  (ws.foldl (fun h w => seededZ h w) (0 : Word)).toNat / 2 ^ 32

/-- Tables 1-7 are identical on all engines (R390). -/
def gridsEqual (s : State) : Bool :=
  (upFrom 1 255).all fun e => (upFrom 4 28).all fun w => decide (s.reg .FE_GRID (32 * e + w) = s.reg .FE_GRID w)

/-- GRIDEQ follows a write of a grid table. -/
def gridWritten (s : State) : State := s.setBit DET_STAT.GRIDEQ 0 (gridsEqual s)

/-- DET_KEY_RECOMPUTE: a key that has changed is recorded (R390). -/
def keyRecompute (s : State) : State :=
  let old := s.reg .DET_KEY 0
  let s := s.setFld DET_KEY.SH 0 (settingsHash s)
  if s.reg .DET_KEY 0 = old then s else journalIn s 0x08 jnlSrc s.stamp (leBytes 8 (s.reg .DET_KEY 0).toNat)

/-- STRICTNOW_APPLIED: every island has applied STRICT (R394). -/
def strictApplied (s : State) : State := s.setBit DET_STAT.STRICTNOW 0 (s.bit DET_CTL.STRICT 0)

/-! ## Lock-step comparison (R404, R405) -/

def State.setLs (s : State) (l : LsSt) : State := { s with ls := l }

/-- Compact stamp at which epoch k begins. -/
def epochStart (s : State) (k : Nat) : Nat := (s.fld DET_LS_START.START 0 + k * s.fld DET_LS.EPER 0) % 2 ^ 32

/-- A frame's digest stamp lies in epoch k. -/
def inEpoch (s : State) (k : Nat) (f : LsFrame) : Bool :=
  let d := stampDiff (epochStart s k) f.stamp
  decide (0 ≤ d) && decide (d < s.fld DET_LS.EPER 0)

/-- Inserts a frame by ascending digest stamp, then ascending source id. -/
def insFrame (t0 : Nat) (f : LsFrame) : List LsFrame → List LsFrame
  | [] => [f]
  | g :: r =>
    let a := stampDiff t0 f.stamp
    let b := stampDiff t0 g.stamp
    if a < b ∨ (a = b ∧ f.src < g.src) then f :: g :: r else g :: insFrame t0 f r

/-- The digest of epoch k. -/
def epochDigest (s : State) (k : Nat) : List Byte :=
  let t0 := epochStart s k
  let fs := (s.ls.frames.filter (inEpoch s k)).foldl (fun l f => insFrame t0 f l) []
  sha256 (fs.flatMap fun f => leBytes 4 f.stamp ++ leBytes 2 f.src ++ leBytes 1 (f.code.getD 0) ++ f.payload)

/-- Compares the digests of epoch k once both are known. -/
def compareEpoch (s : State) (k : Nat) : State :=
  match s.ls.own.find? fun d => d.1 == k, s.ls.partner.find? fun d => d.1 == k with
  | some a, some b =>
    if s.bit DET_LS.ACTIVE 0 && decide (a.2 ≠ b.2) && ! b.2.isEmpty then
      detect (event s (s.fld JNL_CTL.EVQ 0) 0xF020 lsSrc (k % 2 ^ 32)) 21 lsSrc
    else s
  | _, _ => s

/-- LOCKSTEP_DIGEST_SEND: every designated frame of the epoch has its final code, or the epoch ended EPER ago;
the digest goes out on the management channel of D1 (R404). -/
def digestSend (s : State) : State :=
  let k := s.ls.epoch
  let fs := s.ls.frames.filter (inEpoch s k)
  if ! s.bit DET_LS.EN 0 || ! s.reached (epochStart s (k + 1)) ||
      ! (fs.all (fun f => f.code.isSome) || s.reached (epochStart s (k + 2))) then s
  else
    let d := epochDigest s k
    let s := s.setLs { s.ls with
      epoch := k + 1
      frames := s.ls.frames.filter fun f => ! inEpoch s k f
      own := (s.ls.own ++ [(k, d)]).drop (s.ls.own.length - 7) }
    let s := if dvUp s 1 then
        let ws := dvWords s 1 { vc := 3, len := 40, src := lsSrc } (w64 k :: payloadWords d)
        s.modDv 1 fun x => { x with queue := x.queue ++ [{ vc := 3, words := ws }] }
      else s
    compareEpoch s k

/-- LOCKSTEP_DIGEST_RECEIVE: the partner's digest for epoch k (R405). -/
def digestReceive (s : State) (k : Nat) (d : List Byte) : State :=
  if ! s.bit DET_LS.EN 0 || ! dvUp s 1 then s
  else compareEpoch (s.setLs { s.ls with partner := (s.ls.partner ++ [(k, d)]).drop (s.ls.partner.length - 7) }) k

/-- LOCKSTEP_DIGEST_MISSING: no digest of epoch k has arrived by 2 × EPER after its end, or the link is down
(R405). It is reported once. -/
def digestMissing (s : State) (k : Nat) : State :=
  if s.bit DET_LS.ACTIVE 0 && ! (s.ls.partner.any fun d => d.1 == k) && s.reached (epochStart s (k + 1)) &&
      (! dvUp s 1 || s.reached (epochStart s (k + 3))) then
    let s := s.setLs { s.ls with partner := (s.ls.partner ++ [(k, [])]).drop (s.ls.partner.length - 7) }
    detect (eventFree s (s.fld JNL_CTL.EVQ 0) 0xF021 lsSrc) 21 lsSrc
  else s

/-- The keys announced at link-up of D1 are compared (R405). -/
def lsAgree (s : State) : State :=
  match (s.dv 1).pmgmt with
  | none => s
  | some q =>
    if ! s.bit DET_LS.EN 0 || ! dvUp s 1 then s
    else if q.key = s.reg .DET_KEY 0 ∧ q.strict ∧ s.bit DET_CTL.STRICT 0 then s.setBit DET_LS.ACTIVE 0 true
    else detect (eventFree (s.setBit DET_LS.ACTIVE 0 false) (s.fld JNL_CTL.EVQ 0) 0xF022 lsSrc) 21 lsSrc

/-- DET_LS.EN is written 1: the comparison starts with epoch 0. -/
def lsEnable (s : State) : State := lsAgree (s.setLs {})

/-- DET_LS.EN is written 0. -/
def lsDisable (s : State) : State := (s.setLs {}).setBit DET_LS.ACTIVE 0 false

/-- DVORIL_LINK_UP with the exchange of keys on D1. -/
def dvLinkUpKeys (s : State) (p : Nat) (q : DvPartner) : State :=
  let s := dvLinkUp s p q
  if p = 1 then lsAgree s else s

end Sys2Proof.Machine
end

