-- ==== Sys2Proof/Machine/DitchRider.lean ====
section
/-! DEFINITION. The Ditch Rider: detections and reactions, safe state, isolation, watchdogs, self-test,
golden windows, bank fallback, and its own instructions (R409-R435). -/

namespace Sys2Proof.Machine

/-- An event of the Ditch Rider. -/
def drdEvent (s : State) (code detail : Nat) : State := event s (s.fld DRD_CTL.EVQ 0) code drdSrc detail

/-! ## Safe state (R387, R429-R431) -/

/-- Safe state is entered for a cause; the first cause is kept (R414, R429). -/
def enterSafe (s : State) (k src : Nat) : State :=
  if s.drd.latched then s
  else
    let s := { s with drd := { s.drd with latched := true, hb := false } }
    let s := (s.setBit DRD_SAFE.STATE 0 true).setBit DRD_SAFE.OKNOW 0 false
    let s := (s.setFld DRD_SAFE.CLASS 0 k).setFld DRD_SAFE.SRC 0 src
    let s := s.setFld DRD_SAFE.STAMP 0 s.stamp
    let s := forL (upFrom 0 8) (fun c s => canSafe s c) (servoEnterSafe s)
    drdEvent s 0xA001 (k + src * 2 ^ 8)

/-- Every row of the start-up injection has run and passed (R425, R431). -/
def injectionPassed (s : State) : Bool :=
  s.boot.injDone && s.bit DRD_INJ.ALL 0 && decide (s.fld DRD_INJ.ROWS 0 = 0x3FF)

/-- The post-reset safe state may end: every row has passed, the module is READY (R464), the firmware has armed, and
no replay runs (R425, R431). -/
def mayLeaveSafe (s : State) : Bool :=
  ! s.drd.latched && injectionPassed s && s.bit SEC_BOOT.READY 0 && s.bit DRD_CTL.ARM 0 && ! replaying s

/-- SAFE_OK is active (R400, R431). -/
def safeOk (s : State) : Bool := ! inSafe s && ! replaying s

/-- SAFE_OK follows its conditions (R431): the post-reset safe state ends; OKNOW shows SAFE_OK; SAFE_HB rests while it
is inactive. -/
def syncSafe (s : State) : State :=
  let s := if mayLeaveSafe s && inSafe s then s.setBit DRD_SAFE.STATE 0 false else s
  let s := if s.bit DRD_SAFE.OKNOW 0 == safeOk s then s else s.setBit DRD_SAFE.OKNOW 0 (safeOk s)
  if s.drd.hb && ! safeOk s then { s with drd := { s.drd with hb := false } } else s

/-- SAFE_HEARTBEAT: SAFE_HB toggles while SAFE_OK is active (R431). -/
def heartbeat (s : State) : State :=
  if s.bit DRD_SAFE.OKNOW 0 then { s with drd := { s.drd with hb := ! s.drd.hb } } else s

/-! ## Isolation (R432, R435) -/

/-- Marks a unit isolated. -/
def isoMark (s : State) (sid : Nat) : State :=
  { s with drd := { s.drd with iso := if s.drd.iso.contains sid then s.drd.iso else s.drd.iso ++ [sid] } }

/-- An isolated engine: as ABORT, and FAILED. -/
def isoEngine (s : State) (e : Nat) : State :=
  isoMark (engineStop ((abortEngineVerbs s e).setBit FE_CTL.EN e false) e 3) e

/-- An isolated cluster, or the shared units of one. -/
def isoCluster (s : State) (c : Nat) : State :=
  let s := walkerCancel s c
  isoMark (forL (upFrom (16 * c) 16) (fun e s => isoEngine s e) s) (0x100 + c)

/-- The lane that leads the gang of a lane. -/
def gangLead (s : State) (l : Nat) : Nat :=
  match (upFrom 0 (l + 1)).find? fun k => decide (l < k + gangSize s k) && ! isMember s k with
  | some k => k
  | none => l

/-- An isolated lane: its problems end LANE_FAILED, and its gang fails whole. -/
def isoLane (s : State) (l : Nat) : State :=
  let lead := gangLead s l
  let s := dropRun s lead
  let s := match (s.lane lead).prob with
    | some p =>
      let s := writeHeader s lead p { code := 8 } false [0, 0, 0, 0]
      closeProblem (modLane s lead fun x => { x with prob := none }) lead p 8
    | none => s
  let s := laneRestart (flushFifo s lead 8) lead
  forL (upFrom lead (gangSize s lead)) (fun m s =>
    let s := (s.setFld SLV_LANE_STAT.STATE m 3).setBit SLV_LANE_CTL.EN m false
    isoMark (s.modCore (laneCore m) fun k => { k with stream := [], waiting := false, gated := false })
      (laneSrc m)) s

/-- Bank fallback may begin: HBM is reserved, and no bank uses it yet. -/
def fallbackFree (s : State) : Bool :=
  decide (s.fld CST_BANKFB.BASE 0 ≠ 0) && decide (s.fld CST_BANKFB.STATE 0 = 0)

/-- Isolates a unit; none when no row of R432 covers it. -/
def isolate (s : State) (sid : Nat) : Option State :=
  let done := fun s => drdEvent s 0xA004 sid
  if sid < 0x100 then some (done (isoEngine s sid))
  else if sid < 0x110 then some (done (isoCluster s (sid - 0x100)))
  else if 0x2200 ≤ sid ∧ sid < 0x2280 then
    let b := sid - 0x2200
    if ¬ fallbackFree s ∧ ¬ (s.fld CST_BANKFB.STATE 0 ≠ 0 ∧ s.fld CST_BANKFB.BANK 0 = b) then
      some (detect s 11 sid)
    else if s.fld CST_BANKFB.STATE 0 ≠ 0 then some s
    else some (done (isoMark ((s.setFld CST_BANKFB.BANK 0 b).setFld CST_BANKFB.STATE 0 1) sid))
  else if 0x5000 ≤ sid ∧ sid < 0x5040 then some (done (isoLane s (sid - 0x5000)))
  else none

/-- A write of DRD_ISO by the Ditch Rider. -/
def isoWrite (s : State) (sid : Nat) : State := (isolate s sid).getD s

/-- Line `a` of the fallback bank has this place in its HBM region (R435). -/
def fallbackAt (base a : Nat) : Nat := base + (a - cisternBase) / 2 ^ 14 * 128 + a % 128

/-- An address is a Cistern address of bank b. -/
def inBank (b a : Nat) : Bool := decide (cisternBase ≤ a) && decide (a < 0x4040000000) && decide (bankOf a = b)

/-- BANK_FALLBACK_COPY_DONE: every line of the bank is in the region, a line that could not be corrected
poisoned, and the region serves the bank (R435). -/
def fallbackDone (s : State) : State :=
  if s.fld CST_BANKFB.STATE 0 ≠ 1 then s
  else
    let b := s.fld CST_BANKFB.BANK 0
    let base := s.fld CST_BANKFB.BASE 0
    let cells := s.mem.filter fun x => inBank b x.1
    let marks := s.marks.filter fun w => inBank b (8 * w)
    let bad := (s.latent.filter fun x => x.2 && inBank b x.1).map Prod.fst
    let top := base + 2 ^ 23 - 1
    let s := s.upd (.clear base top)
    let s := forL cells (fun x s => s.upd (.byte (fallbackAt base x.1) x.2)) s
    let s := forL marks (fun w s => s.upd (.mark (fallbackAt base (8 * w) / 8) true)) s
    let s := forL bad (fun a s => markWord s (fallbackAt base (a / 128 * 128)) 128) s
    let left := s.latent.filter fun x => ! inBank b x.1 && (decide (x.1 < base) || decide (top < x.1))
    { s with latent := left }.setFld CST_BANKFB.STATE 0 2

/-! ## Detections and reactions (R413, R414) -/

/-- An inbox record in the format of an event record (R411). -/
def inboxEvent (s : State) (code detail : Nat) : State :=
  inboxPut s (w64 (s.stamp + drdSrc * 2 ^ 32 + code * 2 ^ 48)) (w64 detail)

/-- One detection takes its counted reaction. -/
def handleDetection (s : State) (k src : Nat) : State :=
  if 26 ≤ k then s
  else
    let s := (s.satAdd DRD_REACT.TOTAL k 1).satAdd DRD_REACT.COUNT k 1
    let full := decide (s.fld DRD_REACT.THRESH k ≤ s.fld DRD_REACT.COUNT k)
    let set := s.fld DRD_REACT.REACT k
    let r := if set = 0 then 0 else if full then set else 1
    if r = 0 then s
    else
      let d := k + src * 2 ^ 8
      let s := inboxEvent (drdEvent s 0xA003 d) 0xA003 d
      if r = 2 then
        match isolate s src with
        | some s => s
        | none => enterSafe s k src
      else if r = 3 then enterSafe s k src else s

/-- A detection comes before another: ascending class, then ascending source id. -/
def detBefore (a b : Nat × Nat) : Bool := decide (a.1 < b.1) || (decide (a.1 = b.1) && decide (a.2 ≤ b.2))

/-- The first detection of a list in the order of R414. -/
def firstDet : List (Nat × Nat) → Option (Nat × Nat)
  | [] => none
  | a :: r => match firstDet r with
    | none => some a
    | some b => if detBefore a b then some a else some b

/-- Handles the detections of a command, and those that handling them raises. -/
def handleRaised : Nat → State → State
  | 0, s => s
  | n + 1, s => match firstDet s.raised with
    | none => s
    | some d => handleRaised n (handleDetection { s with raised := s.raised.erase d } d.1 d.2)

/-- Every LEAK ms a class's COUNT loses 1; LEAK 0 is never. -/
def detectionLeak (s : State) (k : Nat) : State :=
  if s.fld DRD_REACT.LEAK k = 0 then s else s.setFld DRD_REACT.COUNT k (s.fld DRD_REACT.COUNT k - 1)

/-! ## The firmware watchdog and lock step (R409, R412) -/

/-- `dpet` retires. -/
def fwPet (s : State) : State := { s with drd := { s.drd with fwRun := true } }

/-- FW_WATCHDOG_EXPIRE. -/
def fwExpire (s : State) : State :=
  if s.drd.fwRun then detect { s with drd := { s.drd with fwRun := false } } 1 drdSrc else s

/-! ## Window watchdogs (R419, R420) -/

/-- EN = 1 breaks the ranges of a watchdog. -/
def wdBad (w : Word) : Bool :=
  let lo := bitsOf w 30 1
  let hi := bitsOf w 63 32
  (decide (lo ≠ 0) && (decide (lo < 1000) || decide (999999999 < lo))) || decide (hi < 1000) ||
    decide (1000000000 < hi) || decide (hi ≤ lo)

/-- A check-in opens or continues a window. -/
def wdOpen (s : State) (w src : Nat) : State :=
  ((s.setFld DRD_WD1.LAST w s.stamp).setFld DRD_WD1.SRC w src).setBit DRD_WD1.RUN w true

/-- The compact stamps since the last check-in. -/
def wdSince (s : State) (w : Nat) : Nat := (s.stamp + 2 ^ 32 - s.fld DRD_WD1.LAST w) % 2 ^ 32

/-- The window closes without a check-in. -/
def wdMiss (s : State) (w : Nat) : State :=
  detect ((s.setBit DRD_WD1.RUN w false).satAdd DRD_WD1.MISSES w 1) 2 drdSrc

/-- A check-in reaches island 32. -/
def checkIn (s : State) (w src : Nat) : State :=
  if ! s.bit DRD_WD0.EN w then s
  else if ! s.bit DRD_WD1.RUN w then wdOpen s w src
  else if s.fld DRD_WD0.MAX w < wdSince s w then wdOpen (wdMiss s w) w src
  else if wdSince s w < s.fld DRD_WD0.MIN w then detect (s.setBit DRD_WD1.RUN w false) 2 drdSrc
  else wdOpen s w src

/-- WATCHDOG_MISS: t + MAX has been reached without a check-in. -/
def watchdogMiss (s : State) (w : Nat) : State :=
  if s.bit DRD_WD0.EN w && s.bit DRD_WD1.RUN w && decide (s.fld DRD_WD0.MAX w ≤ wdSince s w) then wdMiss s w else s

/-! ## Guarded streams: the enable checks and the verdict (R415, R418) -/

/-- A write of EN = 1 to a stream is refused (R415). -/
def gsBad (s : State) (i : Nat) (v : Word) : Bool :=
  let kind := bitsOf v 2 1
  let unit := bitsOf v 5 3
  let mbx := bitsOf v 12 6
  let len := if kind = 1 then idLen (s.reg .CB_MBX_ID (mbxAt unit mbx)) else if kind = 2 then 114 else 0
  let used := fun f => (gsField s i f).getLsbD 9 || (decide (f = 0) && v.getLsbD 20)
  let beyond := fun f =>
    decide (len < bitsOf (gsField s i f) 5 0 + fieldSize (bitsOf (gsField s i f) 7 6))
  let mk := bitsOf (s.reg .DRD_GS5 i) 2 0
  decide (len < bitsOf v 18 13 + 4) ||
  ((upFrom 0 2).any fun f => used f && beyond f) ||
  ((upFrom 0 64).any fun j => decide (j ≠ i) && s.bit DRD_GS0.EN j && decide (s.fld DRD_GS0.KIND j = kind) &&
    decide (s.fld DRD_GS0.UNIT j = unit) && decide (s.fld DRD_GS0.MBX j = mbx)) ||
  (decide (kind = 1) && decide (s.fld CB_SAFE.MBX unit = mbx)) ||
  (v.getLsbD 20 && ! (decide (1 ≤ mk) && decide (mk ≤ 3)))

/-- The frame of a stream that waits in its launch buffer takes the seal of a result. -/
def sealWaiting (s : State) (i result : Nat) : State :=
  let u := s.fld DRD_GS0.UNIT i
  let m := s.fld DRD_GS0.MBX i
  if s.fld DRD_GS0.KIND i = 1 then
    match (s.mbxSt u m).launch with
    | some b => countSeal (s.setMbx u m { s.mbxSt u m with launch := some { b with data := sealed s i b.data result } })
        i result
    | none => s
  else
    match s.ethSlot u m with
    | some b =>
      let h := slotHdr s u m
      countSeal (setSlotBuf s u m (some { b with data := b.data.take h ++ sealed s i (b.data.drop h) result }))
        i result
    | none => s

/-- A verdict for a ticket: the seal is written, or the verdict is stale (R410, R416, R418). -/
def verdict (s : State) (ticket : Nat) (plausible : Bool) : State :=
  match (upFrom 0 64).find? fun i => (s.sealSt i).ticket == some ticket with
  | none => s.satAdd DRD_STAT.STALEV 0 1
  | some i =>
    let x := s.sealSt i
    let r := if inSafe s then 7 else if x.hw = 0 ∧ ¬ plausible then 5 else x.hw
    sealWaiting (s.setSeal i { x with ticket := none }) i r

/-! ## The Ditch Rider's instructions (R410) -/

/-- `dnext gd`. -/
def dnextEff (x : Ctx) (s : State) (gd : BitVec 5) : Res :=
  if s.drd.rd = s.drd.wr then .error .wait
  else
    let a := 0x3F000 + 16 * (s.drd.rd % 256)
    let s := { s with drd := { s.drd with rd := s.drd.rd + 1 } }
    let s := s.setFld DRD_STAT.WAITING 0 (min 255 (s.drd.wr - s.drd.rd))
    .ok (s.modCore x.c fun k => k.writeG gd ⟨w64 a, false⟩)

/-- `dverd ga,gb`. -/
def dverdEff (x : Ctx) (s : State) (ga gb : BitVec 5) : Res :=
  .ok (verdict s (bitsOf (x.b.readG ga).v 15 0) ((x.b.readG gb).v.getLsbD 0))

/-- `dflag ga,gb`. -/
def dflagEff (x : Ctx) (s : State) (ga gb : BitVec 5) : Res :=
  .ok (detect s (bitsOf (x.b.readG ga).v 7 0) (bitsOf (x.b.readG gb).v 15 0))

/-! ## Start-up injection (R425) -/

/-- STARTUP_INJECTION: the rows run once after a cold or warm start; every failing row is reported. -/
def startupInjection (s : State) (rows : BitVec 10) : State :=
  if s.boot.injDone then s
  else
    let s := { s with boot := { s.boot with injDone := true } }
    let s := (s.setFld DRD_INJ.ROWS 0 rows.toNat).setBit DRD_INJ.ALL 0 true
    forL (upFrom 0 10) (fun r s => if rows.getLsbD r then s else detect (drdEvent s 0xA002 r) 25 drdSrc) s

/-! ## Periodic self-test (R426, R427) -/

/-- The slices of a pass over a target; none when the source id names no target. -/
def sliceCount (sid : Nat) : Option Nat :=
  if sid < 0x100 then some 12
  else if sid < 0x110 then some 3
  else if sid = 0x1000 ∨ sid = 0x1001 then some 4
  else if 0x5000 ≤ sid ∧ sid < 0x5040 then some 6
  else if sid = 0x6000 then some 4
  else none

def State.selfTest (s : State) (sid : Nat) : SelfTest := tget (fun _ => {}) s.drd.tests sid

def State.setTest (s : State) (sid : Nat) (t : SelfTest) : State :=
  { s with drd := { s.drd with tests := tput (fun _ => {}) s.drd.tests sid t } }

/-- A write of DRD_ST_IDLE: [15:0] target, [31:16] length in µs; length 0 revokes. -/
def declareIdle (s : State) (v : Word) : State :=
  let sid := bitsOf v 15 0
  let len := bitsOf v 31 16
  if (sliceCount sid).isNone then s
  else if len = 0 then s.setTest sid { s.selfTest sid with idleEnd := none, running := false }
  else s.setTest sid { s.selfTest sid with idleEnd := some (s.totalNs + 1000 * len) }

/-- Nanoseconds since safety-task window k last began, and until it next begins; PER 0 gives one window. -/
def windowPhase (s : State) (k : Nat) : Int × Option Int :=
  let d := stampDiff (s.fld DRD_SW0.START k) s.stamp
  let per := s.fld DRD_SW0.PER k
  if per = 0 then (d, if d < 0 then some (-d) else none) else (d % per, some (per - d % per))

/-- A slice may not run now because a safety-task window is open. -/
def inWindowNow (s : State) : Bool := (upFrom 0 16).any fun k =>
  s.bit DRD_SW1.EN k && decide (0 ≤ (windowPhase s k).1) && decide ((windowPhase s k).1 < s.fld DRD_SW1.LEN k)

/-- A safety-task window begins within 20 µs. -/
def windowSoon (s : State) : Bool := (upFrom 0 16).any fun k =>
  s.bit DRD_SW1.EN k && match (windowPhase s k).2 with
    | some d => decide (d ≤ 20000)
    | none => false

/-- SELFTEST_SLICE_START. -/
def sliceStart (s : State) (sid : Nat) : State :=
  let t := s.selfTest sid
  match sliceCount sid, t.idleEnd with
  | some _, some e =>
    if t.running || inWindowNow s || windowSoon s || decide (e ≤ s.totalNs + 20000) then s
    else s.setTest sid { t with running := true }
  | _, _ => s

/-- SELFTEST_SLICE_DONE: a pass is complete after its last slice; a failing slice is a detection. -/
def sliceDone (s : State) (sid : Nat) (ok : Bool) : State :=
  let t := s.selfTest sid
  match sliceCount sid with
  | none => s
  | some n =>
    if ! t.running then s
    else if ! ok then detect (s.setTest sid { t with running := false }) 14 sid
    else if t.passed + 1 = n then s.setTest sid { t with running := false, passed := 0, since := s.totalNs }
    else s.setTest sid { t with running := false, passed := t.passed + 1 }

/-- SELFTEST_SLICE_ABORT: the idle window has ended or a safety-task window is open. -/
def sliceAbort (s : State) (sid : Nat) : State :=
  let t := s.selfTest sid
  let done := match t.idleEnd with
    | some e => decide (e ≤ s.totalNs)
    | none => true
  if t.running && (done || inWindowNow s) then s.setTest sid { t with running := false } else s

/-- SELFTEST_STARVED: STDL ms have passed since the last pass or report of the target. -/
def selftestStarved (s : State) (sid : Nat) : State :=
  let t := s.selfTest sid
  let span := s.fld DRD_ST_CTL.STDL 0 * 1000000
  if (sliceCount sid).isNone || decide (s.totalNs < t.since + span) then s
  else detect (eventFree (s.setTest sid { t with since := t.since + span }) (s.fld DRD_CTL.EVQ 0) 0xA005 drdSrc) 15 sid

/-! ## Golden frames (R428) -/

/-- Compact stamp of the end of the present golden window. -/
def goldenEnd (s : State) : Nat :=
  s.fld DRD_GOLD_GSTART.GSTART 0 + (s.drd.golden + 1) * s.fld DRD_GOLD_GWIN.GWIN 0

/-- GOLDEN_URGENT: the latest start of the window is reached without PASS. -/
def goldenUrgent (s : State) : State :=
  let t := goldenEnd s - s.fld DRD_GOLD_BUD.BUD 0 * s.fld DRD_GOLD_GWIN.GWIN 0 / 1000
  if s.reached (t % 2 ^ 32) && ! s.bit DRD_GOLD_PASS.PASS 0 then s.setBit DRD_GOLD_URGENT.URGENT 0 true else s

/-- GOLDEN_WINDOW_END: a window that ends without PASS is a detection of class 17. -/
def goldenWindowEnd (s : State) : State :=
  if ! s.reached (goldenEnd s % 2 ^ 32) then s
  else
    let s := if s.bit DRD_GOLD_PASS.PASS 0 then s else detect s 17 drdSrc
    let s := { s with drd := { s.drd with golden := s.drd.golden + 1 } }
    (s.setBit DRD_GOLD_PASS.PASS 0 false).setBit DRD_GOLD_URGENT.URGENT 0 false

/-- A write of PASS or of the window's place: URGENT ends; a new place begins with window 0. -/
def goldenMoved (s : State) : State := { s with drd := { s.drd with golden := 0 } }

end Sys2Proof.Machine
end

