-- ==== Sys2Proof/Machine/Integrity.lean ====
section
/-! DEFINITION. Scrub passes and the leaks of the error buckets (R442, R443, R449-R452). -/

namespace Sys2Proof.Machine

/-! ## Buckets -/

/-- ECC_BUCKET_LEAK: every LEAK ms LEVEL loses 1, and for a quadrant so do its banks' counts. -/
def bucketLeak (s : State) (b : BucketId) : State :=
  match b with
  | .cistern q =>
    let q := q.val
    if s.fld CST_ECC_BKT.LEAK q = 0 then s
    else
      let s := s.setFld CST_ECC_BKT.LEVEL q (s.fld CST_ECC_BKT.LEVEL q - 1)
      forL (upFrom (32 * q) 32) (fun b s =>
        { s with bankUE := tput (fun _ => 0) s.bankUE b (tget (fun _ => 0) s.bankUE b - 1) }) s
  | .hbm k =>
    if s.fld HBM_ECC_BKT.LEAK k.val = 0 then s
    else s.setFld HBM_ECC_BKT.LEVEL k.val (s.fld HBM_ECC_BKT.LEVEL k.val - 1)

/-! ## Scrub passes -/

/-- The registers of a scrub pass. -/
structure ScrubRegs where
  busy   : Fld
  evt    : Fld
  evq    : Fld
  status : Fld
  base   : Fld
  len    : Fld
  prog   : Fld
  corr   : Fld
  uncorr : Fld
  first  : Fld
  last   : Fld
  dur    : Fld
  psn    : Fld

def scrubRegs : ScrubId → ScrubRegs
  | .cistern => ⟨CST_SCRUB_CTL.BUSY, CST_SCRUB_CTL.EVT, CST_SCRUB_CTL.EVQ, CST_SCRUB_CTL.STATUS,
      CST_SCRUB_BASE.BASE, CST_SCRUB_LEN.LEN, CST_SCRUB_PROG.PROG, CST_SCRUB_CNT.CORR, CST_SCRUB_CNT.UNCORR,
      CST_SCRUB_FIRST.ADDR, CST_SCRUB_LAST.ADDR, CST_SCRUB_DUR.DUR, CST_SCRUB_DUR.PSN⟩
  | .hbm => ⟨HBM_SCRUB_CTL.BUSY, HBM_SCRUB_CTL.EVT, HBM_SCRUB_CTL.EVQ, HBM_SCRUB_CTL.STATUS,
      HBM_SCRUB_BASE.BASE, HBM_SCRUB_LEN.LEN, HBM_SCRUB_PROG.PROG, HBM_SCRUB_CNT.CORR, HBM_SCRUB_CNT.UNCORR,
      HBM_SCRUB_FIRST.ADDR, HBM_SCRUB_LAST.ADDR, HBM_SCRUB_DUR.DUR, HBM_SCRUB_DUR.PSN⟩

/-- Index of a pass: 0 Cistern, 1 HBM. -/
def scrubIdx : ScrubId → Nat
  | .cistern => 0
  | .hbm => 1

/-- The memory a pass visits, its code word, the code of its done event and the source of that event. -/
def scrubRegion : ScrubId → Region
  | .cistern => .cistern
  | .hbm => .hbm

def scrubEvent : ScrubId → Nat × Nat
  | .cistern => (0x2022, 0x2300)
  | .hbm => (0x3003, 0x3000)

/-- The reader of a code word: the quadrant's scrub engine, or the stack's controller (R515). -/
def scrubSrc (h : ScrubId) (a : Nat) : Nat :=
  match h with
  | .cistern => 0x2300 + quadOf a
  | .hbm => 0x3000 + stackOf a

/-- DUR takes the time since the pass began or resumed; 0 in strict mode (R452). -/
def scrubTime (s : State) (h : ScrubId) : State :=
  let r := scrubRegs h
  let us := (s.totalNs - tget (fun _ => 0) s.scrubAt (scrubIdx h)) / 1000
  if s.bit DET_STAT.STRICTNOW 0 then s.setFld r.dur 0 0 else s.satAdd r.dur 0 us

/-- The pass runs from now. -/
def scrubRuns (s : State) (h : ScrubId) : State :=
  let r := scrubRegs h
  let s := (s.setBit r.busy 0 true).setFld r.status 0 0
  { s with scrubAt := tput (fun _ => 0) s.scrubAt (scrubIdx h) s.totalNs }

/-- GO: the pass starts, or is refused (R449). -/
def scrubGo (s : State) (h : ScrubId) : State :=
  let r := scrubRegs h
  let b := s.fld r.base 0
  let n := s.fld r.len 0
  if b % 128 ≠ 0 ∨ n % 128 ≠ 0 ∨ n = 0 ∨ ¬ s.within (scrubRegion h) b n then s.setFld r.status 0 3
  else
    let s := ((s.setFld r.prog 0 b).setFld r.corr 0 0).setFld r.uncorr 0 0
    let s := ((s.setFld r.first 0 0).setFld r.last 0 0).setFld r.dur 0 0
    scrubRuns (s.setFld r.psn 0 0) h

/-- ABORT, and a warm reset: the pass stops at a code-word boundary (R452). -/
def scrubAbort (s : State) (h : ScrubId) : State :=
  let r := scrubRegs h
  if s.bit r.busy 0 then ((scrubTime s h).setBit r.busy 0 false).setFld r.status 0 2 else s

/-- The pass has visited its last code word (R452). -/
def scrubEnd (s : State) (h : ScrubId) : State :=
  let r := scrubRegs h
  let s := ((scrubTime s h).setBit r.busy 0 false).setFld r.status 0 1
  if s.bit r.evt 0 then event s (s.fld r.evq 0) (scrubEvent h).1 (scrubEvent h).2 (s.fld r.uncorr 0) else s

/-- FIRST and LAST take an address counted in CORR or UNCORR. -/
def scrubSeen (s : State) (h : ScrubId) (a : Nat) : State :=
  let r := scrubRegs h
  let fresh := decide (s.fld r.corr 0 + s.fld r.uncorr 0 = 1)
  let s := if fresh || decide (a < s.fld r.first 0) then s.setFld r.first 0 a else s
  if fresh || decide (s.fld r.last 0 < a) then s.setFld r.last 0 a else s

/-- One code word is read, corrected and written back; lines of a bank under fallback are scrubbed in the
fallback region (R450, R451). -/
def scrubWord (s : State) (h : ScrubId) (a : Nat) : State :=
  let r := scrubRegs h
  let n := codeSize (scrubRegion h)
  let at_ := s.home a
  let src := scrubSrc h a
  match s.latent.find? fun l => decide (l.1 < at_ + n) && decide (at_ < l.1 + codeSize (s.region l.1)) with
  | some (w, true) => scrubSeen ((touchRead s src w 1 1).satAdd r.uncorr 0 1) h a
  | some (w, false) =>
    let s := foundError s w false 1 src
    scrubSeen ({ s with latent := s.latent.filter fun l => decide (l ≠ (w, false)) }.satAdd r.corr 0 1) h a
  | none => if s.poisoned a n then s.satAdd r.psn 0 1 else s

/-- A scrub engine has the next cycle of the bank or pseudo-channel of an address: no request is presented there, or, at
a bank, 63 grants have been made since its last cycle (R164, R176). -/
def scrubTurn (s : State) (h : ScrubId) (a : Nat) : Bool :=
  match h with
  | .cistern => ! (s.pend.any fun w => w.bank == bankOf a && w.slot.isSome) ||
      decide (63 ≤ (tget (fun _ => {}) s.banks (bankOf a)).busy)
  | .hbm => (tget (fun _ => {}) s.hbmArb (64 * stackOf a + pchanOf a)).reqs.isEmpty

/-- The scrub engine takes a cycle. -/
def scrubCycle (s : State) (h : ScrubId) (a : Nat) : State :=
  match h with
  | .cistern =>
    let b := tget (fun _ => {}) s.banks (bankOf a)
    { s with banks := tput (fun _ => {}) s.banks (bankOf a) { b with busy := 0 } }
  | .hbm => s

/-- SCRUB_CODE_WORD: the pass in progress visits its next code word when it has a cycle; a Cistern pass pauses while a
bank is being copied (R176, R450-R452). -/
def scrubStep (s : State) (h : ScrubId) : State :=
  let r := scrubRegs h
  if ! s.bit r.busy 0 then s
  else if h = .cistern ∧ s.fld CST_BANKFB.STATE 0 = 1 then s
  else if ! scrubTurn s h (s.fld r.prog 0) then s
  else
    let a := s.fld r.prog 0
    let s := scrubCycle s h a
    let s := (scrubWord s h a).setFld r.prog 0 (a + codeSize (scrubRegion h))
    if s.fld r.base 0 + s.fld r.len 0 ≤ s.fld r.prog 0 then scrubEnd s h else s

/-- A write of a scrub control register is ignored: GO while BUSY, or RESUME while STATUS is not ABORTED
(R449, R452). -/
def scrubIgnored (s : State) (h : ScrubId) (v : Word) : Bool :=
  let r := scrubRegs h
  (v.getLsbD 0 && s.bit r.busy 0) || (v.getLsbD 1 && decide (s.fld r.status 0 ≠ 2))

/-- The effect of a write of a scrub control register. -/
def scrubWritten (s : State) (h : ScrubId) (v : Word) : State :=
  let s := if v.getLsbD 2 then scrubAbort s h else s
  if v.getLsbD 0 then (if v.getLsbD 1 then scrubRuns s h else scrubGo s h) else s

end Sys2Proof.Machine
end

