-- ==== Sys2Proof/Machine/Boot.lean ====
section
/-! DEFINITION. The security island: boot, measurement, identity, attestation, inline decryption, firmware
commit, and the drain of the change log (R461-R475). -/

namespace Sys2Proof.Machine

def bootSrc : Nat := 0xE000
def aesSrc : Nat := 0xE001
def fwcSrc : Nat := 0xE002
def clgSrc : Nat := 0xE003

def State.setBoot (s : State) (b : BootSt) : State := { s with boot := b }
def State.setSec (s : State) (x : SecSt) : State := { s with sec := x }

/-! ## Measurement (R463) -/

/-- The 32 bytes of a measurement register. -/
def measBytes (s : State) (m : Nat) : List Byte := (upFrom (4 * m) 4).flatMap fun i => leBytes 8 (s.reg .SEC_MEAS i).toNat

/-- M := SHA-256(M ‖ digest). -/
def measure (s : State) (m : Nat) (digest : List Byte) : State :=
  let h := sha256 (measBytes s m ++ digest)
  forL (upFrom 0 4) (fun i s => s.setReg .SEC_MEAS (4 * m + i) (w64 (leNat ((h.drop (8 * i)).take 8)))) s

/-- A write of word w of SEC_EXTEND by function 0. -/
def extendWritten (s : State) (w : Nat) (v : Word) : State :=
  if w < 3 then s.setSec { s.sec with ext := tput (fun _ => 0) s.sec.ext w v }
  else measure s 7 ((((upFrom 0 3).map (tget (fun _ => 0) s.sec.ext)) ++ [v]).flatMap fun (x : Word) => leBytes 8 x.toNat)

/-! ## Boot (R461-R465) -/

/-- A slot's commit record after what the module itself last did to it (R471). -/
def slotView (b : BootSlot) (r : Option (Option Nat)) : BootSlot :=
  match r with
  | none => b
  | some none => { b with crcOk := false }
  | some (some n) => { b with magicOk := true, crcOk := true, seq := BitVec.ofNat 32 n }

/-- A record is valid (R461). -/
def slotValid (b : BootSlot) : Bool := b.magicOk && b.crcOk

/-- A slot is accepted: image digest, manifest, SVN, and every component's digest (R462, R463). -/
def slotAccepted (b : BootSlot) (otp : Nat) : Bool :=
  slotValid b && b.digestOk && b.manifestOk && decide (otp ≤ b.svn.toNat) &&
    b.components.all fun c => sha256 c.bytes == c.digest

/-- ASCII bytes of an order code, padded to 16. -/
def orderBytes (o : OrderCode) : List Byte :=
  let t := match o with
    | .m128I => "CVP16-M128-I"
    | .m128X => "CVP16-M128-X"
    | .m064I => "CVP16-M064-I"
  let l := t.toList.map fun c => BitVec.ofNat 8 c.toNat
  l ++ List.replicate (16 - l.length) 0

/-- The identity record (R465). -/
def identity (b : BootInput) (sl : BootSlot) (slot otp : Nat) : List Byte :=
  orderBytes b.order ++ [0xA1] ++ List.replicate 7 0 ++ leBytes 8 b.serial.toNat ++ leBytes 2 sl.ubuild.toNat ++
    [BitVec.ofNat 8 slot, BitVec.ofNat 8 otp] ++ leBytes 4 sl.seq.toNat ++ List.replicate 24 0 ++
    (b.pubKey.take 32 ++ List.replicate (32 - b.pubKey.length) 0) ++ List.replicate 32 0

/-- Writes the identity record into SEC_ID. -/
def putIdentity (s : State) (l : List Byte) : State :=
  forL (upFrom 0 16) (fun i s => s.setReg .SEC_ID i (w64 (leNat ((l.drop (8 * i)).take 8)))) s

/-- Every byte of a run lies in a memory of the map. -/
def loadable (s : State) (a n : Nat) : Bool :=
  match s.region a with
  | .hbm | .cistern | .basin _ | .edge _ | .lane _ => s.within (s.region a) a n
  | _ => false

/-- Loads a component and extends its measurement register. -/
def loadComponent (s : State) (c : BootComponent) : State :=
  let s := match c.dest with
    | .mem a => if loadable s a.toNat c.bytes.length then performG s bootSrc (atAddr a.toNat c.bytes) fun _ => false else s
    | .ditchRider off => performG s bootSrc (atAddr (drdBase + off.val) (c.bytes.take (0x40000 - off.val))) fun _ => false
    | .inside => s
  measure s c.meas.val c.digest

/-- READY: an image runs and start-up injection has been run; SAFE_OK never precedes it (R464). -/
def syncReady (s : State) : State := s.setBit SEC_BOOT.READY 0 (s.boot.loaded && s.boot.injDone)

/-- The chosen image runs. -/
def runImage (s : State) (b : BootInput) (sl : BootSlot) (slot otp : Nat) : State :=
  let s := measure s 0 b.romDigest
  let s := measure s 0 sl.manifestDigest
  let s := forL sl.components (fun c s => loadComponent s c) s
  let s := putIdentity s (identity b sl slot otp)
  let s := s.setFld DET_KEY.UBUILD 0 sl.ubuild.toNat
  syncReady (s.setBoot { s.boot with loaded := true, slot := slot, seq := sl.seq.toNat, svn := sl.svn.toNat,
                                     debugOn := sl.debugOk })

/-- The boot loader chooses a slot, tries the other when it fails, and stays in recovery when both do
(R462). -/
def bootRun (s : State) (b : BootInput) : State :=
  let otp := max s.boot.otp b.otpSvn.toNat
  let s := { s.setBoot { s.boot with last := some b, otp := otp, waits := false } with part := b.order }
  let sl := fun i => slotView (if i = 0 then b.slotA else b.slotB) (s.boot.recs.getD i none)
  let first := if slotValid (sl 0) && (! slotValid (sl 1) || decide ((sl 1).seq.toNat ≤ (sl 0).seq.toNat)) then 0 else 1
  if ! slotValid (sl 0) && ! slotValid (sl 1) then (measure s 0 b.romDigest).setBit SEC_BOOT.RECOVERY 0 true
  else if slotAccepted (sl first) otp then runImage s b (sl first) first otp
  else
    let s := s.setBit SEC_BOOT.FALLBACK 0 true
    if slotAccepted (sl (1 - first)) otp then runImage s b (sl (1 - first)) (1 - first) otp
    else (measure s 0 b.romDigest).setBit SEC_BOOT.RECOVERY 0 true

/-- The plate temperatures of a grade (R496). -/
def plateIn (o : OrderCode) (tcp : Int) : Bool :=
  match o with
  | .m128X => decide (-40 ≤ tcp) && decide (tcp ≤ 65)
  | _ => decide (-20 ≤ tcp) && decide (tcp ≤ 55)

/-- A temperature as WTM_THERM holds it. -/
def tempBits (t : Int) : Nat := (BitVec.ofInt 8 t).toNat

/-- The boot ROM reads the cold plate and boots once it is in range (R502). -/
def bootAt (s : State) (tcp : Int) (b : BootInput) : State :=
  let s := s.setFld WTM_THERM.TCP 0 (tempBits tcp)
  if plateIn b.order tcp then bootRun s b
  else { s.setBoot { s.boot with waits := true, last := some b } with part := b.order }

/-- SVNLOCK raises the OTP SVN to the running image's (R462). -/
def svnLock (s : State) : State :=
  if ! s.boot.loaded then s
  else
    let n := max s.boot.otp s.boot.svn
    let s := s.setBoot { s.boot with otp := n }
    s.setReg .SEC_ID 4 (putBits (s.reg .SEC_ID 4) 31 24 n)

/-! ## Attestation (R466, R467) -/

/-- The 480 bytes that a report signs. -/
def reportBody (s : State) : List Byte :=
  let regs := fun (r : RegName) n => (upFrom 0 n).flatMap fun i => leBytes 8 (s.reg r i).toNat
  regs .SEC_ATT_NONCE 4 ++ regs .SEC_ID 16 ++ regs .SEC_MEAS 32 ++ regs .CLG_HEAD 4 ++ regs .CLG_SEQ 1 ++
    regs .DET_KEY 1 ++ leBytes 8 s.tb.sec ++ leBytes 8 s.tb.ns

/-- GO: the report is begun, over the module as it stands, or ends in error. -/
def attGo (s : State) : State :=
  let a := s.fld SEC_ATT.ADDR 0
  if a % 64 ≠ 0 ∨ ¬ s.within .cistern a 17568 then (s.setBit SEC_ATT.DONE 0 true).setBit SEC_ATT.ERR 0 true
  else
    let s := s.setSec { s.sec with report := reportBody s }
    ((s.setBit SEC_ATT.BUSY 0 true).setBit SEC_ATT.DONE 0 false).setBit SEC_ATT.ERR 0 false

/-- ATTEST_DONE: the signed report is in place. -/
def attDone (s : State) : State :=
  if ! s.bit SEC_ATT.BUSY 0 then s
  else
    let body := s.sec.report
    let key := leNat ((upFrom 8 4).flatMap fun i => leBytes 8 (s.reg .SEC_ID i).toNat)
    let sig := Config.slhSign key body
    let s := performG s bootSrc (atAddr (s.fld SEC_ATT.ADDR 0) (body ++ (upFrom 0 17088).map fun i => sig.getD i 0))
      fun _ => false
    let s := (s.setBit SEC_ATT.BUSY 0 false).setBit SEC_ATT.DONE 0 true
    if s.bit SEC_ATT_GATE.GEN 0 then signalHandle s bootSrc (w64 (s.fld SEC_ATT_GATE.GATE 0)) 1 else s

/-! ## Inline decryption (R468-R470) -/

/-- Address of descriptor i of the ring. -/
def aesEntry (s : State) (i : Nat) : Nat := s.fld SEC_AES_RING.BASE 0 / 64 * 64 + 64 * (i % 16)

/-- CODE of a descriptor. -/
def aesCode (s : State) (i code : Nat) : State :=
  performG s aesSrc [(aesEntry s i + 44, BitVec.ofNat 8 code)] fun _ => false

def AesJob.w (j : AesJob) (i : Nat) : Word := j.words.getD i 0
def AesJob.src (j : AesJob) : Nat := bitsOf (j.w 0) 39 0
def AesJob.dst (j : AesJob) : Nat := bitsOf (j.w 1) 39 0
def AesJob.len (j : AesJob) : Nat := (j.w 2).toNat

def AesJob.schedule (j : AesJob) : List (List Nat) := keySchedule (j.key.flatMap fun k => (leBytes 8 k.toNat).map BitVec.toNat)
def AesJob.iv (j : AesJob) : List Nat := (leBytes 8 (j.w 4).toNat ++ leBytes 4 (bitsOf (j.w 5) 31 0)).map BitVec.toNat

/-- Bytes of the piece at hand: the staging region holds 4 MiB. -/
def AesJob.piece (j : AesJob) : Nat := min (j.len - j.pos) (2 ^ 22)

/-- The job at its next piece, or with none left. -/
def AesJob.atPiece (j : AesJob) : AesJob := { j with phase := if j.pos < j.len ∧ ¬ j.bad then 0 else 4 }

/-- The staging region. -/
def aesStg (s : State) : Nat := s.fld SEC_AES_STG.BASE 0

def State.setAes (s : State) (j : AesJob) : State := s.setSec { s.sec with aes := some j }

/-- A job is refused: its ranges, its length, its key slot or the staging region do not serve it. -/
def aesBad (s : State) (j : AesJob) : Bool :=
  let k := bitsOf (j.w 3) 2 0
  let run := fun r a => decide (j.len = 0) || s.within r a j.len
  let stg := s.fld SEC_AES_STG.BASE 0
  ! s.sec.keyed.contains k || decide (j.len % 128 ≠ 0) || decide (2 ^ 34 < j.len) ||
    ! (run .hbm j.src || run .outbound j.src) || ! run .hbm j.dst ||
    decide (stg % 2 ^ 22 ≠ 0) || ! s.within .cistern stg (2 ^ 22)

/-- Takes jobs from the ring while none runs; refused ones end at once. `fuel` bounds the ring. -/
def aesTake : Nat → State → State
  | 0, s => s
  | n + 1, s =>
    let h := s.fld SEC_AES_RING.HEAD 0 % 16
    if s.sec.aes.isSome || ! s.bit SEC_AES_RING.EN 0 || decide (h = s.fld SEC_AES_RING.TAIL 0 % 16) then s
    else
      let ws := s.words (aesEntry s h) 8
      let k := bitsOf (ws.getD 3 0) 2 0
      let j : AesJob := { idx := h, words := ws, key := (upFrom (4 * k) 4).map (tget (fun _ => 0) s.sec.keys) }
      let s := s.setFld SEC_AES_RING.HEAD 0 ((h + 1) % 16)
      if aesBad s j then aesTake n (aesCode s h 3) else s.setAes j.atPiece

/-- DST is rewritten as zeros with every mark set, over its first n bytes. -/
def aesSpoil (s : State) (j : AesJob) (n : Nat) : State :=
  performG s aesSrc (atAddr j.dst (List.replicate n 0)) fun _ => true

/-- The gate signal of a job, before its CODE. -/
def aesSignal (s : State) (j : AesJob) : State :=
  if (j.w 3).getLsbD 29 then signalHandle s aesSrc (w64 (bitsOf (j.w 3) 28 8)) 1 else s

/-- The ring mover that copies the piece at hand: hub mover 7 out of host memory, else the quadrant mover of the
staging region (R166, R468). -/
def aesMover (s : State) (j : AesJob) : Fin 12 :=
  if j.phase = 0 ∧ s.region j.src = .outbound then 11 else Fin.ofNat 12 (quadOf (aesStg s))

/-- Hands over the copy of the piece at hand, into the staging region or into DST. -/
def aesHand (s : State) (j : AesJob) : State :=
  let run := if j.phase = 0 then (j.src + j.pos, aesStg s) else (aesStg s, j.dst + j.pos)
  let tag := s.sec.aesTag
  let d := buildDesc (.unit aesSrc tag) false 0 0 aesSrc (tag % 2 ^ 32) (flatNoun run.1 j.piece) (flatNoun run.2 j.piece)
  let m : MoverId := .ring (aesMover s j)
  let k := s.mover m
  let s := s.setMover m { k with handoff := k.handoff ++ [d] }
  s.setSec { s.sec with aes := some { j with phase := j.phase + 1, tag := tag }, aesTag := tag + 1 }

/-- The piece in the staging region is decrypted in place; a poisoned word of it fails the job. -/
def aesDecrypt (s : State) (j : AesJob) : State :=
  let s := touchRead s aesSrc (aesStg s) j.piece 0
  if s.poisoned (aesStg s) j.piece then s.setAes { j with bad := true, phase := 4 }
  else
    let c := (s.bytes (aesStg s) j.piece).map BitVec.toNat
    let s := performG s aesSrc (atAddr (aesStg s) ((gcmPiece j.schedule j.iv j.pos c).map (BitVec.ofNat 8))) fun _ => false
    s.setAes { j with hash := ghashRun (gcmKey j.schedule) j.hash c, phase := 2 }

/-- The unit rests: no job, or one that awaits its mover or its end. -/
def aesRests (s : State) : Bool :=
  match s.sec.aes with
  | none => true
  | some j => decide (4 ≤ j.phase) || (decide (j.phase % 2 = 1) && ! s.unitDone.any fun d => d.1 == aesSrc)

/-- The unit goes on with its job: it hands over the copy of a piece once its mover has room, and learns of the end of
a copy from CODE; one that its mover refuses or aborts fails the job (R166; assumption log 37). -/
def aesPump (s : State) : State :=
  match s.sec.aes with
  | none => s
  | some j =>
    if 4 ≤ j.phase then s
    else if j.phase % 2 = 0 then
      if 32 ≤ (s.mover (.ring (aesMover s j))).handoff.length then s else aesHand s j
    else match s.unitDone.find? fun d => d.1 == aesSrc && d.2.1 == j.tag with
      | none => s
      | some d =>
        let s := { s with unitDone := s.unitDone.filter fun d => d.1 != aesSrc }
        if 2 < d.2.2 then s.setAes { j with bad := true, phase := 4 }
        else if j.phase = 1 then aesDecrypt s j
        else s.setAes (AesJob.atPiece { j with pos := j.pos + j.piece })

/-- The tag of the ciphertext is the descriptor's. -/
def aesMatches (j : AesJob) : Bool :=
  gcmTag j.schedule j.iv j.hash j.len == (leBytes 8 (j.w 6).toNat ++ leBytes 8 (j.w 7).toNat).map BitVec.toNat

/-- AES_JOB_COMPLETE of the job of ring index idx: with no piece left it ends DONE, or AUTHFAIL on a tag mismatch, a
poisoned ciphertext word or a copy that failed. An event of another job, or of an outcome that the job does not have,
changes nothing (assumption log 2). -/
def aesComplete (idx : Nat) (ok : Bool) (s : State) : State :=
  match s.sec.aes with
  | none => s
  | some j =>
    if j.phase < 4 ∨ j.idx ≠ idx ∨ (aesMatches j && ! j.bad) ≠ ok then s
    else
      let s := s.setSec { s.sec with aes := none }
      let s := if ok then aesCode (aesSignal s j) j.idx 1
        else event (aesCode (aesSignal (aesSpoil s j j.len) j) j.idx 2) 0 0xE010 aesSrc j.idx
      aesTake 16 s

/-- ABORT, and a reset: what has been written of DST becomes zero and poisoned, of the piece being copied into it as far
as the mover had come (R487, R488). -/
def aesAbort (s : State) : State :=
  let s := match s.sec.aes with
    | none => s
    | some j =>
      let s := forL [0, 1, 2, 3, 11] (dropUnit aesSrc) { s with unitDone := s.unitDone.filter fun d => d.1 != aesSrc }
      let n := if j.phase = 3 then s.free.toNat % (j.piece / 128 + 1) * 128 else 0
      aesCode (aesSpoil (s.useFree.setSec { s.sec with aes := none }) j (j.pos + n)) j.idx 4
  s.setBit SEC_AES_RING.EN 0 false

/-- The unit is DRAINING: EN is 0 and its job runs. -/
def aesDraining (s : State) : Bool := ! s.bit SEC_AES_RING.EN 0 && s.sec.aes.isSome

/-- A write of word w of key k. -/
def keyWritten (s : State) (k w : Nat) (v : Word) : State :=
  s.setSec { s.sec with
    keys := tput (fun _ => 0) s.sec.keys (4 * k + w) v
    keyed := if s.sec.keyed.contains k then s.sec.keyed else s.sec.keyed ++ [k] }

/-! ## Firmware commit (R471, R472) -/

/-- The commit record of the slot that did not boot. -/
def setRecord (s : State) (r : Option Nat) : State :=
  s.setBoot { s.boot with recs := lmod (fun _ => some r) s.boot.recs (1 - s.boot.slot) }

/-- A commit ends with a CODE. -/
def fwcEnd (s : State) (code : Nat) : State :=
  event ((s.setBit SEC_FWC_CTL.BUSY 0 false).setFld SEC_FWC_CTL.CODE 0 code) 0 0xE011 fwcSrc code

/-- GO by function 0. -/
def fwcGo (s : State) : State := (s.setBit SEC_FWC_CTL.BUSY 0 true).setFld SEC_FWC_CTL.CODE 0 0

/-- The image lies in HBM or the Cistern and has at most 64 MiB. -/
def fwcImageOk (s : State) : Bool :=
  let a := s.fld SEC_FWC.ADDR 0
  let n := s.fld SEC_FWC.LEN 0 * 64
  decide (n ≤ 2 ^ 26) && (s.within .hbm a n || s.within .cistern a n)

/-- FW_COMMIT_DONE: whether the manifest and SVN verify, and whether the image reads back. -/
def fwcDone (s : State) (verified readback : Bool) : State :=
  if ! s.bit SEC_FWC_CTL.BUSY 0 then s
  else if ! verified || ! fwcImageOk s then fwcEnd s 2
  else if ! readback then fwcEnd (setRecord s none) 3
  else fwcEnd (setRecord s (some ((s.boot.seq + 1) % 2 ^ 32))) 1

/-- The commit has been cut short: the target's record is erased or torn, unless the commit had not reached
it. -/
def fwcCut (s : State) : State :=
  let gone := s.free.getLsbD 0
  let s := s.useFree
  if gone then setRecord s none else s

/-- ABORT. -/
def fwcAbort (s : State) : State := if s.bit SEC_FWC_CTL.BUSY 0 then fwcEnd (fwcCut s) 4 else s

/-! ## The change log's ring (R475) -/

/-- Entries in the ring. -/
def clgUsed (s : State) : Nat := (s.fld CLG_PTR.WR 0 + 2 ^ 20 - s.fld CLG_PTR.RD 0) % 2 ^ 20

/-- The change-log line staging area (R159). -/
def clgLine : Nat := 0x403F2D8000

/-- Address of ring entry i. -/
def clgAt (s : State) (i : Nat) : Nat := s.fld CLG_RING.BASE 0 + 32 * (i % 2 ^ 20)

/-- The bytes of entries. -/
def clgBytes (es : List ClogEntry) : List Byte := es.flatMap fun e => e.words.flatMap fun w => leBytes 8 w.toNat

/-- In LOSE mode the oldest entries in the ring are lost until n fit. -/
def clgLose (s : State) (n : Nat) : State :=
  let free := 2 ^ 20 - 1 - clgUsed s
  if n ≤ free then s
  else
    let k := n - free
    let first := (s.clog.staged.head?.map ClogEntry.n).getD 0 - clgUsed s
    let told := s.clog.lossTold
    let s := s.setFld CLG_PTR.RD 0 ((s.fld CLG_PTR.RD 0 + k) % 2 ^ 20)
    let s := { s.satAdd CLG_STAT.LOST 0 k with clog := { s.clog with lossTold := true } }
    if told then s else event s (s.fld CLG_CTL.EVQ 0) 0xE020 clgSrc first

/-- Entries that complete the line at WR are gathered in the staging area and handed to the quadrant mover of
that area, when the ring is set up, no line is on its way and, in BLOCK mode, they fit. -/
def clgPump (s : State) : State :=
  let wr := s.fld CLG_PTR.WR 0
  let n := 4 - wr % 4
  let m : Fin 12 := Fin.ofNat 12 (quadOf clgLine)
  let fits := decide (clgUsed s + n ≤ 2 ^ 20 - 1)
  if s.fld CLG_RING.BASE 0 = 0 ∨ s.clog.line ≠ 0 ∨ s.clog.staged.length < n ∨ handFull s (quadOf clgLine) ∨
      (s.bit CLG_CTL.MODE 0 ∧ ¬ fits) then s
  else
    let s := clgLose s n
    let a := clgLine + 32 * (wr % 4)
    let s := performG s clgSrc (atAddr a (clgBytes (s.clog.staged.take n))) fun _ => false
    let tag := s.clog.tag
    let d := buildDesc (.unit clgSrc tag) false 0 (s.fld CLG_CTL.EVQ 0) clgSrc (tag % 2 ^ 32)
      (flatNoun a (32 * n)) (flatNoun (clgAt s wr) (32 * n))
    let k := s.mover (.ring m)
    { s.setMover (.ring m) { k with handoff := k.handoff ++ [d] } with
      clog := { s.clog with line := n, tag := tag + 1 } }

/-- CHANGE_LOG_LINE_PERFORMED: the line's copy has ended; its entries leave staging and WR passes them. A copy
that its mover refused or aborted is made again. -/
def clgPerformed (s : State) : State :=
  let tag := s.clog.tag - 1
  match s.unitDone.find? fun d => d.1 == clgSrc && d.2.1 == tag with
  | none => s
  | some d =>
    let n := s.clog.line
    let s := { s with unitDone := s.unitDone.erase d }
    if n = 0 ∨ 2 < d.2.2 then clgPump { s with clog := { s.clog with line := 0 } }
    else
      let s := s.setFld CLG_PTR.WR 0 ((s.fld CLG_PTR.WR 0 + n) % 2 ^ 20)
      clgPump { s with clog := { s.clog with line := 0, staged := s.clog.staged.drop n } }

/-- A warm reset writes what is staged to the ring, through the line staging area and within the reset, or counts it
(R475, R486; assumption log 38). Answers the entries lost. -/
def clgFlush (s : State) : State × Nat :=
  let es := s.clog.staged
  if s.fld CLG_RING.BASE 0 = 0 then (s, es.length)
  else
    let s := if s.bit CLG_CTL.MODE 0 then s else clgLose s es.length
    let es := es.take (2 ^ 20 - 1 - clgUsed s)
    let s := forL ((upFrom 0 es.length).zip es) (fun p s =>
      let at_ := s.fld CLG_PTR.WR 0 + p.1
      performG s clgSrc (atAddr (clgLine + 32 * (at_ % 4)) (clgBytes [p.2]) ++ atAddr (clgAt s at_) (clgBytes [p.2]))
        fun _ => false) s
    (s.setFld CLG_PTR.WR 0 ((s.fld CLG_PTR.WR 0 + es.length) % 2 ^ 20), s.clog.staged.length - es.length)

/-! ## BLOCK mode (R475) -/

/-- Source classes with reserved staging entries. -/
def reservedClass (src : Nat) : Bool :=
  let c := src / 0x1000
  c == 0xA || c == 0xB || c == 0xE

/-- Staging is full for a source: 64 of the 512 entries are kept for the reserved classes, which use them
first. -/
def clgFull (s : State) (src : Nat) : Bool :=
  let k := (s.clog.staged.filter fun e => reservedClass (bitsOf (e.words.getD 0 0) 43 28)).length
  let shared := s.clog.staged.length - min k 64
  if reservedClass src then decide (64 ≤ k) && decide (448 ≤ shared) else decide (448 ≤ shared)

end Sys2Proof.Machine
end

