-- ==== Sys2Proof/Machine/Power.lean ====
section
/-! DEFINITION. The Watermaster: island clocks, caps, lending, thermal limits; GPIO and module power inputs; the
resets; the ends of drains (R477-R489, R499-R508). -/

namespace Sys2Proof.Machine

/-- Source id of the Watermaster. -/
def wtmSrc : Nat := 0xB000

/-- An event of the Watermaster. -/
def wtmEvent (s : State) (code detail : Nat) : State := event s (s.fld WTM_CTL.EVQ 0) code wtmSrc detail

/-- An event of the Watermaster whose detail no rule gives. -/
def wtmEventF (s : State) (code : Nat) : State := eventFree s (s.fld WTM_CTL.EVQ 0) code wtmSrc

def State.setWtm (s : State) (x : WtmSt) : State := { s with wtm := x }

/-! ## Clock steps (R477-R479) -/

/-- The clock steps of an adjustable island, in units of 50 MHz, and for a cluster the supply of each in units
of 5 mV. -/
def islandSteps (i : Nat) : List (Nat × Option Nat) :=
  if isClusterIsland i then
    [(24, some 120), (32, some 130), (40, some 140), (44, some 145), (46, some 150), (49, some 155), (52, some 160)]
  else (upFrom 8 13).map fun k => (2 * k, none)

/-- The floor clock. -/
def islandFloor (i : Nat) : Nat := if isClusterIsland i then 24 else 16

/-- The next step above a clock. -/
def stepAbove (i n : Nat) : Option Nat := ((islandSteps i).find? fun x => decide (n < x.1)).map Prod.fst

/-- The next step below a clock. -/
def stepBelow (i n : Nat) : Option Nat := ((islandSteps i).reverse.find? fun x => decide (x.1 < n)).map Prod.fst

/-- An island moves to a clock and its supply; the supplies of the fused tables are free values. -/
def setClock (s : State) (i n : Nat) : State :=
  let s := s.setFld WTM_ISL.NOW i n
  match (islandSteps i).find? fun x => decide (x.1 = n) with
  | some (_, some v) => s.setFld WTM_ISL.VOLT i v
  | _ => (s.setFld WTM_ISL.VOLT i (s.free.toNat % 256)).useFree

/-- One step down, at most to the floor. -/
def stepDown (s : State) (i : Nat) : State :=
  if ! isAdjustable i then s
  else match stepBelow i (s.fld WTM_ISL.NOW i) with
    | some n => setClock s i n
    | none => s

/-- The thermal limit of an island. -/
def thermCap (s : State) (i : Nat) : Nat := tget islandMax s.wtm.therm i

/-- The grade and temperature limit (R15). -/
def gradeCap (s : State) (i : Nat) : Nat :=
  let tcp := ((s.reg .WTM_THERM 0).extractLsb' 24 8).toInt
  if s.part = .m128X ∧ 55 < tcp ∧ (isClusterIsland i ∨ i = 8 ∨ i = 17) then 44 else islandMax i

/-- The highest clock that FREQ, the grade and the temperatures permit. -/
def clockLimit (s : State) (i : Nat) : Nat :=
  if s.wtm.crit then islandFloor i
  else min (s.fld WTM_ISL.FREQ i) (min (gradeCap s i) (thermCap s i))

/-- What an island may draw, in mW (R478). -/
def islandBudget (s : State) (i : Nat) : Nat :=
  10 * (s.fld WTM_ISL.ALLOW i + s.fld WTM_ISL.BORROW i - s.fld WTM_ISL.LENT i)

/-- WTM_REEVALUATE: with the island's power now and at the next step up, the Watermaster decides whether the
island moves. -/
def reevaluate (s : State) (i mw mwUp : Nat) : State :=
  if ! isAdjustable i then s
  else
    let now := s.fld WTM_ISL.NOW i
    let lim := clockLimit s i
    let down := decide (lim < now) || decide (islandBudget s i < mw)
    let up := match stepAbove i now with
      | some n => decide (n ≤ lim) && decide (mwUp ≤ islandBudget s i)
      | none => false
    let want := if down then (if islandFloor i < now then some false else none) else if up then some true else none
    s.setWtm { s.wtm with want := tput (fun _ => none) s.wtm.want i want }

/-- ISLAND_CLOCK_STEP: the island moves as decided. -/
def clockStep (s : State) (i : Nat) (up : Bool) : State :=
  if tget (fun _ => none) s.wtm.want i ≠ some up then s
  else
    let s := s.setWtm { s.wtm with want := tput (fun _ => none) s.wtm.want i none }
    match (if up then stepAbove i (s.fld WTM_ISL.NOW i) else stepBelow i (s.fld WTM_ISL.NOW i)) with
    | some n => setClock s i n
    | none => s

/-! ## Caps (R480, R499) -/

/-- Islands whose measured power exceeds their allowance are lowered by one step. -/
def lowerOver (s : State) (isls : List Nat) : State :=
  forL (upFrom 0 36) (fun i s => if islandBudget s i < isls.getD i 0 then stepDown s i else s) s

/-- POWER_CAP_EXCURSION: the package power averaged over 100 µs, and each island's power, in mW. -/
def capExcursion (s : State) (mw : Nat) (isls : List Nat) : State :=
  let s := s.setFld WTM_STAT.PKG 0 (min 65535 (mw / 10))
  if mw ≤ 1000 * s.fld WTM_CTL.CAP 0 then s.setWtm { s.wtm with capOver := false }
  else
    let s := if s.wtm.capOver then s
      else wtmEventF ((s.satAdd WTM_STAT.CAPHITS 0 1).setWtm { s.wtm with capOver := true }) 0xB002
    lowerOver s isls

/-- INPUT_POWER_EXCURSION: the module input power averaged over 1 ms. -/
def inputExcursion (s : State) (mw : Nat) (isls : List Nat) : State :=
  let s := s.setFld WTM_STAT.INP 0 (min 65535 (mw / 10))
  if mw ≤ 320000 then s.setWtm { s.wtm with inpOver := false }
  else
    let s := if s.wtm.inpOver then s else wtmEventF (s.setWtm { s.wtm with inpOver := true }) 0xB004
    lowerOver s isls

/-- The sum of ALLOW with one island's replaced, in 10 mW. -/
def allowSum (s : State) (i a : Nat) : Nat :=
  (upFrom 0 36).foldl (fun n k => n + if k = i then a else s.fld WTM_ISL.ALLOW k) 0

/-! ## Lending (R481, R482) -/

/-- Cluster of a cluster island. -/
def clusterOf (i : Nat) : Nat := if i < 8 then i else i - 1

/-- Every engine or lane of an island waits with its clock gated. -/
def allGated (s : State) (i : Nat) : Bool :=
  if isClusterIsland i then (upFrom (16 * clusterOf i) 16).all fun e => (s.core (engine e)).gated
  else if i = 30 ∨ i = 31 then (upFrom (32 * (i - 30)) 32).all fun l => (s.core (laneCore l)).gated
  else false

/-- A cluster island has an engine running. -/
def clusterRuns (s : State) (i : Nat) : Bool := isClusterIsland i && ! allGated s i

/-- The islands that borrow from a lender. -/
def borrowers (s : State) (i : Nat) : List Nat :=
  let on := (upFrom 0 36).filter fun k => decide (k ≠ i) && clusterRuns s k
  let near := on.filter fun k => decide (k < 8) == decide (i < 8)
  if isClusterIsland i ∧ near ≠ [] then near
  else on ++ ([28, 30, 31].filter fun k => decide (k ≠ i))

/-- An island all of whose engines or lanes wait lends its allowance less its floor power; a solver island's
floor power is a free value. -/
def lendBegin (s : State) (i : Nat) : State :=
  if ! allGated s i then s
  else
    let s := s.setBit WTM_ISL.GATED i true
    if s.bit WTM_CTL.NOLEND 0 || s.wtm.loans.any fun l => l.lender == i then s
    else
      let allow := s.fld WTM_ISL.ALLOW i
      let floor := if isClusterIsland i then 400 else s.free.toNat % (allow + 1)
      let s := if isClusterIsland i then s else s.useFree
      let bs := borrowers s i
      let share := if bs = [] then 0 else (allow - floor) / bs.length
      if share = 0 then s
      else
        let s := (setClock s i (islandFloor i)).setFld WTM_ISL.LENT i (share * bs.length)
        let s := forL bs (fun b s => s.setFld WTM_ISL.BORROW b (s.fld WTM_ISL.BORROW b + share)) s
        s.setWtm { s.wtm with loans := s.wtm.loans ++ bs.map fun b => ⟨i, b, share⟩ }

/-- A gated island one of whose engines or lanes runs again has its clock. -/
def ungate (s : State) : State :=
  forL ([30, 31] ++ (upFrom 0 17).map fun k => if k < 8 then k else k + 1) (fun i s =>
    if s.bit WTM_ISL.GATED i && ! allGated s i then s.setBit WTM_ISL.GATED i false else s) s

/-- ISLAND_CLOCK_RESTORE: an entry arrives at a gated island (R18). -/
def clockRestore (s : State) (i : Nat) : State := s.setBit WTM_ISL.GATED i false

/-- POWER_RECALL_COMPLETE: the borrowers of a lender that runs again are lowered and its allowance returns
(R482). -/
def recallDone (s : State) (i : Nat) : State :=
  let ls := s.wtm.loans.filter fun l => l.lender == i
  if ls.isEmpty || s.bit WTM_ISL.GATED i then s
  else
    let s := forL ls (fun l s =>
      (stepDown s l.borrower).setFld WTM_ISL.BORROW l.borrower (s.fld WTM_ISL.BORROW l.borrower - l.amt)) s
    (s.setFld WTM_ISL.LENT i 0).setWtm { s.wtm with loans := s.wtm.loans.filter fun l => l.lender != i }

/-- ENGINE_CLOCK_GATE with what follows from it. -/
def engineGated (s : State) (e : Nat) : State := lendBegin (engineGate s e) (islandOf (e / 16))

/-- LANE_CLOCK_GATE with what follows from it. -/
def laneGated (s : State) (l : Nat) : State := lendBegin (laneGate s l) (30 + l / 32)

/-! ## Temperatures (R483, R502) -/

/-- The adjustable islands of a die: 0, 1, and 2 the hub. -/
def dieIslands (d : Nat) : List Nat := if d = 0 then upFrom 0 9 else if d = 1 then upFrom 9 9 else [28, 30, 31]

def dieNum : DieSensor → Nat
  | .die0 => 0
  | .die1 => 1
  | .hub => 2

/-- Sets an island's thermal limit. -/
def setTherm (s : State) (i n : Nat) : State := s.setWtm { s.wtm with therm := tput islandMax s.wtm.therm i n }

/-- Sets THROT from the throttled dies. -/
def setHot (s : State) (l : List Nat) : State := (s.setWtm { s.wtm with hot := l }).setBit WTM_THERM.THROT 0 (! l.isEmpty)

/-- THERMAL_THROTTLE: a reading of a junction sensor. -/
def thermal (s : State) (die : DieSensor) (tj : Int) : State :=
  let d := dieNum die
  let f := match die with
    | .die0 => WTM_THERM.TJ0
    | .die1 => WTM_THERM.TJ1
    | .hub => WTM_THERM.TJH
  let s := s.setFld f 0 (tempBits tj)
  let s := if (s.fld WTM_THERM.CRIT 0 : Int) < tj ∧ ¬ s.wtm.crit then
      let s := detect (s.setWtm { s.wtm with crit := true }) 11 wtmSrc
      forL ((upFrom 0 36).filter isAdjustable) (fun i s =>
        if islandFloor i < s.fld WTM_ISL.NOW i then setClock s i (islandFloor i) else s) s
    else s
  let thr : Int := s.fld WTM_THERM.THR 0
  let hot := s.wtm.hot.contains d
  if thr < tj ∨ (hot ∧ thr - 2 < tj) then
    let s := if hot then s else wtmEvent (setHot s (s.wtm.hot ++ [d])) 0xB001 d
    forL (dieIslands d) (fun i s =>
      let s := stepDown s i
      setTherm s i (s.fld WTM_ISL.NOW i)) s
  else if tj ≤ thr - 2 then
    let s := setHot s (s.wtm.hot.filter fun x => x ≠ d)
    forL (dieIslands d) (fun i s =>
      match stepAbove i (thermCap s i) with
      | some n => setTherm s i n
      | none => setTherm s i (islandMax i)) s
  else s

/-- PLATE_RANGE_EXCURSION: a reading of the cold plate. -/
def plateRange (s : State) (tcp : Int) : State :=
  let s := s.setFld WTM_THERM.TCP 0 (tempBits tcp)
  if plateIn s.part tcp then s.setWtm { s.wtm with plateOver := false }
  else if s.wtm.plateOver then s
  else wtmEventF (s.setWtm { s.wtm with plateOver := true }) 0xB006

/-! ## GPIO (R506) -/

/-- GPIO_EDGE: the pin changes to a level; edges less than 100 ns apart are filtered. -/
def gpioEdge (s : State) (i : Nat) (level : Bool) : State :=
  let last := tget (fun _ => none) s.wtm.edges i
  let soon := match last with
    | some t => decide ((s.stamp + 2 ^ 32 - t) % 2 ^ 32 < 100)
    | none => false
  if soon || s.bit WTM_GPIO_CFG.IN i == level then s
  else
    let s := s.setWtm { s.wtm with edges := tput (fun _ => none) s.wtm.edges i (some s.stamp) }
    let s := s.setBit WTM_GPIO_CFG.IN i level
    let e := s.fld WTM_GPIO_CFG.EDGE i
    if e = 3 ∨ (e = 1 ∧ level) ∨ (e = 2 ∧ ¬ level) then wtmEvent s 0xB005 (i + if level then 16 else 0) else s

/-- GPIO_FLT: a push-pull pin has read back different from OUT for 10 µs, or its current limit has held. -/
def gpioFlt (s : State) (i : Nat) (limit : Bool) : State :=
  if s.fld WTM_GPIO_CFG.MODE i = 1 ∧ (limit ∨ s.bit WTM_GPIO_CFG.IN i ≠ s.bit WTM_GPIO_CFG.OUT i) then
    s.setBit WTM_GPIO_CFG.FLT i true
  else s

/-! ## The ends of drains (R488, R489) -/

/-- DRAIN_COMPLETE: the unit's in-flight work is done. An engine's drain ends of itself at its first clause in runtime
mode that takes or dispatches a task (R521), and an AES unit's with its job (R468). -/
def drainComplete (s : State) (u : DrainUnit) : State :=
  match u with
  | .engine _ => s
  | .mover m => moverDrained s m
  | .edge x => edgeDrained s x.val
  | .channel c => chanDrained s c.val
  | .forebay => fbDrained s
  | .lane l => laneDrained s l.val
  | .loop n => loopDrained s n.val
  | .eth p => ethDrained s p.val
  | .dvoril p => dvDrained s p.val
  | .can c => canDrained s c.val
  | .journal => journalDrained s
  | .aes => s

/-- DRAIN_TIMEOUT: the unit's maximum drain time has passed; work still in flight is treated as under ABORT. -/
def drainTimeout (s : State) (u : DrainUnit) : State :=
  match u with
  | .engine e => if (s.core (.eng e)).state = 1 then engineAbort s e.val else s
  | .mover m => if s.fld CST_MVR_PTR.STATE m.val = 1 then moverAbort s m else s
  | .edge x => if s.fld EDG_RING.STATE x.val = 1 then edgeAbort s x.val else s
  | .channel c => chanDrainBound s c.val
  | .forebay => if s.fld ING_FB_CTL.STATE 0 = 1 then fbAbort s else s
  | .lane l => if s.fld SLV_LANE_STAT.STATE l.val = 1 then laneAbort s l.val else s
  | .loop n => if s.fld SRV_LP_CTL.STATE n.val = 1 then loopAbort s n.val else s
  | .eth p => if s.fld ETH_CTL.STATE p.val = 1 then ethAbort s p.val else s
  | .dvoril p => dvDrainTimeout s p.val
  | .can c => if s.fld CB_CTL.STATE c.val = 1 then canAbort s c.val else s
  | .journal => if s.fld JNL_CTL.STATE 0 = 1 then journalAbort s else s
  | .aes => if aesDraining s then aesAbort s else s

/-! ## Resets (R484-R487) -/

/-- Keeps the instances of a register that pass a test. -/
def keepRegs (s : State) (keep : RegName → Nat → Bool) : State :=
  { s with regs := allRegs.foldl (fun t r =>
      tput (fun _ => []) t r.ctorIdx ((tget (fun _ => []) t r.ctorIdx).filter fun x => keep r x.1)) s.regs }

/-- A line write accepted and not yet performed, or waiting for its bank, when its path is reset: its line is
complete or poisoned. -/
def resetWrite (s : State) (w : PWrite) : State :=
  let whole := s.free.getLsbD 0
  let s := s.useFree
  if whole then performG s w.src w.bytes fun a => w.pois.contains a
  else match w.bytes with
    | [] => s
    | b :: _ => markWord s (b.1 / 128 * 128) 128

/-- The pending writes of some sources end. -/
def resetWrites (s : State) (p : Nat → Bool) : State :=
  let ws := s.pend.filter fun w => p w.src
  forL ws (fun w s => resetWrite s w) { s with pend := s.pend.filter fun w => ! p w.src }

/-- An engine's architectural state, token slots and engine-domain registers return to reset; the counts of its writes
and moves, which lie outside it, and FAILED are kept (R66, R198, R484). -/
def engineReset (s : State) (e : Nat) : State :=
  let s := leaveChecks (leaveGates (abortEngineVerbs s e) e) e
  let s := { s with served := s.served.filter fun x => x ≠ e }
  let s := forL (upFrom (8 * e) 8) (fun i s => s.setReg .FE_CVTS i 0) s
  let k := s.core (engine e)
  s.setCore (engine e) { coreDefault e with
    fence := k.fence, moves := k.moves, sync := k.sync, state := if k.state = 3 then 3 else 0 }

/-- Contents of a memory inside a reset island: kept, or written zero, as a free value says. -/
def maybeClear (s : State) (lo hi : Nat) : State :=
  let gone := s.free.getLsbD 0
  let s := s.useFree
  if gone then s.upd (.clear lo hi) else s

/-- The units of an island lose their state (R485). -/
def islandUnits (s : State) (i : Nat) : State :=
  if isClusterIsland i then
    let c := clusterOf i
    let s := resetWrites s fun src => decide (src < 256) && decide (src / 16 = c)
    let s := forL (upFrom (16 * c) 16) (fun e s =>
      engineReset (abortProg s (.engine (Fin.ofNat 256 e))) e) s
    { s with
      walkers := tput (fun _ => []) s.walkers c []
      stalls := tput (fun _ => []) s.stalls c []
      gateW := s.gateW.filter fun x => ! (decide (x.1 < 0x10000) && decide (x.1 / 256 = c))
      gateL := s.gateL.filter fun x => ! (decide (x.1 < 0x10000) && decide (x.1 / 256 = c))
      checks := s.checks.filter fun x => ! (decide (x.1 < 0x10000) && decide (x.1 / 256 = c)) }
  else if i = 24 then { s with msix := [], fns := [] }
  else if i = 25 then
    { s with eth := [], arrivals := s.arrivals.filter fun x => decide (x.1 / 2 ^ 16 ≠ 2) }
  else if i = 26 then
    { s with can := [], mbx := [], arrivals := s.arrivals.filter fun x => decide (x.1 / 2 ^ 16 ≠ 1) }
  else if i = 27 then { s with chans := [], fb := {}, stripeSeq := 0 }
  else if i = 28 then
    let s := forL (upFrom 0 2) (fun x s => match s.edgeJob x with
      | some j => edgeEnd s x j
      | none => s) s
    maybeClear s 0x5100000000 0x51003FFFFF
  else if i = 29 then
    forL (upFrom 0 192) loopLost { s with inj := {}, cap := {} }
  else if i = 30 ∨ i = 31 then
    let lo := 32 * (i - 30)
    let s := forL (upFrom lo 32) (fun l s => (s.setLane l {}).setCore (laneCore l) {}) s
    s.upd (.clear (laneBase lo) (laneBase (lo + 32) - 1))
  else if i = 35 then forL (upFrom 0 2) (fun p s => dvLockLoss s p) s
  else s

/-- The islands that only a warm or cold reset resets. -/
def islandFixed (i : Nat) : Bool :=
  i == 8 || i == 17 || (decide (18 ≤ i) && decide (i ≤ 23)) || (decide (32 ≤ i) && decide (i ≤ 34)) || decide (36 ≤ i)

/-- An island reset (R484, R485). -/
def islandReset (s : State) (i : Nat) : State :=
  let s := islandUnits s i
  let s := keepRegs s fun r k =>
    ! ((r.info.dom = .island || r.info.dom = .engine) && decide (regIsland r k = i))
  s.setBit WTM_ISL.INRST i true

/-- ISLAND_RESET_EXIT. -/
def islandExit (s : State) (i : Nat) : State :=
  if s.bit WTM_ISL.INRST i then wtmEvent (s.setBit WTM_ISL.INRST i false) 0xB003 i else s

/-- A cold reset: everything returns to its reset state but flash, fuses, the pins and the power inputs. -/
def coldReset (s : State) : State :=
  { State.reset with
    part := s.part
    freeCtr := s.freeCtr
    wlog := [.clear 0 (drdBase + 0x3FFFF)]
    out := s.out
    boot := { s.boot with loaded := false, slot := 0, seq := 0, svn := 0, debugOn := false, waits := false,
                          injDone := false } }

/-- What a commit in progress leaves of the target's record when a reset cuts it (R472). -/
def cutCommit (s : State) : State := if s.bit SEC_FWC_CTL.BUSY 0 then fwcCut s else s

/-- Every gate waiter leaves without taking, and every held check arrival (R203, R487). -/
def dropWaiters (s : State) : State :=
  let s := forL (s.gateW.map Prod.fst) (fun k s => setGateWord (s.setWaiters k []) k (putBits (gateWord s k) 40 32 0)) s
  forL (s.checks.map Prod.fst) (fun k s =>
    let c := s.chk k
    let gone := fun (l : List Nat) => l.map fun _ => nobody
    syncHeld (s.setChk k { c with even := gone c.even, odd := gone c.odd, held := [] }) k) s

/-- What a warm reset does to memory first: every unit acts as for its ABORT, the journal seals, staged
change-log entries are written to the ring (R486, R487). Answers the entries lost. -/
def quiesce (s : State) : State × Nat :=
  let s := aesAbort s
  let s := forL (upFrom 0 256) (fun e s =>
    let s := abortProg s (.engine (Fin.ofNat 256 e))
    if (s.core (engine e)).inFlight.isEmpty then s else abortEngineVerbs s e) s
  let s := forL (upFrom 0 12) (fun m s => abortProg s (.ring (Fin.ofNat 12 m))) s
  let s := forL (upFrom 0 2) (fun x s => match s.edgeJob x with
    | some j => edgeEnd s x j
    | none => s) s
  let s := dropWaiters (resetWrites s fun _ => true)
  let s := sealNow (cutCommit s)
  let s := scrubAbort (scrubAbort s .cistern) .hbm
  clgFlush s

/-- A warm reset of a kind (1 pin, 2 PCIe, 3 register) requested by a source: HBM, the Cistern and the
cold-domain registers are kept (R484, R486). -/
def warmReset (s : State) (kind src : Nat) : State :=
  let q := quiesce s
  let s := q.1
  let jnl := s.reg .JNL_PTR_WR 0
  let wr := s.fld CLG_PTR.WR 0
  let rd := s.fld CLG_PTR.RD 0
  let kept := keepRegs s fun r _ => r.info.dom = .cold
  let hub := fun (l : Nat × Bool) => match s.region l.1 with
    | .hbm | .cistern => true
    | _ => false
  let t : State := { State.reset with
    mem := s.mem
    marks := s.marks
    wlog := .clear 0x5000000000 0x5FFFFFFFFF :: .clear drdBase (drdBase + 0x3FFFF) :: s.wlog
    latent := s.latent.filter hub
    regs := kept.regs
    part := s.part
    freeCtr := s.freeCtr
    bankUE := s.bankUE
    out := s.out
    boot := { s.boot with loaded := false, debugOn := false, waits := false, injDone := false } }
  let t := t.setReg .WTM_RSTREC 0 (w64 (kind + src * 2 ^ 16))
  let t := t.setReg .WTM_RSTREC 1 jnl
  let t := t.setReg .WTM_RSTREC 2 (w64 (wr + rd * 2 ^ 32))
  t.setReg .WTM_RSTREC 3 (w64 q.2)

/-- After a reset that no pin holds, the module boots from the flash and fuses it last found (R464, R486). -/
def reboot (s : State) : State :=
  if s.boot.rstLow || s.boot.perstLow then s
  else match s.boot.last with
    | some b => bootRun s b
    | none => s

/-- A write of WTM_RST: the broadest reset of those requested (R484). -/
def rstWritten (s : State) (src : Nat) (v : Word) : State :=
  if v.getLsbD 1 then reboot (coldReset (cutCommit s))
  else if v.getLsbD 0 then reboot (warmReset s 3 src)
  else if v.getLsbD 2 then islandReset s (bitsOf v 9 4)
  else if v.getLsbD 3 then engineReset s (bitsOf v 17 10)
  else s

/-- A write of WTM_RST is ignored: an island that takes no island reset, or an engine whose island is being
reset (R485, R487). -/
def rstIgnored (s : State) (v : Word) : Bool :=
  if bitsOf v 1 0 ≠ 0 then false
  else if v.getLsbD 2 then islandFixed (bitsOf v 9 4)
  else v.getLsbD 3 && s.bit WTM_ISL.INRST (islandOf (bitsOf v 17 10 / 16))

/-- RESET_PIN: RST_N goes low. -/
def resetPin (s : State) : State :=
  let s := warmReset s 1 0
  s.setBoot { s.boot with rstLow := true }

/-- A PCIe conventional reset (R453). -/
def pcieReset (s : State) (k : PcieReset) : State :=
  let s := warmReset s 2 0
  match k with
  | .perst => s.setBoot { s.boot with perstLow := true }
  | _ => reboot s

/-- WARM_RESET_RELEASE: a reset pin goes high; once none is low the module boots (R503). -/
def resetRelease (s : State) (pin : ResetPin) (b : BootInput) : State :=
  let low := s.boot.rstLow || s.boot.perstLow
  let s := match pin with
    | .rst => s.setBoot { s.boot with rstLow := false }
    | .perst => s.setBoot { s.boot with perstLow := false }
  if low && ! s.boot.rstLow && ! s.boot.perstLow then bootRun s b else s

/-- POWER_GOOD: a module that has not booted reads its cold plate and boots (R464, R502). -/
def powerGood (s : State) (b : BootInput) : State :=
  if s.boot.loaded || s.boot.waits || s.boot.reversed then s
  else bootAt (s.setBoot { s.boot with pg := true, rstLow := false, perstLow := false }) b.tcp b

/-- TCP_RECHECK. -/
def tcpRecheck (s : State) (tcp : Int) (b : BootInput) : State := if s.boot.waits then bootAt s tcp b else s

/-- POWER_LOSS: PG falls, a cold reset; the module stays unpowered until PG rises (R501). -/
def powerLoss (s : State) : State :=
  let s := coldReset (cutCommit s)
  s.setBoot { s.boot with pg := false }

/-- VIN_REVERSED: reversed input is blocked and REV_N is low; the module stays unpowered (R508). -/
def vinReversed (s : State) (on : Bool) : State :=
  let s := if on then powerLoss s else s
  s.setBoot { s.boot with reversed := on }

/-- The module is powered and no reset pin holds it. -/
def alive (s : State) : Bool := s.boot.pg && ! s.boot.rstLow && ! s.boot.perstLow

end Sys2Proof.Machine
end

