-- ==== Sys2Proof/Machine/Control.lean ====
section
/-! DEFINITION. The control space: who may write what, what a write of each register does, reads that clear or
act, and writes held by a full change log (R10-R13, R408, R454-R457, R473-R476, R510-R513). -/

namespace Sys2Proof.Machine

/-! ## Registers as they are written and read -/

/-- Bits of a register instance that the access code RW covers and that some instances or states make
read-only: grid table 0 (R136), the FREQ and ALLOW of fixed islands (R478, R480), REACT and THRESH of the fixed
detection classes (R413), MODE of an enabled journal (R395). -/
def roExtra (s : State) (r : RegName) (i : Nat) : Word :=
  match r with
  | .FE_GRID => if i % 32 < 4 then BitVec.allOnes 64 else 0
  | .WTM_ISL => if isAdjustable i then 0 else maskBits 5 0 ||| maskBits 23 12
  | .DRD_REACT => if [0, 1, 11, 22, 23, 24, 25].contains i then maskBits 1 0 ||| maskBits 15 8 else 0
  | .JNL_CTL => if s.fld JNL_CTL.STATE 0 = 2 then 0 else maskBits 2 2
  | _ => 0

/-- Bits that always read as 0, by register table. -/
def forceZero : RegName → Word
  | .DVL_RXWIN0 | .ING_CH_BASE => maskBits 6 0
  | .ING_FB_BASE | .HST_OBW | .HST_RING0 | .JNL_STG => maskBits 11 0
  | .ING_TOK_TRIE => maskBits 2 0
  | .SLV_LANE_CTL => maskBits 33 32
  | .CLG_RING => maskBits 24 0
  | .JNL_RING => maskBits 19 0
  | .CST_BANKFB => maskBits 22 0
  | _ => 0

/-- Bits that always read as 1 (R215). -/
def forceOne : RegName → Word
  | .DVL_RXWIN1 => maskBits 6 0
  | _ => 0

/-- A register's contents after a write of v: RW fields as written, W1C bits cleared, W1S bits set, the rest as
they were (R10, R11). -/
def written (s : State) (r : RegName) (i : Nat) (v : Word) : Word :=
  let cur := s.reg r i
  let rw := r.accMask [.rw] &&& ~~~(roExtra s r i)
  let w1c := r.accMask [.w1c]
  let w1s := r.accMask [.w1s]
  let v' := (v &&& ~~~(forceZero r)) ||| forceOne r
  (v' &&& rw) ||| (cur &&& w1c &&& ~~~v) ||| ((cur ||| v) &&& w1s) ||| (cur &&& ~~~(rw ||| w1c ||| w1s))

/-- The write changes the register: an RW field changes, or a WO, W1S or W1C bit is written 1 (R473). -/
def changes (s : State) (r : RegName) (i : Nat) (v : Word) : Bool :=
  decide ((written s r i v ^^^ s.reg r i) &&& r.accMask [.rw] ≠ 0) ||
    decide (v &&& r.accMask [.wo, .w1s, .w1c] ≠ 0)

/-- The half of a register that a 4-byte access addresses. -/
def halfMask (a : Nat) : Word := if a % 8 = 0 then maskBits 31 0 else maskBits 63 32

/-- The 64-bit value whose effect a write takes: of a 4-byte write, the other half holds the present contents of
its RW fields and 0 elsewhere (R455). -/
def mergeWrite (s : State) (r : RegName) (i a size : Nat) (v : Word) : Word :=
  if size = 8 then v
  else
    let m := halfMask a
    let x := if a % 8 = 0 then v else v <<< 32
    (x &&& m) ||| (s.reg r i &&& r.accMask [.rw] &&& ~~~m)

/-! ## Who may write (R408, R454, R455, R462, R494, R513) -/

/-- The writer is the Ditch Rider or the boot loader. -/
def isTrusted (src : Nat) : Bool := decide (src = 0xA000) || decide (src = bootSrc)

/-- The sources that write the control space. -/
def isWriter (s : State) (src : Nat) : Bool :=
  decide (src < 256) || isTrusted src || decide (src = wtmSrc) || decide (src = 0xC000) || decide (src = 0xC003) ||
    (decide (src = 0xD000) && s.boot.debugOn)

/-- A source may write a register. Engines declare targets idle (assumption log 48). -/
def mayWrite (s : State) (src : Nat) (r : RegName) : Bool :=
  let cls := r.info.cls
  isWriter s src &&
  (if src = 0xC003 ∨ src = 0xD000 then decide (cls = 0xD) || decide (r = .DRD_SAFE)
   else if src = 0xC000 then
     (if ! s.bit SEC_BOOT.READY 0 then decide (cls = 0xC) || decide (cls = 0xE)
      else if replaying s then decide (cls = 0xD) || decide (cls = 0xF)
      else true)
   else true) &&
  (decide (cls ≠ 0xA) || isTrusted src || decide (r = .DRD_WD_CHK) || decide (r = .DRD_SAFE) ||
    (decide (r = .DRD_ST_IDLE) && decide (src < 256)))

/-! ## Units with an EN field (R488) -/

/-- State of the unit that a control register enables: 0 ENABLED, 1 DRAINING, 2 DISABLED, 3 FAILED. -/
def unitState (s : State) (r : RegName) (i : Nat) : Option Nat :=
  match r with
  | .FE_CTL => some (s.core (engine i)).state
  | .EDG_CTL => some (s.fld EDG_RING.STATE i)
  | .CST_MVR_CTL => some (s.fld CST_MVR_PTR.STATE i)
  | .ING_CH_CTL => some (s.fld ING_CH_PTR.STATE i)
  | .ING_FB_CTL => some (s.fld ING_FB_CTL.STATE 0)
  | .SLV_LANE_CTL => some (s.fld SLV_LANE_STAT.STATE i)
  | .SRV_LP_CTL => some (s.fld SRV_LP_CTL.STATE i)
  | .CB_CTL => some (s.fld CB_CTL.STATE i)
  | .ETH_CTL => some (s.fld ETH_CTL.STATE i)
  | .JNL_CTL => some (s.fld JNL_CTL.STATE 0)
  | .DVL_CTL => some (match s.fld DVL_STAT.STATE i with | 0 => 2 | 3 => 1 | _ => 0)
  | .SEC_AES_RING => some (if s.bit SEC_AES_RING.EN 0 then 0 else if aesDraining s then 1 else 2)
  | _ => none

/-- Bit of EN; ABORT stands one above it. -/
def enBit : RegName → Nat
  | .SEC_AES_RING => 56
  | _ => 0

/-- Enables, drains or aborts the unit of a control register. -/
def unitWritten (s : State) (r : RegName) (i : Nat) (v : Word) : State :=
  let en := v.getLsbD (enBit r)
  if v.getLsbD (enBit r + 1) then
    match r with
    | .FE_CTL => engineAbort s i
    | .EDG_CTL => edgeAbort s i
    | .CST_MVR_CTL => moverAbort s (Fin.ofNat 12 i)
    | .ING_CH_CTL => chanAbort s i
    | .ING_FB_CTL => fbAbort s
    | .SLV_LANE_CTL => laneAbort s i
    | .SRV_LP_CTL => loopAbort s i
    | .CB_CTL => canAbort s i
    | .ETH_CTL => ethAbort s i
    | .JNL_CTL => journalAbort s
    | .SEC_AES_RING => aesAbort s
    | _ => s
  else if en then
    match r with
    | .FE_CTL => engineEnable s i
    | .EDG_CTL => edgeEnable s i
    | .CST_MVR_CTL =>
      let s := moverEnable s i
      if i = 5 then forL (upFrom 0 4) (fun p s => ethPump s p) s else s
    | .ING_CH_CTL => chanEnable s i
    | .ING_FB_CTL => fbEnable s
    | .SLV_LANE_CTL => laneEnable s i
    | .SRV_LP_CTL => loopEnable s i
    | .CB_CTL => canEnable s i
    | .ETH_CTL => ethEnable s i
    | .JNL_CTL => journalEnable s
    | .SEC_AES_RING => aesTake 16 s
    | _ => s
  else
    match r with
    | .FE_CTL => engineDrain s i
    | .EDG_CTL => edgeDrain s i
    | .CST_MVR_CTL => moverDrain s i
    | .ING_CH_CTL => chanDrain s i
    | .ING_FB_CTL => fbDrain s
    | .SLV_LANE_CTL => laneDrain s i
    | .SRV_LP_CTL => loopDrain s i
    | .CB_CTL => canDrain s i
    | .ETH_CTL => ethDrain s i
    | .JNL_CTL => journalDrain s
    | _ => s

/-! ## Writes that are ignored -/

/-- What becomes of a write: it takes effect, or it is ignored, and logged or not. -/
inductive Verdict where
  | take
  | ignore (logged : Bool)
deriving DecidableEq, Repr

/-- Bits of a register that cannot be written now: a write that would change one of them is ignored whole and
logged (R288, R330, R345, R373, R386). -/
def lockedBits (s : State) (r : RegName) (i : Nat) : Word :=
  let rw := r.accMask [.rw]
  match r with
  | .ING_CH_CTL => if s.fld ING_CH_PTR.STATE i = 2 then 0 else rw &&& ~~~(maskBits 0 0)
  | .SRV_LP_CTL => if s.fld SRV_LP_CTL.STATE i = 2 then 0 else rw &&& ~~~(maskBits 0 0)
  | .SLV_LANE_CTL =>
    let free := (upFrom i (gangSize s i)).all fun l => decide (s.fld SLV_LANE_STAT.STATE l = 2)
    if free then 0 else maskBits 3 2 ||| maskBits 53 32
  | .CB_MBX_CTL => if s.bit CB_MBX_CTL.EN i then maskBits 4 1 else 0
  | .CB_PHY => if s.fld CB_CTL.STATE i = 2 then 0 else maskBits 0 0
  | _ => 0

/-- A register that cannot be written at all now; every write of it is ignored and logged (R288, R345, R373,
R398, R404, R218). -/
def frozenReg (s : State) (r : RegName) (i : Nat) (v : Word) : Bool :=
  match r with
  | .ING_CH_GEOM | .ING_CH_BASE => decide (s.fld ING_CH_PTR.STATE i ≠ 2)
  | .SRV_LP_TIME | .SRV_LP_LOFF | .SRV_LP_IN | .SRV_LP_SPB | .SRV_LP_FFB | .SRV_LP_OUT | .SRV_LP_GATE
  | .SRV_LP_VAL => decide (s.fld SRV_LP_CTL.STATE i ≠ 2)
  | .CB_MBX_ID | .CB_MBX_MASK => s.bit CB_MBX_CTL.EN i
  | .JNL_STG => decide (s.fld JNL_CTL.STATE 0 ≠ 2)
  | .DET_LS => s.bit DET_LS.EN 0 && v.getLsbD 0
  | .DET_LS_START => s.bit DET_LS.EN 0
  | .DVL_GRP => (upFrom 0 2).any fun p => decide (s.fld DVL_STAT.STATE p ≠ 0)
  | _ => false

/-- A value that a register's rule refuses: the write is ignored and logged (R351, R401, R413, R415, R419, R432,
R449, R452, R456, R463, R467, R471, R480, R483-R487). -/
def refusedValue (s : State) (src : Nat) (r : RegName) (i : Nat) (v : Word) : Bool :=
  match r with
  | .SLV_LANE_CTL => v.getLsbD 0 && isMember s i
  | .CST_SCRUB_CTL => scrubIgnored s .cistern v
  | .HBM_SCRUB_CTL => scrubIgnored s .hbm v
  | .DRD_REACT => decide (bitsOf v 1 0 = 2) && ! [5, 6, 7, 8, 9, 10, 14, 15, 18].contains i
  | .DRD_GS0 => v.getLsbD 0 && gsBad s i v
  | .DRD_WD0 => v.getLsbD 0 && wdBad v
  | .HST_WINB =>
    let b := bitsOf v 39 0
    decide (b % 2 ^ 30 ≠ 0) || (decide (b < 0x6010000000) && decide (0x6000000000 < b + 2 ^ 34)) ||
      (decide (b < 0x8000000000) && decide (0x7000000000 < b + 2 ^ 34))
  | .SEC_EXTEND => decide (src ≠ 0xC000)
  | .SEC_ATT => v.getLsbD 40 && s.bit SEC_ATT.BUSY 0
  | .SEC_FWC_CTL => v.getLsbD 0 && s.bit SEC_FWC_CTL.BUSY 0
  | .WTM_CTL =>
    let cap := bitsOf v 8 0
    decide (cap < 50) || decide (280 < cap) || decide (100 * cap < allowSum s 36 0)
  | .WTM_ISL =>
    isAdjustable i && decide (100 * s.fld WTM_CTL.CAP 0 < allowSum s i (bitsOf v 23 12))
  | .WTM_THERM => decide (115 < bitsOf v 47 40)
  | .WTM_RST => rstIgnored s v
  | .TB_INC => ! incOk v || disciplined s
  | .TB_ADJ => disciplined s
  | .TB_LOADSEC => v.getLsbD 63 && (disciplined s || decide (1000000000 ≤ s.fld TB_LOADNS.LOADNS 0))
  | .JNL_FEED => decide (bitsOf v 31 0 ≠ 0) && feedIgnored s (bitsOf v 31 0)
  | _ => false

/-- Writes that are ignored without a change-log entry: RD of a channel that would release a set not delivered
(R287), and gates and checks of an isolated cluster (R432). -/
def silentlyIgnored (s : State) (r : RegName) (i : Nat) (v : Word) : Bool :=
  match r with
  | .ING_CH_PTR => ! rdOk s i (bitsOf v 15 8)
  | .CST_CGATE => s.drd.iso.contains (0x100 + i / 256)
  | .CST_CCHK0 | .CST_CCHK1 => s.drd.iso.contains (0x100 + i / 64)
  | _ => false

/-- The verdict on a write of v by a source: refused (R513), ignored by a rule, or taken. ABORT is taken whatever
else the write would change. A FAILED engine takes no write of FE_CTL (R66). -/
def verdictOf (s : State) (src : Nat) (r : RegName) (i : Nat) (v : Word) : Verdict :=
  let st := unitState s r i
  let abort := st.isSome && v.getLsbD (enBit r + 1)
  let moved := (written s r i v ^^^ s.reg r i) &&& lockedBits s r i
  if ! mayWrite s src r || (decide (r = .FE_CTL) && decide (st = some 3)) then .ignore true
  else if silentlyIgnored s r i v then .ignore false
  else if abort then .take
  else if decide (st = some 1) && v.getLsbD (enBit r) then .ignore true
  else if decide (moved ≠ 0) || frozenReg s r i v || refusedValue s src r i v then .ignore true
  else .take

/-- The value a taken write stores: an ABORT leaves locked fields as they are. -/
def storedValue (s : State) (r : RegName) (i : Nat) (v : Word) : Word :=
  let m := lockedBits s r i
  (written s r i v &&& ~~~m) ||| (s.reg r i &&& m)

/-- A refused timebase write sets REFUSED (R351). -/
def ignoredEffect (s : State) (src : Nat) (r : RegName) : State :=
  match r with
  | .TB_INC | .TB_ADJ | .TB_LOADSEC => if mayWrite s src r then s.setBit TB_STAT.REFUSED 0 true else s
  | _ => s

/-! ## What a write does -/

/-- Free values in the words of the debug view after another object is selected, until its capture (R204). -/
def spoilView (s : State) : State :=
  forL (upFrom 1 7) (fun k s => s.useFree.setReg .CST_GDBG k s.free) s

/-- The effects of a write of v beyond the register's contents; `old` is what it held. -/
def regHook (s : State) (src : Nat) (r : RegName) (i : Nat) (old v : Word) (psn : Bool) : State :=
  match r with
  | .FE_CTL | .EDG_CTL | .CST_MVR_CTL | .ING_FB_CTL | .SRV_LP_CTL | .ETH_CTL | .JNL_CTL | .SEC_AES_RING =>
    unitWritten s r i v
  | .ING_CH_CTL => pocWritten (unitWritten s r i v) i (old.getLsbD 4)
  | .SLV_LANE_CTL => syncMembers (unitWritten s r i v)
  | .CB_CTL =>
    let s := unitWritten s r i v
    if v.getLsbD 8 then canRecover s i else s
  | .DVL_CTL => dvCtl s i old v
  | .FE_TQ_PUSH => taskPush s i (bitsOf v 39 0)
  | .FE_GRID => gridWritten s
  | .CST_GDBG_SEL => spoilView s
  | .CST_PW_CTL =>
    let s := if v.getLsbD 1 then walkerCancel s i else s
    let s := if v.getLsbD 0 then walkerResume s i else s
    if v.getLsbD 2 then walkerFlush s i else s
  | .CST_CGATE => writeGate s i v
  | .CST_MGATE => writeGate s (0x20000 + i) v
  | .CST_CCHK0 => writeCheck s (i / 64 * 256 + i % 64) 0 v
  | .CST_CCHK1 => writeCheck s (i / 64 * 256 + i % 64) 1 v
  | .CST_MCHK0 => writeCheck s (0x20000 + i) 0 v
  | .CST_MCHK1 => writeCheck s (0x20000 + i) 1 v
  | .CST_SCRUB_CTL => scrubWritten s .cistern v
  | .HBM_SCRUB_CTL => scrubWritten s .hbm v
  | .ING_STEER => if v.getLsbD 48 then steerGo s i else s
  | .ING_FB_CMD => fbCommand s v
  | .SLV_DOOR => doorbell s i (bitsOf v 21 0)
  | .SRV_INJ_CTL =>
    let s := if v.getLsbD 1 then injEnd s else s
    if v.getLsbD 0 then injGo s else s
  | .SRV_CAP_CTL =>
    let s := if v.getLsbD 1 then capStop s else s
    if v.getLsbD 0 then capGo s else s
  | .SRV_LP_COEF2 => coefCommit s (i / 8) (i % 8)
  | .CB_PHY =>
    let s := if v.getLsbD 1 then termRequest s i else s
    if v.getLsbD 2 then phyClear s i else s
  | .CB_MBX_CMD =>
    let c := i / 128
    let n := i % 128
    let s := if v.getLsbD 0 then mbxQueue s c n else s
    let s := if v.getLsbD 1 then mbxCancel s c n else s
    if old.getLsbD 2 && ! v.getLsbD 2 then mbxUnlock s c n else s
  | .CB_MBX_DATA | .ETH_TXSV => setPsn s r i psn
  | .ETH_TXQ1 => txPost s i (bitsOf old 7 0)
  | .DRD_CTL =>
    if v.getLsbD 0 && ! old.getLsbD 0 then { s with drd := { s.drd with fwRun := true } } else s
  | .DRD_SAFE => if v.getLsbD 1 then detect s 24 src else s
  | .DRD_ISO => if src = drdSrc then isoWrite s (bitsOf v 15 0) else s
  | .DRD_WD0 => if (old ^^^ v).getLsbD 0 then s.setBit DRD_WD1.RUN i false else s
  | .DRD_WD_CHK => checkIn s (bitsOf v 5 0) src
  | .DRD_DIV_CTL => if v.getLsbD 0 && ! s.bit DRD_DIV_CTL.BUSY 0 then s.setBit DRD_DIV_CTL.BUSY 0 true else s
  | .DRD_ST_IDLE => declareIdle s v
  | .DRD_GOLD_GSTART | .DRD_GOLD_GWIN => goldenMoved s
  | .WTM_RST => rstWritten s src v
  | .HST_IRQ => sendVec s (bitsOf v 7 0)
  | .DBG_MARK => event s (s.fld DBG_CTL.EVQ 0) 0xD001 src v.toNat
  | .SEC_BOOT => if v.getLsbD 3 then svnLock s else s
  | .SEC_EXTEND => extendWritten s i v
  | .SEC_ATT => if v.getLsbD 40 then attGo s else s
  | .SEC_KEY => keyWritten s (i / 4) (i % 4) v
  | .SEC_FWC_CTL =>
    if v.getLsbD 1 then fwcAbort s else if v.getLsbD 0 && decide (src = 0xC000) then fwcGo s else s
  | .TB_INC => if s.reg .TB_INC 0 = old then s else tbIncWritten s (bitsOf old 39 0)
  | .TB_ADJ => tbAdjGo s v
  | .TB_LOADSEC => tbLoadGo s v
  | .JNL_MARK => journalMark s v
  | .JNL_FEED => if bitsOf v 31 0 = 0 then s else feedGo s (bitsOf v 31 0)
  | .DET_LS =>
    if v.getLsbD 0 && ! old.getLsbD 0 then lsEnable s
    else if ! v.getLsbD 0 && old.getLsbD 0 then lsDisable s
    else s
  | _ => s

/-- The change-log entry of a taken write: NEW holds WO bits as written; of keys both words are 0 (R470,
R473). -/
def logTaken (s : State) (src : Nat) (r : RegName) (i : Nat) (v : Word) : State :=
  if r.info.logged && changes s r i v then
    if r = .SEC_KEY then logEntry s src r i false 0 0
    else logEntry s src r i false (s.reg r i) (storedValue s r i v ||| (v &&& r.accMask [.wo]))
  else s

/-- A write of the 64-bit value v to a register is performed: its verdict, its change-log entry, then its effect.
`psn` marks the value written poisoned. -/
def regWrite (s : State) (src : Nat) (r : RegName) (i : Nat) (v : Word) (psn : Bool := false) : State :=
  match verdictOf s src r i v with
  | .ignore logged => ignoredEffect (if logged then logIgnored s src r i v else s) src r
  | .take =>
    let old := s.reg r i
    let new := storedValue s r i v
    regHook ((logTaken s src r i v).setReg r i new) src r i old v psn

/-- A write of v would append a change-log entry. -/
def wouldLog (s : State) (src : Nat) (r : RegName) (i : Nat) (v : Word) : Bool :=
  match verdictOf s src r i v with
  | .ignore logged => logged
  | .take => r.info.logged && changes s r i v

/-- A control-space access has a permitted size and alignment (R511). -/
def ctlAligned (a size : Nat) : Bool := (size == 4 || size == 8) && decide (a % size = 0)

/-- A write is performed at its register; an offset that no register occupies takes none (R510). -/
def ctlPerform (s : State) (src a size : Nat) (v : Word) (psn : Bool) : State :=
  match regAt (a / 8 * 8) with
  | none => s
  | some (r, i) => regWrite s src r i (mergeWrite s r i a size v) psn

/-- In BLOCK mode a write of a register waits while its entry finds staging full, or an earlier write of its source
waits (R475). -/
def logWaits (s : State) (src : Nat) (r : RegName) (i : Nat) (v : Word) : Bool :=
  s.bit CLG_CTL.MODE 0 && ((s.held.any fun h => h.src == src) || (clgFull s src && wouldLog s src r i v))

/-- A write of a register must wait, for change-log staging or for the island that holds the register (R17, R18, R475,
R485). -/
def regWaits (s : State) (src : Nat) (r : RegName) (i : Nat) (v : Word) : Bool :=
  islandStops s (regIsland r i) || logWaits s src r i v

/-- A write at a control-space address must wait; one that no register takes waits only behind an earlier write of
its source (R475). -/
def ctlWaits (s : State) (src a size : Nat) (v : Word) : Bool :=
  match regAt (a / 8 * 8) with
  | none => s.bit CLG_CTL.MODE 0 && s.held.any fun h => h.src == src
  | some (r, i) => regWaits s src r i (mergeWrite s r i a size v)

/-- The island of the register at an address takes no entry. -/
def ctlStops (s : State) (a : Nat) : Bool :=
  match regAt (a / 8 * 8) with
  | none => false
  | some (r, i) => islandStops s (regIsland r i)

/-- A write is held until it may take effect. -/
def holdWrite (s : State) (src a size : Nat) (v : Word) : State :=
  holdEntry s src (.write a size v) (! ctlStops s a)

/-- A write of a source reaches the control space; while it must wait it is held. -/
def ctlWrite (s : State) (src a size : Nat) (v : Word) (psn : Bool := false) : State :=
  if ! ctlAligned a size then s
  else if ctlWaits s src a size v then holdWrite s src a size v
  else ctlPerform s src a size v psn

/-- A write of a register by name, all 8 bytes. -/
def regCommand (s : State) (src : BitVec 16) (r : RegName) (i : Nat) (v : Word) : State :=
  if regWaits s src.toNat r i v then holdWrite s src.toNat (r.addr i) 8 v else regWrite s src.toNat r i v

/-- A register's RW contents with other bits 0: what a whole write puts back to leave them unchanged. -/
def kept (s : State) (r : RegName) (i : Nat) : Word := s.reg r i &&& r.accMask [.rw]

/-! ## Reads (R10, R70, R188, R204, R305, R351, R355, R365, R383) -/

/-- FE_STAT of an engine (R70). -/
def engineStat (s : State) (e : Nat) : Word :=
  let k := s.core (engine e)
  let blocked := k.waiting && clauseHas (fun i => match i with
    | .waitv .. | .gwait .. | .chka .. => true
    | _ => false) k.stream
  w64 (k.state + (if k.runtime then 4 else 0) + (if blocked then 8 else 0) + (k.tokens.toNat % 256) * 2 ^ 4 +
    k.lastCause % 256 * 2 ^ 12 + k.lastEpc % 2 ^ 40 * 2 ^ 24)

/-- The fields that some registers take from the state of their unit. -/
def regView (s : State) (r : RegName) (i : Nat) : Word :=
  let w := s.reg r i
  match r with
  | .FE_STAT => engineStat s i
  | .FE_TQ => putBits w 26 24 (tailFlags s i)
  | .SLV_LANE_STAT =>
    let k := s.core (laneCore i)
    let blocked := k.waiting && clauseHas (fun x => match x with
      | .snext .. => true
      | _ => false) k.stream
    putBits w 3 3 (if blocked then 1 else 0)
  | .TB_STAT => putBits w 1 1 (if disciplined s then 1 else 0)
  | r => w &&& ~~~(r.accMask [.wo])

/-- A read of a register whose read acts: the state after it and the word, if it is one. Takes and pops happen
in a read that touches the low half. -/
def readActs (s : State) (src : Nat) (r : RegName) (i : Nat) (low : Bool) : Option (State × Word) :=
  match r with
  | .FE_TQ_TAKE => some (if low && decide (src = i) then taskTake s i else (s, 0))
  | .CST_GDBG =>
    let s := if i = 0 then captureView s else s
    some (s, s.reg .CST_GDBG i)
  | .ING_FB_TAKE => some (if low then fbTake s else (s, 0))
  | .CB_TXTS =>
    let p := canTxtsPop s i
    some (if low then p.1 else s, p.2)
  | .ETH_TXTS =>
    let p := ethTxtsPop s i
    some (if low then p.1 else s, p.2)
  | .TB_NOW0 => some (tbNow0 s src)
  | .TB_NOW1 => some (s, tbNow1 s src)
  | _ => none

/-- The RC fields that a read clears: all of them, or for a 4-byte read those wholly in its half (R455). -/
def clearedMask (r : RegName) (a size : Nat) : Word :=
  r.info.fields.foldl (fun m f =>
    let fm := maskBits f.hi f.lo
    if f.acc = .rc && (decide (size = 8) || decide (fm &&& ~~~(halfMask a) = 0)) then m ||| fm else m) 0

/-- A read of a register of which `mask` clears and `low` touches the low half: the state after it and the word. -/
def regRead (s : State) (src : Nat) (r : RegName) (i : Nat) (low : Bool) (mask : Word) : State × Word :=
  match readActs s src r i low with
  | some p => p
  | none =>
    let w := regView s r i
    let s := if mask = 0 then s else s.setReg r i (s.reg r i &&& ~~~mask)
    let s := if r = RegName.CLG_STAT ∧ mask.getLsbD 0 then { s with clog := { s.clog with lossTold := false } } else s
    (s, w)

/-- A read of the control space by a source: the state after it and the value, of a 4-byte read the addressed
half. -/
def ctlRead (s : State) (src a size : Nat) : State × Word :=
  match regAt (a / 8 * 8) with
  | none => (s, 0)
  | some (r, i) =>
    let p := regRead s src r i (decide (size = 8) || decide (a % 8 = 0)) (clearedMask r a size)
    (p.1, if size = 8 then p.2 else if a % 8 = 0 then p.2 &&& maskBits 31 0 else p.2 >>> 32)

/-- The answer of a read goes to the host's request or to the reader. -/
def answerRead (s : State) (src size : Nat) (host : Bool) (w : Word) : State :=
  s.send (if host then .hostData ((leBytes 8 w.toNat).take size) false else .readData src w)

/-- A source reads the control space and is answered; the read waits in the crossing of an island that takes none. -/
def ctlAsk (s : State) (src a size : Nat) (host : Bool) : State :=
  if ctlStops s a then holdEntry s src (.read a size host) false
  else
    let p := ctlRead s src a size
    answerRead p.1 src size host p.2

/-! ## Held accesses (R17, R18, R475, R485) -/

/-- A host reads memory and is answered; a poisoned word is met and answers with EP (R448). -/
def hostFetch (s : State) (src a n : Nat) : State :=
  let s := touchRead s src a n 0
  let v := s.view 2
  match v.firstPoison a n with
  | some w => (consumePoison s src 4 w).send (.hostData (v.bytes a n) true)
  | none => s.send (.hostData (v.bytes a n) false)

/-- A held access still waits; `kept` are the earlier ones that do. -/
def heldWaits (s : State) (kept : List HeldEntry) (h : HeldEntry) : Bool :=
  match h.op with
  | .read a _ _ => ctlStops s a
  | .store a d _ => memStops s a || memStops s (a + d.length - 1)
  | .fetch a n => memStops s a || memStops s (a + n - 1)
  | .signal g _ => keyStops s (handleKey g)
  | .write a size v =>
    ctlStops s a || (s.bit CLG_CTL.MODE 0 && ((kept.any fun k => k.src == h.src) ||
      (clgFull s h.src && match regAt (a / 8 * 8) with
        | none => false
        | some (x, i) => wouldLog s h.src x i (mergeWrite s x i a size v))))

/-- A held access takes effect; STALL counts the time that the change log held a write. -/
def heldPerform (s : State) (h : HeldEntry) : State :=
  match h.op with
  | .read a size host =>
    let p := ctlRead s h.src a size
    answerRead p.1 h.src size host p.2
  | .store a d ep => performG s h.src (atAddr a d) fun _ => ep
  | .fetch a n => hostFetch s h.src a n
  | .signal g amt => unitSignal s h.src g amt
  | .write a size v =>
    let s := if h.log then s.satAdd CLG_STAT.STALL 0 ((s.totalNs - h.ns) / 1000) else s
    ctlPerform s h.src a size v false

/-- Held accesses take effect in order as what they wait for allows. -/
def releaseHeld : Nat → List HeldEntry → State → State
  | 0, kept, s => { s with held := kept ++ s.held }
  | n + 1, kept, s =>
    match s.held with
    | [] => { s with held := kept }
    | h :: r =>
      let s := { s with held := r }
      if heldWaits s kept h then releaseHeld n (kept ++ [h]) s else releaseHeld n kept (heldPerform s h)

/-- Every held access that may take effect now does. -/
def pumpHeld (s : State) : State := if s.held.isEmpty then s else releaseHeld s.held.length [] s

end Sys2Proof.Machine
end

