-- ==== Sys2Proof/Machine/Scalar.lean ====
section
/-! DEFINITION. The S-class instructions on furrow engines, solver lanes and the Ditch Rider: arithmetic, loads and
stores, branches, special registers, task entry and exit, watchdog check-ins (R37-R40, R67-R69, R74-R82, R310,
R312, R410). Every register operand is read at clause start (R53). -/

namespace Sys2Proof.Machine

/-- A core is a furrow engine: only engines consume poison in registers (R446). -/
def isEng : Core → Bool
  | .eng _ => true
  | _ => false

/-- An operand of an S-class instruction that an engine must not find poisoned; kind 1 for an address, 2 for a
branch condition, 8 for another decision operand (R74, R446, R447). -/
def useG (x : Ctx) (r : BitVec 5) (kind : Nat) : Except Hold Word :=
  if isEng x.c then cleanG x r kind else .ok (x.b.readG r).v

/-- A scalar result retires. -/
def retire (x : Ctx) (s : State) (rd : BitVec 5) (w : PWord) : Res := .ok (s.modCore x.c fun k => k.writeG rd w)

/-! ## Arithmetic and logic (R75, R76) -/

/-- rd := f(ra, rb), poisoned if a source is (R74). -/
def alu (x : Ctx) (s : State) (rd ra rb : BitVec 5) (f : Word → Word → Word) : Res :=
  retire x s rd ⟨f (x.b.readG ra).v (x.b.readG rb).v, (x.b.readG ra).p || (x.b.readG rb).p⟩

/-- rd := f(ra, sext(imm13)). -/
def alui (x : Ctx) (s : State) (rd ra : BitVec 5) (imm : BitVec 13) (f : Word → Word → Word) : Res :=
  retire x s rd ⟨f (x.b.readG ra).v (imm.signExtend 64), (x.b.readG ra).p⟩

/-- One or zero. -/
def flag (b : Bool) : Word := if b then 1 else 0

def addEff (x : Ctx) (s : State) (rd ra rb : BitVec 5) : Res := alu x s rd ra rb fun a b => a + b
def subEff (x : Ctx) (s : State) (rd ra rb : BitVec 5) : Res := alu x s rd ra rb fun a b => a - b
def andEff (x : Ctx) (s : State) (rd ra rb : BitVec 5) : Res := alu x s rd ra rb fun a b => a &&& b
def orEff (x : Ctx) (s : State) (rd ra rb : BitVec 5) : Res := alu x s rd ra rb fun a b => a ||| b
def xorEff (x : Ctx) (s : State) (rd ra rb : BitVec 5) : Res := alu x s rd ra rb fun a b => a ^^^ b

/-- A shift amount: bits [5:0]. -/
def shamt (b : Word) : Nat := b.toNat % 64

def shlEff (x : Ctx) (s : State) (rd ra rb : BitVec 5) : Res := alu x s rd ra rb fun a b => a <<< shamt b
def shrEff (x : Ctx) (s : State) (rd ra rb : BitVec 5) : Res := alu x s rd ra rb fun a b => a >>> shamt b
def sraEff (x : Ctx) (s : State) (rd ra rb : BitVec 5) : Res := alu x s rd ra rb fun a b => a.sshiftRight (shamt b)
def mulEff (x : Ctx) (s : State) (rd ra rb : BitVec 5) : Res := alu x s rd ra rb fun a b => a * b

/-- The high 64 bits of the signed 128-bit product. -/
def mulHigh (a b : Word) : Word := BitVec.ofInt 64 (a.toInt * b.toInt / 2 ^ 64)

def mulhEff (x : Ctx) (s : State) (rd ra rb : BitVec 5) : Res := alu x s rd ra rb mulHigh
def sltEff (x : Ctx) (s : State) (rd ra rb : BitVec 5) : Res := alu x s rd ra rb fun a b => flag (a.slt b)
def sltuEff (x : Ctx) (s : State) (rd ra rb : BitVec 5) : Res := alu x s rd ra rb fun a b => flag (a.ult b)
def seqEff (x : Ctx) (s : State) (rd ra rb : BitVec 5) : Res := alu x s rd ra rb fun a b => flag (a == b)

def addiEff (x : Ctx) (s : State) (rd ra : BitVec 5) (imm : BitVec 13) : Res := alui x s rd ra imm fun a b => a + b
def subiEff (x : Ctx) (s : State) (rd ra : BitVec 5) (imm : BitVec 13) : Res := alui x s rd ra imm fun a b => a - b
def andiEff (x : Ctx) (s : State) (rd ra : BitVec 5) (imm : BitVec 13) : Res := alui x s rd ra imm fun a b => a &&& b
def oriEff (x : Ctx) (s : State) (rd ra : BitVec 5) (imm : BitVec 13) : Res := alui x s rd ra imm fun a b => a ||| b
def xoriEff (x : Ctx) (s : State) (rd ra : BitVec 5) (imm : BitVec 13) : Res := alui x s rd ra imm fun a b => a ^^^ b

/-- A shift by imm13[5:0]; bits [12:6] must be 0 (R76). -/
def shiftImm (x : Ctx) (s : State) (rd ra : BitVec 5) (imm : BitVec 13) (f : Word → Nat → Word) : Res := do
  trapIf (decide (64 ≤ imm.toNat)) trIllegal
  retire x s rd ⟨f (x.b.readG ra).v (imm.toNat % 64), (x.b.readG ra).p⟩

def shliEff (x : Ctx) (s : State) (rd ra : BitVec 5) (imm : BitVec 13) : Res := shiftImm x s rd ra imm fun a n => a <<< n
def shriEff (x : Ctx) (s : State) (rd ra : BitVec 5) (imm : BitVec 13) : Res := shiftImm x s rd ra imm fun a n => a >>> n
def sraiEff (x : Ctx) (s : State) (rd ra : BitVec 5) (imm : BitVec 13) : Res :=
  shiftImm x s rd ra imm fun a n => a.sshiftRight n
def sltiEff (x : Ctx) (s : State) (rd ra : BitVec 5) (imm : BitVec 13) : Res :=
  alui x s rd ra imm fun a b => flag (a.slt b)

/-- `li rd,imm` -/
def liEff (x : Ctx) (s : State) (rd : BitVec 5) (imm : BitVec 18) : Res := retire x s rd ⟨imm.signExtend 64, false⟩

/-- `lsh rd,imm`: rd is also a source. -/
def lshEff (x : Ctx) (s : State) (rd : BitVec 5) (imm : BitVec 18) : Res :=
  retire x s rd ⟨(x.b.readG rd).v <<< 18 ||| imm.setWidth 64, (x.b.readG rd).p⟩

/-! ## Loads and stores (R46-R48, R50, R73, R74, R310, R412, R511) -/

/-- The access is to a cluster gate or check of an isolated cluster, which refuses operations (R432). -/
def isoRefuses (s : State) (a : Nat) : Bool :=
  ! s.drd.iso.isEmpty && match regAt (a / 8 * 8) with
    | some (.CST_CGATE, i) => s.drd.iso.contains (0x100 + i / 256)
    | some (.CST_CCHK0, i) => s.drd.iso.contains (0x100 + i / 64)
    | some (.CST_CCHK1, i) => s.drd.iso.contains (0x100 + i / 64)
    | _ => false

/-- The checks of a scalar access of n bytes at g[ra] + sext(imm13) × n: address poison, alignment, then reach, the
map and allotments; the address. -/
def scalarAccess (x : Ctx) (s : State) (r : Right) (ra : BitVec 5) (imm : BitVec 13) (n : Nat) : Except Hold Nat := do
  let g ← useG x ra 1
  let a := effAddr g (sext imm * n)
  trapIf (decide (a % n ≠ 0)) (trAlign a)
  trapIf (! accessOk (s.setCore x.c x.b) x.c r a n) (trAccess a)
  trapIf (decide (s.region a = .control) && isoRefuses s a) (trAccess a)
  .ok a

/-- A loaded value: n bytes, sign-extended. -/
def loaded (n v : Nat) : Word := if n = 8 then w64 v else (BitVec.ofNat 32 v).signExtend 64

/-- A scalar load of n bytes. -/
def loadEff (x : Ctx) (s : State) (rd ra : BitVec 5) (imm : BitVec 13) (n : Nat) : Res := do
  let a ← scalarAccess x s .rd ra imm n
  if s.region a = .control then
    waitIf (ctlStops s a)
    let p := ctlRead s (coreSrc x.c) a n
    retire x p.1 rd ⟨loaded n p.2.toNat, false⟩
  else
    waitIf (loadWaits x.b (span a n))
    x.lateIf (loadWaits (s.core x.c) (span a n))
    let m := coreAddr x.c a
    let r := coreRead s x.c m n
    let psn := r.2.mark m
    let t := if psn && decide (x.c = .drd) then consumePoison r.1 0xA000 6 a else r.1
    retire x t rd ⟨loaded n (r.2.load m n), psn⟩

/-- A scalar store of n bytes. -/
def storeEff (x : Ctx) (s : State) (rs ra : BitVec 5) (imm : BitVec 13) (n : Nat) : Res := do
  let a ← scalarAccess x s .wr ra imm n
  let v := x.b.readG rs
  if s.region a = .control then
    waitIf (ctlWaits s (coreSrc x.c) a n v.v)
    .ok (ctlWrite s (coreSrc x.c) a n v.v v.p)
  else
    waitIf (storeWaits x.b (span a n))
    x.lateIf (storeWaits (s.core x.c) (span a n))
    .ok (coreWrite s x.c (atAddr (coreAddr x.c a) (leBytes n v.v.toNat)) fun _ => v.p)

def ldEff (x : Ctx) (s : State) (rd ra : BitVec 5) (imm : BitVec 13) : Res := loadEff x s rd ra imm 8
def lwEff (x : Ctx) (s : State) (rd ra : BitVec 5) (imm : BitVec 13) : Res := loadEff x s rd ra imm 4
def stEff (x : Ctx) (s : State) (rs ra : BitVec 5) (imm : BitVec 13) : Res := storeEff x s rs ra imm 8
def swEff (x : Ctx) (s : State) (rs ra : BitVec 5) (imm : BitVec 13) : Res := storeEff x s rs ra imm 4

/-! ## Branches (R55, R77) -/

/-- The target of a branch: the branch instruction's address plus off18 × 4, as an address of 40 bits. -/
def target (x : Ctx) (off : BitVec 18) : Nat := (((x.addr : Int) + sext off * 4) % 2 ^ 40).toNat

/-- The core continues at an address. -/
def goTo (x : Ctx) (s : State) (a : Nat) : State := s.modCore x.c fun k => { k with pc := a }

/-- A branch on a condition of g[ra]. -/
def branchIf (x : Ctx) (s : State) (ra : BitVec 5) (off : BitVec 18) (p : Word → Bool) : Res := do
  let g ← useG x ra 2
  .ok (if p g then goTo x s (target x off) else s)

def beqzEff (x : Ctx) (s : State) (ra : BitVec 5) (off : BitVec 18) : Res := branchIf x s ra off fun a => a == 0
def bnezEff (x : Ctx) (s : State) (ra : BitVec 5) (off : BitVec 18) : Res := branchIf x s ra off fun a => a != 0
def bltzEff (x : Ctx) (s : State) (ra : BitVec 5) (off : BitVec 18) : Res := branchIf x s ra off fun a => a.msb
def bgezEff (x : Ctx) (s : State) (ra : BitVec 5) (off : BitVec 18) : Res := branchIf x s ra off fun a => ! a.msb

/-- `jal rd,label`: rd := the address of the next clause. -/
def jalEff (x : Ctx) (s : State) (rd : BitVec 5) (off : BitVec 18) : Res :=
  retire x (goTo x s (target x off)) rd ⟨w64 (s.core x.c).pc, false⟩

/-- `jr ra` -/
def jrEff (x : Ctx) (s : State) (ra : BitVec 5) : Res := do
  let g ← useG x ra 1
  trapIf (decide (g.toNat % 4 ≠ 0)) (trFetch (bitsOf g 39 0))
  .ok (goTo x s (bitsOf g 39 0))

/-! ## Special registers (R37-R40, R78, R312, R410) -/

/-- Special registers of an engine that both modes read, and those that runtime mode alone reads. VCTL reads as 0
(R10, R38). -/
def spReadable (runtime : Bool) (n : Nat) : Bool :=
  [0x000, 0x001, 0x002, 0x003, 0x004, 0x008, 0x009, 0x00A, 0x010, 0x018, 0x019, 0x01A, 0x01B].contains n ||
  (decide (0x030 ≤ n) && decide (n ≤ 0x03F)) || (runtime && decide (0x020 ≤ n) && decide (n ≤ 0x025))

/-- Special registers of an engine that a mode writes. -/
def spWritable (runtime : Bool) (n : Nat) : Bool :=
  [0x008, 0x009, 0x00A].contains n ||
  (runtime && ([0x001, 0x002, 0x003, 0x004, 0x020, 0x021, 0x022, 0x023, 0x025].contains n ||
    (decide (0x030 ≤ n) && decide (n ≤ 0x03F))))

/-- What a special register keeps of a written value: reserved bits are 0, BASE and LIMIT have their fixed low bits
(R38, R179). -/
def spStored (n : Nat) (v : Word) : Word :=
  if n = 0x008 ∨ n = 0x009 then v &&& 0x1F
  else if 0x030 ≤ n ∧ n ≤ 0x037 then v &&& maskBits 42 6
  else if 0x038 ≤ n ∧ n ≤ 0x03F then (v &&& maskBits 39 0) ||| 0x3F
  else v

/-- ENGID of an engine. -/
def engId (e : Nat) : Word := w64 (e + e / 16 * 2 ^ 8 + e / 128 * 2 ^ 12)

/-- `srd` on an engine. CYCLES counts cluster clocks, which no rule fixes: a free value (assumption log 5). -/
def engSrd (x : Ctx) (s : State) (rd : BitVec 5) (n : Nat) : Res := do
  trapIf (! spReadable x.b.runtime n) trIllegal
  trapIf (! x.b.runtime && decide (0x018 ≤ n) && decide (n ≤ 0x01B) && strictFor (s.setCore x.c x.b) x.c) trStrict
  match n with
  | 0x000 => retire x s rd ⟨engId x.e, false⟩
  | 0x010 => retire x s rd ⟨x.b.tokens, false⟩
  | 0x018 => retire x s rd ⟨w64 s.stamp, false⟩
  | 0x019 =>
    retire x (s.modCore x.c fun k => k.setSpecial 0x01A (w64 s.tb.ns)) rd ⟨w64 (s.tb.sec % 2 ^ 48), false⟩
  | 0x01B => retire x s.useFree rd ⟨s.free, false⟩
  | 0x025 => retire x s rd ⟨0, false⟩
  | n => retire x s rd ⟨x.b.special n, false⟩

/-- The problem in progress on a lane, if the core is a lane. -/
def coreProblem (s : State) : Core → Option Problem
  | .lane l => (s.lane l.val).prob
  | _ => none

/-- LANEID: lane, island, log2 of the gang size; 0 on the Ditch Rider. -/
def laneId (s : State) : Core → Word
  | .lane l => w64 (l.val + l.val / 32 * 2 ^ 6 + (gangSize s l.val).log2 * 2 ^ 7)
  | _ => 0

/-- `srd` on a lane or the Ditch Rider, whose special registers are those of R312. -/
def laneSrd (x : Ctx) (s : State) (rd : BitVec 5) (n : Nat) : Res := do
  let p := coreProblem s x.c
  let kept := (p.bind Problem.kept).isSome
  let get := fun (f : Problem → Nat) => (p.map f).getD 0
  match n with
  | 0x000 => retire x s rd ⟨laneId s x.c, false⟩
  | 0x001 => retire x s rd ⟨(p.map fun q => w64 q.desc).getD (BitVec.allOnes 64), false⟩
  | 0x003 => retire x s rd ⟨w64 (get fun q => bitsOf (q.w 1) 31 0), false⟩
  | 0x009 => retire x s rd ⟨x.b.special 0x009, false⟩
  | 0x018 =>
    trapIf (decide (x.c ≠ .drd) && laneStrict s) trStrict
    retire x s rd ⟨w64 s.stamp, false⟩
  | 0x01B => retire x s rd ⟨w64 (get Problem.clauses), false⟩
  | 0x040 => retire x s rd ⟨(p.map Problem.merit).getD f64inf, false⟩
  | 0x041 =>
    retire x s rd ⟨w64 ((if kept then 1 else 0) + (get fun q => if q.seed then 2 else 0) +
      (get Problem.retained) % 2 ^ 16 * 2 ^ 16 + (get Problem.offers) % 2 ^ 16 * 2 ^ 32), false⟩
  | 0x042 =>
    retire x s rd ⟨w64 ((get fun q => if q.warm then 1 else 0) + (get fun q => if q.rejected then 2 else 0) +
      (get Problem.pivots) % 2 ^ 16 * 2 ^ 16), false⟩
  | _ => raise trIllegal

/-- `srd rd,name` -/
def srdEff (x : Ctx) (s : State) (rd : BitVec 5) (num : BitVec 12) : Res :=
  if isEng x.c then engSrd x s rd num.toNat else laneSrd x s rd num.toNat

/-- `swr name,ra` with VCTL discards the verbs in flight when bit 0 is 1 (R62). -/
def vctlWrite (x : Ctx) (s : State) (v : Word) : State := if v.getLsbD 0 then abortEngineVerbs s x.e else s

/-- `swr` on an engine (R38, R39, R78). DESIGN CHOICE: a reserved value of FMODE in a poisoned source register is ILLEGAL,
not POISON: the spec gives the two checks no order (assumption log 13). -/
def engSwr (x : Ctx) (s : State) (n : Nat) (ra : BitVec 5) : Res := do
  trapIf (! spWritable x.b.runtime n) trIllegal
  trapIf (decide (n = 0x008) && decide (5 ≤ bitsOf (x.b.readG ra).v 2 0)) trIllegal
  let v ← cleanG x ra 8
  .ok (if n = 0x025 then vctlWrite x s v else s.modCore x.c fun k => k.setSpecial n (spStored n v))

/-- `swr` on a lane or the Ditch Rider: only FFLAGS is writable. -/
def laneSwr (x : Ctx) (s : State) (n : Nat) (ra : BitVec 5) : Res := do
  trapIf (decide (n ≠ 0x009)) trIllegal
  .ok (s.modCore x.c fun k => k.setSpecial 0x009 (spStored 0x009 (x.b.readG ra).v))

/-- `swr name,ra` -/
def swrEff (x : Ctx) (s : State) (num : BitVec 12) (ra : BitVec 5) : Res :=
  if isEng x.c then engSwr x s num.toNat ra else laneSwr x s num.toNat ra

/-- `swr VCTL,ra` -/
def vctlAbortEff (x : Ctx) (s : State) (ra : BitVec 5) : Res := engSwr x s 0x025 ra

/-! ## Task entry (R67, R79, R138) -/

/-- A read of `disp` lies within the engine's reach (R79). -/
def dispReach (s : State) (e : Fin 256) (a n : Nat) : Bool :=
  decide (n = 0) || (engineReaches e.val false (s.region a) && decide (s.region (a + n - 1) = s.region a))

/-- The poisoned word that `disp` meets first: the descriptor but for ARG0-ARG7, the nouns, the allotments. -/
def dispPoison (v : State) (a ntp nc altp ac : Nat) : Option Nat :=
  let ws := ([0, 1] ++ upFrom 10 6).map (fun i => a + 8 * i)
  let ws := ws ++ (upFrom 0 (8 * nc)).map (fun i => ntp + 8 * i) ++ (upFrom 0 (2 * ac)).map fun i => altp + 8 * i
  ws.find? v.mark

/-- The active grid tables: FE_GRID as it stands (R138). -/
def gridOf (s : State) (e : Nat) : Tab Nat :=
  forL (upFrom 0 128) (fun i g =>
    tput (fun k => gridLevels.getD (k % 16) 0) g i (bitsOf (s.reg .FE_GRID (32 * e + i / 4)) (16 * (i % 4) + 15) (16 * (i % 4))))
    []

/-- The engine state at task entry (R67). -/
def taskEntry (s v : State) (e a : Nat) (k : CoreSt) : CoreSt :=
  let w := fun i => v.word (a + 8 * i)
  let ntp := bitsOf (w 1) 39 0
  let altp := bitsOf (w 10) 39 0
  let g := forL (upFrom 0 8) (fun i (k : CoreSt) =>
    k.writeG (BitVec.ofNat 5 (i + 1)) ⟨w (2 + i), v.mark (a + 16 + 8 * i)⟩)
    ({ runtime := false, state := k.state, pc := bitsOf (w 0) 39 0, stream := k.stream, lastCause := k.lastCause,
       lastEpc := k.lastEpc, fence := k.fence, sync := k.sync, moves := k.moves, grid := gridOf s e } : CoreSt)
  let g := g.writeG 9 ⟨w64 a, false⟩
  let g := forL (upFrom 0 (bitsOf (w 0) 46 40)) (fun i (k : CoreSt) => k.setNoun i (v.words (ntp + 64 * i) 8)) g
  let g := forL [0x020, 0x021, 0x022, 0x023, 0x024] (fun n (q : CoreSt) => q.setSpecial n (k.special n)) g
  let g := forL (upFrom 0 8) (fun i (k : CoreSt) =>
    if i < bitsOf (w 10) 43 40 then
      (k.setSpecial (0x030 + i) (spStored (0x030 + i) (v.word (altp + 16 * i)))).setSpecial (0x038 + i)
        (spStored (0x038 + i) (v.word (altp + 16 * i + 8)))
    else (k.setSpecial (0x030 + i) 0).setSpecial (0x038 + i) 0x3F) g
  ((((g.setSpecial 0x001 (w64 a)).setSpecial 0x002 (w64 ntp)).setSpecial 0x003 (w64 (bitsOf (w 13) 31 0))).setSpecial
    0x004 (w64 (bitsOf (w 11) 15 0))).setSpecial 0x008 (w64 (bitsOf (w 11) 20 16)) |>.setSpecial 0x009 0
    |>.setSpecial 0x00A (w 12)

/-- The checks of `disp` (R79): the state after its reads, what they see, and the descriptor's address. Verbs of
runtime mode are complete first (assumption log 49). -/
def dispChecks (x : Ctx) (s : State) (e : Fin 256) (ra : BitVec 5) : Except Hold (State × State × Nat) := do
  trapIf (! x.b.runtime) trIllegal
  let g ← cleanG x ra 1
  let a := g.toNat
  trapIf (decide (a % 128 ≠ 0)) (trAlign a)
  trapIf (! dispReach s e a 128) (trAccess a)
  let s := touchRead s e.val a 128 0
  let v := s.view (dieOf e.val)
  let ws := v.words a 16
  let w := fun i => ws.getD i 0
  let ntp := bitsOf (w 1) 39 0
  let nc := bitsOf (w 0) 46 40
  let altp := bitsOf (w 10) 39 0
  let ac := bitsOf (w 10) 43 40
  trapIf (! dispReach s e ntp (64 * nc)) (trAccess ntp)
  trapIf (! dispReach s e altp (16 * ac)) (trAccess altp)
  trapIf (taskBad ws) trIllegal
  let s := touchRead (touchRead s e.val ntp (64 * nc) 0) e.val altp (16 * ac) 0
  let v := s.view (dieOf e.val)
  match dispPoison v a ntp nc altp ac with
  | some p => .error (.trap (trPoisonWord p 1))
  | none =>
    waitIf (! x.b.inFlight.isEmpty)
    .ok (s, v, a)

/-- `disp ra`, after the other instructions of its clause: a verb that its clause issued is discarded. -/
def dispEff (x : Ctx) (s : State) (e : Fin 256) (ra : BitVec 5) : Res := do
  let p ← dispChecks x s e ra
  let s := if (s.core x.c).inFlight.isEmpty then p.1 else abortEngineVerbs p.1 e.val
  .ok (s.modCore x.c fun k => taskEntry s p.2.1 e.val p.2.2 k)

/-! ## Task exit (R61, R69, R80, R81) -/

/-- The engine's verbs in flight and moves are complete. -/
def engineQuiet (s : State) (e : Fin 256) (k : CoreSt) : Bool := k.inFlight.isEmpty && (engineMoves s e).isEmpty

/-- The exit of a task at a clause that ended: EXIT, EPC, ECAUSE, EDETAIL, and runtime mode at TRAPVEC. Slots are
freed, the flags of unconsumed verbs go into FFLAGS. `pc` is the address of the next clause. -/
def taskExit (k : CoreSt) (pc : Nat) (xval : Nat) (detail : Word) : CoreSt :=
  let vs := k.verbs
  let k := forL vs (fun v (q : CoreSt) => (q.setSlot v.1 none).orFlags (statusFlags v.2.status)) k
  let exit := xval % 2 ^ 32 + bitsOf (k.special 0x009) 4 0 * 2 ^ 32 + vs.length * 2 ^ 40
  let k := ((((k.setSpecial 0x024 (w64 exit)).setSpecial 0x020 (w64 pc)).setSpecial 0x021 0).setSpecial 0x022 detail)
  { k with runtime := true, pc := bitsOf (k.special 0x023) 39 0, ending := none }

/-- An unconsumed verb that read poison through a noun with PSN 1 (R87). DESIGN CHOICE: of several, the one in the lowest
slot (assumption log 13). -/
def unreadPoison (k : CoreSt) : Option Nat := (k.verbs.findSome? fun v => v.2.psn)

/-- `yield` writes g1-g8 and the next clause's address into the descriptor (R81). -/
def saveArgs (s : State) (e : Fin 256) (gs : List PWord) (pc : Nat) : State :=
  let d := bitsOf ((s.core (.eng e)).special 0x001) 39 0
  if ! dispReach s e d 128 then s
  else
    let s := engineWrite s e.val (atAddr (d + 16) (gs.flatMap fun g => leBytes 8 g.v.toNat)) fun w =>
      (gs.getD (w - (d + 16) / 8) {}).p
    let v := s.view (dieOf e.val)
    engineWrite s e.val (atAddr d (leBytes 8 (putBits (v.word d) 39 0 pc).toNat)) fun _ => v.mark d

/-- A `tend` or `yield` of an engine completes. -/
def finishTask (s : State) (e : Fin 256) (yields : Bool) (vals : List PWord) (pc : Nat) : State :=
  let s := if yields then saveArgs s e vals pc else s
  s.modCore (.eng e) fun k =>
    taskExit k pc (if yields then 0 else (vals.getD 0 {}).v.toNat) (if yields then 1 else 0)

/-- `tend` and `yield`, after the other instructions of their clause: they wait for the verbs and moves issued
before the clause, and complete once those of the clause itself are done. -/
def endTask (x : Ctx) (s : State) (e : Fin 256) (yields : Bool) (vals : List PWord) : Res := do
  trapIf x.b.runtime trIllegal
  waitIf (! x.b.inFlight.isEmpty)
  let old := (engineMoves s e).filter fun m => match m.2.2.origin with
    | .engine _ n => decide (n < x.b.moves)
    | _ => false
  waitIf (! old.isEmpty)
  let k := s.core x.c
  if engineQuiet s e k then
    match unreadPoison k with
    | some n => raise (trPoisonNoun n)
    | none => .ok (finishTask s e yields vals k.pc)
  else .ok (s.setCore x.c { k with ending := some (yields, vals, x.b.pc) })

/-- `tend ra` -/
def tendEff (x : Ctx) (s : State) (e : Fin 256) (ra : BitVec 5) : Res := endTask x s e false [x.b.readG ra]

/-- `yield` -/
def yieldEff (x : Ctx) (s : State) (e : Fin 256) : Res :=
  endTask x s e true ((upFrom 1 8).map fun i => x.b.readG (BitVec.ofNat 5 i))

/-! ## Watchdog check-ins (R82, R420) -/

/-- `stage ra` -/
def stageEff (x : Ctx) (s : State) (ra : BitVec 5) : Res := do
  let v ← useG x ra 8
  trapIf (decide (64 ≤ v.toNat)) trIllegal
  .ok (checkIn s v.toNat (coreSrc x.c))

end Sys2Proof.Machine
end

