-- ==== Sys2Proof/Machine/Issue.lean ====
section
/-! DEFINITION. The issue of clauses, taking a fault, and what happens of itself at the end of a command (R51-R56,
R63-R66, R313, R409, R414). A command that is an instruction adds it to its core's stream; a clause issues once it is
whole and nothing holds it. -/

namespace Sys2Proof.Machine

/-- An instruction that only furrow engines have; elsewhere it is ILLEGAL (R310, R410). -/
def onEngine (c : Core) (f : Fin 256 → Res) : Res :=
  match c with
  | .eng e => f e
  | _ => raise trIllegal

/-- The effect of an instruction at its place in its clause. -/
def effect (x : Ctx) (s : State) : Instr → Res
  | .add _ rd ra rb _ => addEff x s rd ra rb
  | .sub _ rd ra rb _ => subEff x s rd ra rb
  | .and _ rd ra rb _ => andEff x s rd ra rb
  | .or _ rd ra rb _ => orEff x s rd ra rb
  | .xor _ rd ra rb _ => xorEff x s rd ra rb
  | .shl _ rd ra rb _ => shlEff x s rd ra rb
  | .shr _ rd ra rb _ => shrEff x s rd ra rb
  | .sra _ rd ra rb _ => sraEff x s rd ra rb
  | .mul _ rd ra rb _ => mulEff x s rd ra rb
  | .mulh _ rd ra rb _ => mulhEff x s rd ra rb
  | .slt _ rd ra rb _ => sltEff x s rd ra rb
  | .sltu _ rd ra rb _ => sltuEff x s rd ra rb
  | .seq _ rd ra rb _ => seqEff x s rd ra rb
  | .addi _ rd ra imm _ => addiEff x s rd ra imm
  | .subi _ rd ra imm _ => subiEff x s rd ra imm
  | .andi _ rd ra imm _ => andiEff x s rd ra imm
  | .ori _ rd ra imm _ => oriEff x s rd ra imm
  | .xori _ rd ra imm _ => xoriEff x s rd ra imm
  | .shli _ rd ra imm _ => shliEff x s rd ra imm
  | .shri _ rd ra imm _ => shriEff x s rd ra imm
  | .srai _ rd ra imm _ => sraiEff x s rd ra imm
  | .slti _ rd ra imm _ => sltiEff x s rd ra imm
  | .ld _ rd ra imm _ => ldEff x s rd ra imm
  | .lw _ rd ra imm _ => lwEff x s rd ra imm
  | .st _ rs ra imm _ => stEff x s rs ra imm
  | .sw _ rs ra imm _ => swEff x s rs ra imm
  | .li _ rd imm _ => liEff x s rd imm
  | .lsh _ rd imm _ => lshEff x s rd imm
  | .beqz _ ra off _ => beqzEff x s ra off
  | .bnez _ ra off _ => bnezEff x s ra off
  | .bltz _ ra off _ => bltzEff x s ra off
  | .bgez _ ra off _ => bgezEff x s ra off
  | .jal _ rd off _ => jalEff x s rd off
  | .jr _ ra _ => jrEff x s ra
  | .srd _ rd num _ => srdEff x s rd num
  | .swr _ num ra _ => swrEff x s num ra
  | .vctlAbort _ ra _ => vctlAbortEff x s ra
  | .disp c ra _ => onEngine c fun e => dispEff x s e ra
  | .tend c ra _ => onEngine c fun e => tendEff x s e ra
  | .yield c _ => onEngine c fun e => yieldEff x s e
  | .stage _ ra _ => stageEff x s ra
  | .vadd c vd va vb et pg bad _ => onEngine c fun _ => vecBin .add x s vd va vb et pg bad
  | .vsub c vd va vb et pg bad _ => onEngine c fun _ => vecBin .sub x s vd va vb et pg bad
  | .vmul c vd va vb et pg bad _ => onEngine c fun _ => vecBin .mul x s vd va vb et pg bad
  | .vmin c vd va vb et pg _ => onEngine c fun _ => vecBin .min x s vd va vb et pg 0
  | .vmax c vd va vb et pg _ => onEngine c fun _ => vecBin .max x s vd va vb et pg 0
  | .vdiv c vd va vb et pg _ => onEngine c fun _ => vecF32 x s vd [va, vb] et pg fun md l => fDiv .f32 md (l.getD 0 0) (l.getD 1 0)
  | .vsqrt c vd va et pg _ => onEngine c fun _ => vecF32 x s vd [va] et pg fun md l => fSqrt .f32 md (l.getD 0 0)
  | .vfmaF32 c vd va vb vc pg bad _ => onEngine c fun _ => vecFma .f32 x s vd va vb vc pg bad
  | .vfmaBf16 c vd va vb vc pg bad _ => onEngine c fun _ => vecFma .bf16 x s vd va vb vc pg bad
  | .vfmaF16 c vd va vb vc pg bad _ => onEngine c fun _ => vecFma .f16 x s vd va vb vc pg bad
  | .vfmaF64 c vd va vb vc pg bad _ => onEngine c fun _ => vecFma .f64 x s vd va vb vc pg bad
  | .vand c vd va vb pg _ => onEngine c fun _ => vecBit (fun a b => a &&& b) x s vd va vb pg
  | .vor c vd va vb pg _ => onEngine c fun _ => vecBit (fun a b => a ||| b) x s vd va vb pg
  | .vxor c vd va vb pg _ => onEngine c fun _ => vecBit (fun a b => a ^^^ b) x s vd va vb pg
  | .vcmp c pd va vb cc et bad _ => onEngine c fun _ => vecCmp x s pd va vb cc et bad
  | .popAnd c pd pa pb _ => onEngine c fun _ => predOp (fun a b => a &&& b) x s pd pa pb
  | .popOr c pd pa pb _ => onEngine c fun _ => predOp (fun a b => a ||| b) x s pd pa pb
  | .popXor c pd pa pb _ => onEngine c fun _ => predOp (fun a b => a ^^^ b) x s pd pa pb
  | .popAndn c pd pa pb _ => onEngine c fun _ => predOp (fun a b => a &&& ~~~b) x s pd pa pb
  | .popNot c pd pa _ => onEngine c fun _ => predOp (fun a _ => ~~~a) x s pd pa pa
  | .vld c vd ga pg off _ => onEngine c fun e => vecLoad x s e vd ga pg off
  | .vst c vs ga pg off _ => onEngine c fun e => vecStore x s e vs ga pg off
  | .vbcast c vd ga et _ => onEngine c fun _ => vecBcast x s vd ga et
  | .vget c gd va gi et _ => onEngine c fun _ => vecGet x s gd va gi et
  | .vcvt c vd va dst src _ => onEngine c fun _ => vecCvt x s vd va dst src
  | .pmovTo c pd ga _ => onEngine c fun _ => pmovTo x s pd ga
  | .pmovFrom c gd pa _ => onEngine c fun _ => pmovFrom x s gd pa
  | .mma c gt acc na nb _ => onEngine c fun e => mmaIssue x s e false gt acc na nb
  | .mmaSet c gt acc na nb _ => onEngine c fun e => mmaIssue x s e true gt acc na nb
  | .conv c gt nd na nb _ => onEngine c fun e => convIssue x s e false false gt nd na nb
  | .convAccumulate c gt nd na nb _ => onEngine c fun e => convIssue x s e true false gt nd na nb
  | .dwconv c gt nd na nb _ => onEngine c fun e => convIssue x s e false true gt nd na nb
  | .dwconvAccumulate c gt nd na nb _ => onEngine c fun e => convIssue x s e true true gt nd na nb
  | .attn c gt nd na nb _ => onEngine c fun e => attnIssue x s e false gt nd na nb
  | .attnRecompute c gt nd na nb _ => onEngine c fun e => attnIssue x s e true gt nd na nb
  | .smax c gt nd na nb _ => onEngine c fun e => smaxIssue x s e false gt nd na nb
  | .smaxFromStats c gt nd na nb _ => onEngine c fun e => smaxIssue x s e true gt nd na nb
  | .normLayer c gt nd na nb _ => onEngine c fun e => normIssue x s e false gt nd na nb
  | .normRms c gt nd na nb _ => onEngine c fun e => normIssue x s e true gt nd na nb
  | .crop c gt nd na nb _ => onEngine c fun e => cropIssue x s e gt nd na nb
  | .gath c gt nd na nb _ => onEngine c fun e => gathIssue x s e gt nd na nb
  | .scatStore c gt nd na nb _ => onEngine c fun e => scatIssue x s e 0 gt nd na nb
  | .scatAdd c gt nd na nb _ => onEngine c fun e => scatIssue x s e 1 gt nd na nb
  | .scatAtomicAdd c gt nd na nb _ => onEngine c fun e => scatIssue x s e 2 gt nd na nb
  | .cvt c gt nd na _ => onEngine c fun e => cvtIssue x s e gt nd na
  | .cvtFromAccumulator c gt nd acc _ => onEngine c fun e => cvtAccIssue x s e gt nd acc
  | .arv c vd acc gr _ => onEngine c fun _ => arvEff x s vd acc gr
  | .awv c acc vs gr _ => onEngine c fun _ => awvEff x s acc vs gr
  | .azro c acc t _ => onEngine c fun _ => azroEff x s acc t
  | .waitv c gd gk _ => onEngine c fun _ => waitvEff x s gd gk
  | .move c nd na gr _ => onEngine c fun e => moveEff x s e nd na gr
  | .pref c na _ => onEngine c fun _ => prefEff x s na
  | .nld c nd gr _ => onEngine c fun e => nldEff x s e nd gr
  | .nst c na gr _ => onEngine c fun e => nstEff x s e na gr
  | .nrd c gr na w _ => onEngine c fun _ => nrdEff x s gr na w
  | .nwr c nd w gr _ => onEngine c fun _ => nwrEff x s nd w gr
  | .nadd c nd na gr _ => onEngine c fun _ => naddEff x s nd na gr
  | .gsig c ga gb _ => onEngine c fun e => gsigEff x s e ga gb
  | .gwait c ga gb _ => onEngine c fun e => gwaitEff x s e ga gb
  | .chka c ga _ => onEngine c fun e => chkaEff x s e ga
  | .post c ga gb _ => onEngine c fun e => postEff x s e ga gb
  | .fenceRel c _ => onEngine c fun e => fenceRelEff x s e
  | .fenceAcq c _ => onEngine c fun _ => fenceAcqEff x s
  | .snext l gd _ => snextIssue l.val gd s
  | .prim l gd ga _ => primIssue l.val x.b gd ga s
  | .keep l ga _ => keepIssue l.val x.b ga s
  | .sdone l ga gb _ => sdoneIssue l.val x.b ga gb s
  | .dnext gd _ => dnextEff x s gd
  | .dverd ga gb _ => dverdEff x s ga gb
  | .dflag ga gb _ => dflagEff x s ga gb
  | .dpet _ => .ok (fwPet s)
  | _ => .ok s

/-- Task entry and exit take effect after the other instructions of their clause (R55, R67, R69). -/
def isFinal : Instr → Bool
  | .disp .. | .tend .. | .yield .. => true
  | _ => false

/-- The instructions of a clause with their positions, in the order in which they take effect: clause order, task entry
and exit last (R54, R73). -/
def clauseOrder (is : List Instr) : List (Nat × Instr) :=
  let l := (upFrom 0 is.length).zip is
  l.filter (fun i => ! isFinal i.2) ++ l.filter fun i => isFinal i.2

/-- What is left of a clause, with the registers it reads. -/
def restOf (b : CoreSt) (l : List (Nat × Instr)) : ClauseRest := ⟨b.g, b.v, b.p, b.n, b.sp, b.pc, l⟩

/-- The core as an issued clause's remaining instructions see it: registers as at clause start, verbs as now. -/
def atClause (k : CoreSt) (r : ClauseRest) : CoreSt :=
  { k with g := r.g, v := r.v, p := r.p, n := r.n, sp := r.sp, pc := r.pc, rest := none }

/-- The effects of the instructions of a clause; a hold names its position. DESIGN CHOICE: of several instructions that fault, the
first in this order faults, and `disp`, `tend` and `yield` come last (R63 gives no order; assumption log 13). From the first instruction that waits for its own clause, the rest is
kept for later (R50, R73). -/
def runClause (calm dry : Bool) (c : Core) (b : CoreSt) : List (Nat × Instr) → State → Except (Hold × Nat) State
  | [], s => .ok s
  | p :: r, s =>
    match effect ⟨c, p.1, b, calm, dry⟩ s p.2 with
    | .ok s => runClause calm dry c b r s
    | .error .late => .ok (s.modCore c fun k => { k with rest := some (restOf b (p :: r)) })
    | .error h => .error (h, p.1)

/-! ## Fetch and form of a clause (R46, R47, R51, R52) -/

/-- The word of an instruction. -/
def wordOf (i : Instr) : Nat := ((instrInfo i).map InstrInfo.word).getD 0

/-- The class of an instruction. -/
def clsOf (i : Instr) : Option Cls := (instrInfo i).map InstrInfo.cls

/-- The instruction ends its clause. -/
def isStop (i : Instr) : Bool := ((instrInfo i).map InstrInfo.stop).getD true

/-- The clause at the head of a stream, once it is whole: up to the first stop bit, or four words. -/
def headClause : Nat → List Instr → Option (List Instr)
  | 0, _ => some []
  | _ + 1, [] => none
  | n + 1, i :: r => if isStop i then some [i] else (headClause n r).map (i :: ·)

/-- The fault of fetching the word at an address (R47, R63). DESIGN CHOICE: each 4-byte word is checked apart, so a clause
over two adjoining executable allotments passes (assumption log 13). -/
def fetchTrap (s v : State) (c : Core) (a : Nat) : Option Trap :=
  let ok := accessOk s c .ex a 4 && decide (s.region a ≠ .control)
  if a % 4 ≠ 0 || ! ok then some (trFetch a)
  else if isEng c && v.mark a then some (trPoisonWord a 9)
  else none

/-- A source and destination type that `vcvt` converts between (R85). -/
def cvtTypes (dst src : BitVec 5) : Bool :=
  match elTy src, cvtDst dst with
  | some a, some b => (cvtEl (CoreSt.mode {}) b.2 a b.1).isSome
  | _, _ => false

/-- The word is ILLEGAL on its core whatever the state: a reserved encoding, a non-zero reserved field, or a type that
the instruction does not accept (R52, R71, R72, R83, R84, R310, R410). -/
def wordBad (i : Instr) : Bool :=
  match i with
  | .shli _ _ _ imm _ | .shri _ _ _ imm _ | .srai _ _ _ imm _ => decide (64 ≤ imm.toNat)
  | .disp c _ _ | .tend c _ _ | .yield c _ => ! isEng c
  | i =>
    match instrInfo i with
    | none => false
    | some f =>
      if decide (f.cls = .s) then false
      else ! isEng f.core ||
        match i with
        | .vadd _ _ _ _ et _ _ _ | .vsub _ _ _ _ et _ _ _ | .vmul _ _ _ _ et _ _ _ | .vmin _ _ _ _ et _ _
        | .vmax _ _ _ _ et _ _ => (arithTy et).isNone
        | .vdiv _ _ _ _ et _ _ | .vsqrt _ _ _ et _ _ => decide (et ≠ 0)
        | .vcmp _ _ _ _ cc et _ _ => ! ((arithTy et).map (ccOk cc.toNat)).getD false
        | .vbcast _ _ _ et _ | .vget _ _ _ _ et _ => (elTy et).isNone
        | .vcvt _ _ _ dst src _ => ! cvtTypes dst src
        | _ => false

/-- Position of the first instruction that makes its clause ILLEGAL: by its class, which an earlier one has, or by its
word. -/
def repeated : Nat → List Cls → List Instr → Option Nat
  | _, _, [] => none
  | pos, seen, i :: r =>
    match clsOf i with
    | none => repeated (pos + 1) seen r
    | some k => if seen.contains k || wordBad i then some pos else repeated (pos + 1) (k :: seen) r

/-- The fault of a clause before any of its instructions takes effect, with the position of its word and whether no
stop bit was found. -/
def clauseTrap (s : State) (c : Core) (pc : Nat) (is : List Instr) : Option (Trap × Nat × Bool) :=
  let v := s.view (corePt c)
  match (upFrom 0 is.length).findSome? fun i => fetchTrap s v c (pc + 4 * i) with
  | some t => some (t, 0, false)
  | none =>
    if ! is.any isStop then some (trIllegal, 3, true)
    else (repeated 0 [] is).map fun p => (trIllegal, p, false)

/-! ## Taking a fault (R63-R66, R313, R409) -/

/-- EDETAIL of a fault at an instruction word (R63). -/
def faultDetail (t : Trap) (word pos : Nat) (noStop : Bool) : Word :=
  if t.cls = 1 then w64 (word + pos * 2 ^ 32 + if noStop then 2 ^ 34 else 0)
  else if t.cls = 9 then w64 word
  else t.detail

/-- An engine takes a fault at its present clause: EPC, ECAUSE and EDETAIL are written, and it continues in runtime
mode at TRAPVEC; in runtime mode it becomes FAILED. -/
def engineFault (s : State) (e : Nat) (t : Trap) (detail : Word) : State :=
  let k := s.core (engine e)
  let q := ((k.setSpecial 0x020 (w64 k.pc)).setSpecial 0x021 (w64 (t.cls + t.reason * 2 ^ 8))).setSpecial 0x022 detail
  let q : CoreSt := { q with lastCause := t.cls, lastEpc := k.pc, runtime := true, pc := bitsOf (k.special 0x023) 39 0, stream := [], waiting := false, arrived := false, granted := false, gated := false, ending := none, rest := none }
  let s := s.setCore (engine e) (if k.runtime then { q with state := 3, pc := k.pc } else q)
  let s := match t.psn with
    | some (kind, a) => consumePoison s e kind a
    | none => s
  let s := event s (engineQ s e) (if k.runtime then 0x0011 else 0x0010) e (k.pc % 2 ^ 40 + t.cls * 2 ^ 40)
  if k.runtime then detect s 6 e else s

/-- The Ditch Rider's fault is a detection of class 1; it keeps its place and drops what it had received. -/
def drdFault (s : State) : State :=
  detect (s.modCore .drd fun k => { k with stream := [], waiting := false }) 1 0xA000

/-- A core takes a fault at its present clause. -/
def takeFault (s : State) (c : Core) (t : Trap) (word pos : Nat) (noStop : Bool) : State :=
  match c with
  | .eng e => engineFault s e.val t (faultDetail t word pos noStop)
  | .lane l => laneFault s l.val t (s.core c).pc
  | .drd => drdFault s

/-! ## Issue (R53-R56, R102, R103, R521) -/

/-- The gate or check that a clause waits at, from its `gwait` or `chka`: arrival of the engine there. -/
def arrival (x : Ctx) (s : State) (is : List Instr) : Option State :=
  is.findSome? fun i => match i with
    | .gwait (.eng e) ga gb _ => match gwaitArgs x e ga gb with
      | .ok p => some (waitGate s p.1 e.val p.2 x.b.pc)
      | .error _ => none
    | .chka (.eng e) ga _ => match chkaArgs x s e ga with
      | .ok k => some (arriveCheck s k e.val x.b.pc)
      | .error _ => none
    | _ => none

/-- The clause takes or dispatches a task: what ends the drain of an engine in runtime mode (R521). -/
def takesTask (s : State) (e : Fin 256) (b : CoreSt) (is : List Instr) : Bool :=
  let at_ := fun (ra : BitVec 5) (imm : BitVec 13) (n : Nat) =>
    let a := effAddr (b.readG ra).v (sext imm * n)
    decide (s.region a = .control) && match regAt (a / 8 * 8) with
      | some (.FE_TQ_TAKE, i) => i == e.val
      | _ => false
  is.any fun i => match i with
    | .disp .. => true
    | .ld _ _ ra imm _ => at_ ra imm 8
    | .lw _ _ ra imm _ => at_ ra imm 4
    | _ => false

/-- The instruction waits at a gate or check. -/
def atGate : Instr → Bool
  | .gwait .. | .chka .. => true
  | _ => false

/-- The clause is held: its core waits, and since when at a gate or check. -/
def holdClause (s : State) (c : Core) (is : List Instr) : Option State :=
  if (s.core c).waiting then none
  else some (s.modCore c fun k => { k with waiting := true, gateSince := if is.any atGate then some s.totalNs else none })

/-- The core as a clause of n words leaves it before its effects: the clause gone from the stream, pc at the next
clause, no wait. -/
def afterClause (b : CoreSt) (n : Nat) : CoreSt :=
  { b with stream := b.stream.drop n, pc := (b.pc + 4 * n) % 2 ^ 40, waiting := false, arrived := false,
           granted := false, gated := false, gateSince := none }

/-- A whole clause issues, takes its fault, or is held; none when it stays held. -/
def issueClause (s : State) (c : Core) (is : List Instr) : Option State :=
  let b := s.core c
  let calm := storesAccepted s (coreKey c)
  let t := if b.waiting then s else touchRead s (coreSrc c) (coreAddr c b.pc) (4 * is.length) 0
  match clauseTrap t c b.pc is with
  | some f => some (takeFault t c f.1 (wordOf (is.getD f.2.1 .timebaseTick)) f.2.1 f.2.2)
  | none =>
    let u := t.setCore c (afterClause b is.length)
    let go := fun dry => runClause calm dry c b (clauseOrder is) u
    let r := match go false with
      | .ok v => if (v.core c).rest.isSome then (go true).map fun _ => v else .ok v
      | r => r
    match r with
    | .error (.trap f, p) => some (takeFault t c f (wordOf (is.getD p .timebaseTick)) p false)
    | .error _ => holdClause t c is
    | .ok u =>
      if b.granted then some u
      else
        let w := t.modCore c fun k => { k with waiting := true, arrived := true, gateSince := some (if k.waiting then k.gateSince.getD t.totalNs else t.totalNs) }
        some ((arrival ⟨c, 0, b, calm, false⟩ w is).getD u)

/-- A `tend` or `yield` whose clause has issued completes once its own verbs and moves have. -/
def pumpEnding (s : State) (e : Fin 256) (yields : Bool) (vals : List PWord) (a : Nat) : Option State :=
  let k := s.core (.eng e)
  if ! engineQuiet s e k then none
  else match unreadPoison k with
    | some n =>
      let s := s.setCore (.eng e) { k with pc := a }
      some (engineFault s e.val (trPoisonNoun n) (trPoisonNoun n).detail)
    | none => some (finishTask s e yields vals k.pc)

/-- What is left of an issued clause goes on as far as it can. -/
def pumpRest (s : State) (c : Core) (r : ClauseRest) : Option State :=
  let t := s.modCore c fun k => { k with rest := none }
  let word := fun p => ((r.instrs.find? fun i => i.1 == p).map fun i => wordOf i.2).getD 0
  match runClause (storesAccepted s (coreKey c)) false c (atClause (s.core c) r) r.instrs t with
  | .ok u =>
    if ((u.core c).rest.map fun q => q.instrs.length) = some r.instrs.length then none else some u
  | .error (.trap f, p) => some (takeFault (t.modCore c fun k => { k with pc := r.pc }) c f (word p) p false)
  | .error _ => none

/-- The clause at the head of an engine's stream; one that has arrived at a gate or check is held until it is let
go. -/
def pumpEngine (s : State) (e : Fin 256) : Option State :=
  let k := s.core (.eng e)
  match k.rest, k.ending with
  | some r, _ => pumpRest s (.eng e) r
  | none, some w => pumpEnding s e w.1 w.2.1 w.2.2
  | none, none => (headClause 4 k.stream).bind fun is =>
    if k.arrived && ! k.granted then none
    else if decide (k.state = 1) && k.runtime && takesTask s e k is then some (engineDrained s e.val)
    else issueClause s (.eng e) is

/-- The instruction begins a problem. -/
def beginsProblem : Instr → Bool
  | .snext .. => true
  | _ => false

/-- The copy of an offer ends with the command after its `keep`, unless a preemption has come first (R322, R324;
assumption log 46). -/
def pumpKeep (s : State) (l : Nat) (k : KeepRun) : Option State :=
  if k.turn = s.turn then none
  else if (preempted s l).isSome then some (preempt s l)
  else some (keepEnded (keepDone s l) l)

/-- The clause at the head of a lane's stream: a member issues none, and none issues while a primitive or a `keep` runs; a deadline or budget already
reached ends the problem first; a waiting `snext` refuses what cannot begin (R308, R316, R324, R326). -/
def pumpLane (s : State) (l : Fin 64) : Option State :=
  match (s.lane l.val).keep with
  | some k => pumpKeep s l.val k
  | none =>
  if (s.lane l.val).run.isSome || isMember s l.val then none
  else (headClause 4 (s.core (.lane l)).stream).bind fun is =>
    if (preempted s l.val).isSome then some (preempt s l.val)
    else
      let had := (s.lane l.val).prob
      let begins := is.any beginsProblem
      let t := if begins && had.isNone then refusePosted l.val (s.lane l.val).fifo s else s
      if (t.lane l.val).fifo.length < (s.lane l.val).fifo.length then some t
      else (issueClause t (.lane l) is).map fun u => laneRetire u l.val had

/-- The island of a core is in reset (R485). -/
def coreHeld (s : State) : Core → Bool
  | .eng e => s.bit WTM_ISL.INRST (islandOf (e.val / 16))
  | .lane l => s.bit WTM_ISL.INRST (30 + l.val / 32)
  | .drd => false

/-- A core does what it can do next; none when it can do nothing. -/
def pumpCore (s : State) (c : Core) : Option State :=
  if coreHeld s c then none
  else match c with
  | .eng e => pumpEngine s e
  | .lane l => pumpLane s l
  | .drd => (headClause 4 (s.core .drd).stream).bind fun is => issueClause s .drd is

/-! ## The end of a command -/

/-- A clause of the core has issued and is not done: a task is to end, or instructions are left. -/
def CoreSt.underWay (k : CoreSt) : Bool := k.ending.isSome || k.rest.isSome

/-- The core is a lane that copies an offer. -/
def copying (s : State) (k : Nat) : Bool :=
  ! s.lanes.isEmpty && decide (256 ≤ k) && decide (k < 320) && (s.lane (k - 256)).keep.isSome

/-- The cores that hold instructions or have a clause under way, in ascending order. -/
def busyCores (s : State) : List Core :=
  (s.cores.filter fun k => ! k.2.stream.isEmpty || k.2.underWay || copying s k.1).map fun k =>
    if k.1 < 256 then .eng (Fin.ofNat 256 k.1) else if k.1 < 320 then .lane (Fin.ofNat 64 (k.1 - 256)) else .drd

/-- The next thing that happens of itself: the detections of what has happened so far, then a core's next clause. -/
def work (s : State) : Option State :=
  if s.raised.isEmpty then (busyCores s).findSome? (pumpCore s) else some (handleRaised 1024 s)

/-- Everything that happens of itself, within a bound. -/
def workN : Nat → State → State
  | 0, s => s
  | n + 1, s => match work s with
    | none => s
    | some t => workN n t

/-- A bound on what can happen of itself: each instruction received issues, waits or faults. -/
def workFuel (s : State) : Nat := 32 + 4 * s.cores.foldl (fun n k => n + k.2.stream.length + if k.2.underWay then 4 else 0) 0

/-- What clauses that have issued let go on: clocks of islands that run again, received posts, waiting edge jobs, held
accesses, full change-log lines and what the journal and the decryption unit have waiting for a mover; then the clauses that
these let go issue. -/
def settleOnce (s : State) : State :=
  let s := aesPump (jnlPump (clgPump (pumpHeld (ungate (edgePump (edgePump (pumpPosts s) 0) 1)))))
  workN (workFuel s) s

/-- What happens of itself at the end of a command: clauses issue and detections are handled; what they let go moves on,
twice, since a clock that comes back lets held accesses go and these let clauses go; gated clocks and SAFE_OK follow. -/
def settle (s : State) : State := syncSafe (ungate (settleOnce (settleOnce (workN (workFuel s) s))))

/-- A core takes instructions: an engine or lane that is neither DISABLED nor FAILED. -/
def takesInstr (s : State) (c : Core) : Bool :=
  match c with
  | .eng _ => decide ((s.core c).state < 2)
  | .lane l => decide (s.fld SLV_LANE_STAT.STATE l.val < 2)
  | .drd => true

/-- An instruction reaches its core. -/
def feed (s : State) (i : Instr) : State :=
  match instrInfo i with
  | none => s
  | some f => if takesInstr s f.core then s.modCore f.core fun k => { k with stream := k.stream ++ [i] } else s

end Sys2Proof.Machine
end

