-- ==== Sys2Proof/Machine/Replay.lean ====
section
/-! DEFINITION. Replay: recorded inputs are presented again through the units that took them (R400-R402). -/

namespace Sys2Proof.Machine

/-- Where the next record to be presented lies. -/
def replayAt (s : State) : Nat := ringBase s + jnlRd s

/-- The bytes of the next record, with its header, as the ring holds them. -/
def replayBytes (s : State) (n : Nat) : List Byte := s.bytes (replayAt s) n

/-- A record comes into the lower half of the staging area, poison marks with it (R401). -/
def replayStage (s : State) (n : Nat) : State :=
  let a := replayAt s
  performG s jnlSrc (atAddr (stgBase s) (s.bytes a n)) fun w => s.mark (a + (8 * w - stgBase s))

/-- RD passes a record of n bytes. -/
def replayAdvance (s : State) (n : Nat) : State := s.setFld JNL_PTR_RD.RD 0 ((jnlRd s + n) % max 1 (ringSize s))

/-- Inputs are missing: replay ends (R402). -/
def replayGap (s : State) : State := jnlEvent (journalOff s) 0xF013 0

/-- A recorded host write is performed: through window A at its register, through window B at memory, with the
poison marks the record carries. -/
def replayHostWrite (s : State) (src : Nat) (w0 : Word) (bs : List Byte) (marks : Nat → Bool) : State :=
  let a := bitsOf w0 47 8
  if bitsOf w0 1 0 = 0 then
    let s := ctlPerform (s.setBit DET_STAT.REPLAYING 0 false) src a bs.length (w64 (leNat bs)) false
    s.setBit DET_STAT.REPLAYING 0 (decide (s.fld JNL_CTL.STATE 0 = 0) && s.bit JNL_CTL.MODE 0)
  else performG s src (atAddr a bs) fun w => marks (8 * w - a)

/-- A recorded Timebase change: a TB_INC write, or a step of signed ns. -/
def replayTime (s : State) (w0 w1 : Word) : State :=
  if w0 = 0 then s.setReg .TB_INC 0 (w1 &&& RegName.accMask .TB_INC [.rw])
  else { s with tbPend := { s.tbPend with adj := s.tbPend.adj ++ [w1.toInt] } }

/-- A recorded frame: its rows come from the record, or with FHASH from the host frame ring as `rows`; rows whose
hash differs are delivered as zeros. -/
def replayFrameRecord (s : State) (src flags : Nat) (pl rows : List Byte) : State :=
  let c := src % 0x1000
  let w := fun i => w64 (leNat ((pl.drop (8 * i)).take 8))
  let body := pl.drop 128
  if ¬ Nat.testBit flags 8 then replayFrame s c (w 0) (w 1) (w 2) body
  else if sha256 rows = body.take 32 then replayFrame s c (w 0) (w 1) (w 2) rows
  else
    let n := rowBytes (s.fld ING_CH_CTL.DT c) (s.fld ING_CH_GEOM.W0 c) * s.fld ING_CH_GEOM.H0 c
    jnlEvent (replayFrame s c (w 0) (w 1) (w 2) (List.replicate n 0)) 0xF012 0

/-- A record's input is presented through its unit. -/
def replayInput (s : State) (kind src flags stamp : Nat) (pl rows : List Byte) (marks : Nat → Bool) : State :=
  let w := fun i => w64 (leNat ((pl.drop (8 * i)).take 8))
  let b0 := (pl.headD 0).toNat
  match kind with
  | 0x01 => replayFrameRecord s src flags pl rows
  | 0x02 => replayDrop s (b0 % 24) stamp
  | 0x03 => rxTake s (bitsOf (w 1) 2 0) (bitsOf (w 1) 14 8) (w 0).toNat (pl.drop 16) stamp
  | 0x04 => rxAccept s (b0 % 4) (pl.drop 8) stamp
  | 0x05 => latch s 3 b0 0 stamp (pl.drop 8)
  | 0x06 => replayHostWrite s src (w 0) (pl.drop 8) marks
  | 0x07 => replayTime s (w 0) (w 1)
  | _ => s

/-- REPLAY_PRESENT_RECORD: the record at RD, once the Timebase has reached its STAMP + DELTA. A zero header sends RD
to the ring's start. -/
def replayPresent (s : State) (rows : List Byte) : State :=
  if ! replaying s || decide (jnlRd s = jnlWr s) then s
  else
    let h := replayBytes s 32
    let w := fun i => w64 (leNat ((h.drop (8 * i)).take 8))
    if w 0 = 0 then s.setFld JNL_PTR_RD.RD 0 0
    else
      let due := bitsOf (w 2) 47 0 * 1000000000 + bitsOf (w 3) 29 0 + bitsOf (w 3) 63 32
      if s.totalNs < due then s
      else
        let len := bitsOf (w 0) 63 32
        let n := 32 + up32 len
        let pl := (replayBytes s (32 + len)).drop 32
        let marks := fun i => s.mark (replayAt s + 40 + i)
        let kind := bitsOf (w 0) 7 0
        if kind = 9 ∨ (kind = 1 ∧ (w 0).getLsbD 11) then replayGap (replayAdvance (replayStage s n) n)
        else
          replayAdvance (replayInput (replayStage s n) kind (bitsOf (w 0) 31 16) (bitsOf (w 0) 15 0) (bitsOf (w 1) 31 0)
            pl rows marks) n

end Sys2Proof.Machine
end

