-- ==== Sys2Proof/Machine/Arb.lean ====
section
/-! DEFINITION. The arbiters of the HBM pseudo-channels and of the Basin sub-banks (R161, R164, R175, R435). -/

namespace Sys2Proof.Machine

/-! ## HBM pseudo-channels -/

/-- The 64-byte accesses of a Cistern write on its way: its acceptance number with the block each one writes (R163). -/
def pwBlocks (w : PWrite) : List (Nat × Nat) := ((w.bytes.map fun x => x.1 / 64).eraseDups).map fun k => (w.seq, k)

/-- The accepted writes of the bank under fallback that go to a pseudo-channel, in order of acceptance (R435). -/
def fallbackWrites (s : State) (st pc : Nat) : List PWrite :=
  s.pend.filter fun w =>
    let h := s.home (w.bytes.headD (0, 0)).1
    inFallback s w.bank && w.slot.isSome && decide (h ≠ (w.bytes.headD (0, 0)).1) && decide (stackOf h = st) &&
      decide (pchanOf h = pc)

/-- New fallback accesses join the waiting ones, then the arriving requests of the quadrant movers. -/
def hbmArrive (s : State) (st pc : Nat) (arr : List Nat) (a : HbmArb) : HbmArb :=
  let known := fun (k : Nat × Nat) => (a.wait.any fun x => x.2 == some k) || a.reqs.any fun r => r.wr == some k
  let fresh := (fallbackWrites s st pc).flatMap fun w =>
    ((pwBlocks w).filter fun k => ! known k).map fun k => (w.bank / 32, some k)
  { a with wait := a.wait ++ fresh ++ arr.map fun q => (q, none) }

/-- Presents waiting requests in order of arrival while a slot of their quadrant is free; a slot granted since the last
age step is not used again before the next one (R164, R175). -/
def hbmPresent : List (Nat × Option (Nat × Nat)) → HbmArb → HbmArb
  | [], a => { a with wait := [] }
  | x :: r, a =>
    match (upFrom (4 * x.1) 4).find? fun k => ! (a.reqs.any fun q => q.slot == k) && ! a.cool.contains k with
    | some k => hbmPresent r { a with reqs := a.reqs ++ [⟨k, 0, x.2⟩] }
    | none => let b := hbmPresent r a; { b with wait := x :: b.wait }

/-- The request that is granted: the oldest; among equals the slot nearest after the last granted (R164, R175). -/
def hbmPick (a : HbmArb) : Option HbmReq :=
  let dist := fun k => (k + 15 - a.last) % 16
  a.reqs.foldl (fun best r =>
    match best with
    | none => some r
    | some x => if x.age < r.age ∨ (r.age = x.age ∧ dist r.slot < dist x.slot) then some r else some x) none

/-- The arbiter after a grant: ages gain 1 at every fourth grant and saturate at 63. -/
def hbmGranted (a : HbmArb) (r : HbmReq) : HbmArb :=
  let step := decide (a.sub = 3)
  let rest := a.reqs.filter fun x => x.slot != r.slot
  { a with reqs := rest.map fun x => if step then { x with age := min 63 (x.age + 1) } else x,
           last := r.slot, sub := if step then 0 else a.sub + 1
           cool := if step then [] else a.cool ++ [r.slot] }

/-- A fallback access that the pseudo-channel grants is performed; the write leaves with its last one. -/
def fallbackPerform (s : State) (id : Nat × Nat) : State :=
  match s.pend.find? fun w => (pwBlocks w).contains id with
  | none => s
  | some w =>
    let now := w.bytes.filter fun x => x.1 / 64 == id.2
    let rest := w.bytes.filter fun x => x.1 / 64 != id.2
    let s := performG s w.src now fun a => w.pois.contains a
    if rest.isEmpty then
      present (countPerformed { s with pend := s.pend.filter fun x => x != w } w.src (w.bank / 32)) w.bank
    else { s with pend := s.pend.map fun x => if x = w then { w with bytes := rest } else x }

/-- HBM_PSEUDO_CHANNEL_GRANT: requests of the quadrants in `arr` arrive; one presented request is granted, or the
idle cycle goes to the scrub engine where its pass has reached that pseudo-channel (R164). -/
def hbmGrant (s : State) (st pc : Nat) (arr : List Nat) : State :=
  let a := hbmArrive s st pc arr (tget (fun _ => {}) s.hbmArb (64 * st + pc))
  let a := hbmPresent a.wait a
  let put := fun (x : HbmArb) => { s with hbmArb := tput (fun _ => {}) s.hbmArb (64 * st + pc) x }
  match hbmPick a with
  | none =>
    let p := s.fld HBM_SCRUB_PROG.PROG 0
    if stackOf p = st ∧ pchanOf p = pc then scrubStep (put a) .hbm else put a
  | some r =>
    match r.wr with
    | none => put (hbmGranted a r)
    | some id => fallbackPerform (put (hbmGranted a r)) id

/-! ## Basin sub-banks -/

/-- The sub-bank of a Basin slot offset (R161). -/
def basinSub (o : Nat) : Nat := bitsOf (w64 o) 9 6

/-- A sibling's access joins; a sibling holds at most one access to a sub-bank at a time. -/
def sibJoin (l : List (Nat × Nat)) (k : Nat) : List (Nat × Nat) :=
  if l.any fun x => x.1 == k then l else l ++ [(k, 0)]

/-- The sibling access served next: the one that has waited longest, among equals by rotation. -/
def sibPick (a : BasinArb) (l : List (Nat × Nat)) : Option (Nat × Nat) :=
  let dist := fun k => (k + 15 - a.last) % 16
  l.foldl (fun best x =>
    match best with
    | none => some x
    | some y => if y.2 < x.2 ∨ (x.2 = y.2 ∧ dist x.1 < dist y.1) then some x else some y) none

/-- A sibling is served, the others wait one clock more. -/
def sibServe (a : BasinArb) (k : Nat) : BasinArb :=
  { a with sibs := (a.sibs.filter fun x => x.1 != k).map fun x => (x.1, x.2 + 1), last := k }

/-- One clock of a sub-bank of engine e's Basin: accesses arrive, then one is served: a sibling that has waited 32
clocks, else the owner, else a sibling. -/
def basinClock (e : Nat) (owner : Bool) (arr : List Nat) (a : BasinArb) : BasinArb :=
  let a := { a with owner := a.owner + (if owner then 1 else 0),
                    sibs := (arr.filter fun k => k != e % 16).foldl sibJoin a.sibs }
  match sibPick a (a.sibs.filter fun x => decide (32 ≤ x.2)) with
  | some x => sibServe a x.1
  | none =>
    if 0 < a.owner then { a with owner := a.owner - 1, sibs := a.sibs.map fun x => (x.1, x.2 + 1) }
    else match sibPick a a.sibs with
      | some x => sibServe a x.1
      | none => a

/-- BASIN_SUBBANK_GRANT of the sub-bank of a slot offset. -/
def basinGrant (s : State) (e sb : Nat) (owner : Bool) (arr : List Nat) : State :=
  let k := 16 * e + sb
  { s with basinArb := tput (fun _ => {}) s.basinArb k (basinClock e owner arr (tget (fun _ => {}) s.basinArb k)) }

end Sys2Proof.Machine
end

