-- ==== Sys2Proof/Machine/HostIf.lean ====
section
/-! DEFINITION. The host interface: windows A, B and C, interrupts and function resets (R448, R454-R460, R503). -/

namespace Sys2Proof.Machine

/-- Source id of a host function (R515). -/
def hostSrc (f : Nat) : Nat := 0xC000 + f

/-- The module is READY for the host (R503). -/
def hostReady (s : State) : Bool := s.bit SEC_BOOT.READY 0

/-- A request completes with Unsupported Request. -/
def urComplete (s : State) : State := s.send .unsupported

/-! ## Window A (R455) -/

/-- Functions that have window A. -/
def hasWindowA (f : Nat) : Bool := f == 0 || f == 3

/-- Window A reaches an offset: before READY only the host and security blocks (R503). -/
def windowAReaches (s : State) (off : Nat) : Bool :=
  decide (off < 2 ^ 28) && (hostReady s || decide (off / 2 ^ 24 = 0xC) || decide (off / 2 ^ 24 = 0xE))

/-- A permitted window A write is recorded by the journal (R395). -/
def journalHostA (s : State) (src a size : Nat) (v : Word) : State :=
  match regAt (a / 8 * 8) with
  | some (r, _) =>
    if mayWrite s src r then journalIn s 0x06 src s.stamp (leBytes 8 (a * 2 ^ 8) ++ (leBytes 8 v.toNat).take size) else s
  | none => s

/-- HOST_WINDOW_A_ACCESS: a write of a value, or a read. -/
def windowA (s : State) (f off size : Nat) (wr : Option Word) : State :=
  if ! hasWindowA f || ! windowAReaches s off then urComplete s
  else
    let a := 0x6000000000 + off
    match wr with
    | some v => if ctlAligned a size then ctlWrite (journalHostA s (hostSrc f) a size v) (hostSrc f) a size v else s
    | none =>
      if ! ctlAligned a size then urComplete s
      else ctlAsk s (hostSrc f) a size true

/-! ## Window B (R448, R456) -/

/-- Memories that window B reaches: the Cistern, the Basins, the edge engine and solver lane memories (R23, R28). -/
def windowBRegion : Region → Bool
  | .cistern | .basin _ | .edge _ | .lane _ => true
  | _ => false

/-- The feed area of the journal's staging area, the one place that window B writes during replay (R400, R401). -/
def inFeedArea (s : State) (a n : Nat) : Bool :=
  decide (stgBase s + halfSize s ≤ a) && decide (a + n ≤ stgBase s + stgSize s)

/-- The physical address of a window B request of n bytes that the module takes. -/
def windowBAt (s : State) (f off n : Nat) (wr : Bool) : Option Nat :=
  let a := s.fld HST_WINB.BASE f + off
  let ok := decide (f ≠ 2) && ! (wr && decide (f = 3)) && s.bit HST_WINB.EN f && hostReady s && decide (0 < n) &&
    decide (off + n ≤ 2 ^ 34) && windowBRegion (s.region a) && windowBRegion (s.region (a + n - 1)) &&
    ! (wr && replaying s && ! inFeedArea s a n)
  if ok then some a else none

/-- A host's access of a memory; it waits in the crossing of an island that takes none, behind those that wait there
(R17, R18, R485). -/
def memAccess (s : State) (src : Nat) (op : HeldOp) : State :=
  let h : HeldEntry := ⟨src, op, s.totalNs, false⟩
  if heldWaits s [] h then holdEntry s src op false else heldPerform s h

/-- HOST_WINDOW_B_WRITE: with EP set every word it writes is marked. -/
def windowBWrite (s : State) (f off : Nat) (data : List Byte) (ep : Bool) : State :=
  match windowBAt s f off data.length true with
  | none => urComplete s
  | some a =>
    let marks := if ep then (upFrom 0 ((data.length + 7) / 8)).map (· + 1) else []
    let s := journalIn s 0x06 (hostSrc f) s.stamp (leBytes 8 (2 + a * 2 ^ 8) ++ data) marks
    memAccess s (hostSrc f) (.store a data ep)

/-- HOST_WINDOW_B_READ: a read that meets a poisoned word completes with EP. -/
def windowBRead (s : State) (f off n : Nat) : State :=
  match windowBAt s f off n false with
  | none => urComplete s
  | some a => memAccess s (hostSrc f) (.fetch a n)

/-! ## Window C: doorbells and MSI-X (R458, R459) -/

/-- The function that a command ring belongs to. -/
def ringFn (r : Nat) : Nat := if r < 16 then 0 else 1

/-- A doorbell is refused: it would move TAIL backward or past HEAD, or the ring is not enabled. -/
def doorbellBad (s : State) (r v : Nat) : Bool :=
  let m := 2 ^ s.fld HST_RING0.SIZE r
  let d := fun t => (t + 65536 * m - s.fld HST_RING1.HEAD r) % m
  decide (d v < d (s.fld HST_RING1.TAIL r)) || ! s.bit HST_RING0.EN r

/-- HOST_DOORBELL. -/
def hostDoorbell (s : State) (f r v : Nat) : State :=
  if f ≠ ringFn r ∨ ¬ hostReady s then urComplete s
  else if doorbellBad s r v then event (s.satAdd HST_STAT.DBREF 0 1) 0 0xC001 (hostSrc f) (r + v * 2 ^ 16)
  else
    let m := 2 ^ s.fld HST_RING0.SIZE r
    let n := (v + 65536 * m - s.fld HST_RING1.TAIL r) % m
    let s := s.setFld HST_RING1.TAIL r v
    if s.bit HST_RING2.GEN r then
      signalHandle s (hostSrc f) (w64 (s.fld HST_RING2.GATE r)) (BitVec.ofNat 32 n) else s

/-- The first vector of a function and the number of its vectors (R454). -/
def fnVectors (f : Nat) : Nat × Nat :=
  match f with
  | 0 => (0, 64)
  | 1 => (64, 128)
  | 2 => (192, 32)
  | _ => (224, 32)

/-- Pending vectors that are unmasked and enabled are sent. -/
def sendPending (s : State) (f : Nat) : State :=
  let d := fun (_ : Nat) => ({} : MsixEntry)
  forL (upFrom (fnVectors f).1 (fnVectors f).2) (fun v s =>
    let e := tget d s.msix v
    if e.pend && ! e.masked && (tget (fun _ => ({} : FnSt)) s.fns f).msix then
      { s.send (.msi v) with msix := tput d s.msix v { e with pend := false } }
    else s) s

/-- MSI_X_TABLE_WRITE of a function's local entry. -/
def msixWrite (s : State) (f vec : Nat) (masked : Bool) (addr : Word) (data : BitVec 32) : State :=
  if (fnVectors f).2 ≤ vec then urComplete s
  else
    let d := fun (_ : Nat) => ({} : MsixEntry)
    let k := (fnVectors f).1 + vec
    let e := { tget d s.msix k with masked := masked, addr := addr, data := data }
    sendPending { s with msix := tput d s.msix k e } f

/-- PCIE_CONFIGURATION_REQUEST: Bus Master Enable and MSI-X Enable of a function (R457, R459). -/
def configRequest (s : State) (f : Nat) (bme msixEn : Bool) : State :=
  sendPending { s with fns := tput (fun _ => ({} : FnSt)) s.fns f ⟨bme, msixEn⟩ } f

/-- HOST_FLR: a Function Level Reset (R460). -/
def hostFlr (s : State) (f : Nat) : State :=
  let rings := (upFrom 0 64).filter fun r => decide (ringFn r = f)
  let s := forL rings (fun r s => s.setBit HST_RING0.EN r false) s
  let s := s.setBit HST_WINB.EN f false
  let s := forL (upFrom (fnVectors f).1 (fnVectors f).2) (fun v s =>
    { s with msix := tput (fun _ => ({} : MsixEntry)) s.msix v {} }) s
  let s := { s with fns := tput (fun _ => ({} : FnSt)) s.fns f {} }
  event s 0 0xC002 (hostSrc f) f

end Sys2Proof.Machine
end

