-- ==== Sys2Proof/WellFormed.lean ====
section
/-! DEFINITION. Which commands are well formed: the lists that a command carries have the lengths its rule gives
them. Every other operand is bounded by its type. -/

namespace Sys2Proof

/-- Payload bytes of a CAN frame by its DLC (R373, ISO 11898-1). -/
def canBytes (fdf : Bool) (dlc : Nat) : Nat :=
  if dlc ≤ 8 then dlc
  else if ! fdf then 8
  else match dlc with
    | 9 => 12
    | 10 => 16
    | 11 => 20
    | 12 => 24
    | 13 => 32
    | 14 => 48
    | _ => 64

/-- A CAN frame that can stand on a bus: a base identifier lies in [28:18], an FD frame is no remote frame, only an FD
frame has BRS and ESI, and the payload has the length of its DLC, none in a remote frame (R373, R374). -/
def CanFrame.wellFormed (f : CanFrame) : Bool :=
  (f.ide || decide (f.id.toNat % 2 ^ 18 = 0)) && ! (f.fdf && f.rtr) && (f.fdf || (! f.brs && ! f.esi)) &&
    decide (f.data.length = if f.rtr then 0 else canBytes f.fdf f.dlc.toNat)

/-- A Dvoril frame has 256 bytes (R211). -/
def DvFrame.wellFormed (f : DvFrame) : Bool := decide (f.words.length = 32)

/-- A long packet carries at most 65,535 bytes (R281). -/
def CsiPacket.wellFormed (p : CsiPacket) : Bool := decide (p.bytes.length ≤ 65535)

/-- A SHA-256 digest. -/
def isDigest (d : List Byte) : Bool := decide (d.length = 32)

/-- The digests of an image slot have 32 bytes (R461-R463). -/
def BootSlot.wellFormed (b : BootSlot) : Bool :=
  isDigest b.manifestDigest && b.components.all fun c => isDigest c.digest

/-- What a start finds: digests of 32 bytes and a public key of 32 (R463, R465). -/
def BootInput.wellFormed (b : BootInput) : Bool :=
  isDigest b.romDigest && decide (b.pubKey.length = 32) && b.slotA.wellFormed && b.slotB.wellFormed

/-- The commands that carry lists, and their checks; every other command is well formed. -/
def Instr.wellFormed : Instr → Bool
  | .dvorilFrameReceive _ f => f.wellFormed
  | .csi2RowReceive _ p => p.wellFormed
  | .canFrameReceive _ f _ => f.wellFormed
  | .spiTransaction _ data => decide (data.length = 64)
  | .lockstepDigestReceive _ d => isDigest d
  | .hostWindowBWrite _ _ data _ => decide (0 < data.length) && decide (data.length ≤ 512)
  | .hostWindowBRead _ _ len => decide (0 < len) && decide (len ≤ 4096)
  | .powerGood b => b.wellFormed
  | .tcpRecheck _ b => b.wellFormed
  | .warmResetRelease _ b => b.wellFormed
  | .powerCapExcursion _ isls => decide (isls.length = 36)
  | .inputPowerExcursion _ isls => decide (isls.length = 36)
  | _ => true

end Sys2Proof
end

