-- ==== Sys2Proof/Machine/Command.lean ====
section
/-! DEFINITION. How a command runs: a malformed one is a fault; a module that is unpowered or held in reset takes none
but those that end that; otherwise the command has its effect, and what follows of itself follows. With them, the
register accesses that commands are made of. -/

namespace Sys2Proof.Machine

/-- What a command answers. -/
abbrev Out := Host.Outcome State Fault Refusal

/-- A command, `ok` when it is well formed, whose effect a module without power, or held by a reset pin, does not have (R501, R503). -/
def run (ok : Bool) (f : State → State) (s : State) : Out :=
  if ! ok then .fault .malformedCommand
  else .next (commit s (if alive s then settle (f s.begin) else s.begin))

/-- A command of the power inputs and reset pins. -/
def runAlways (ok : Bool) (f : State → State) (s : State) : Out :=
  if ! ok then .fault .malformedCommand else .next (commit s (settle (f s.begin)))

/-- A command that is an instruction reaches its core. -/
def runInstr (i : Instr) (s : State) : Out := run true (fun s => feed s i) s

/-- A word with one bit set. -/
def bit64 (n : Nat) : Word := w64 (2 ^ n)

/-- EN of a unit's control register is written 1, its other fields as they are. -/
def enWrite (s : State) (src : BitVec 16) (r : RegName) (i : Nat) : State :=
  regCommand s src r i (kept s r i ||| bit64 (enBit r))

/-- EN is written 0. -/
def drainWrite (s : State) (src : BitVec 16) (r : RegName) (i : Nat) : State :=
  regCommand s src r i (kept s r i &&& ~~~bit64 (enBit r))

/-- ABORT is written 1. -/
def abortWrite (s : State) (src : BitVec 16) (r : RegName) (i : Nat) : State :=
  regCommand s src r i (kept s r i ||| bit64 (enBit r + 1))

/-- A source reads a register; the value leaves on the wire. -/
def readCommand (s : State) (src : BitVec 16) (r : RegName) (i : Nat) : State :=
  if islandStops s (regIsland r i) then holdEntry s src.toNat (.read (r.addr i) 8 false) false
  else
  let p := regRead s src.toNat r i true (clearedMask r 0 8)
  p.1.send (.readData src.toNat p.2)

/-- An address of the control space (R28). -/
def isControlAddr (a : Nat) : Bool := decide (0x6000000000 ≤ a) && decide (a < 0x6010000000)

/-- A write at a control-space address. -/
def addrWrite (s : State) (src a size : Nat) (v : Word) : State := if isControlAddr a then ctlWrite s src a size v else s

/-- A read at a control-space address. -/
def addrRead (s : State) (src a size : Nat) : State :=
  if isControlAddr a && ctlAligned a size then ctlAsk s src a size false else s

/-- A read of FE_TQ_TAKE[e]: in runtime mode it ends the drain of its engine and takes nothing (R521). -/
def takeCommand (s : State) (src e : Nat) : State :=
  let k := s.core (engine e)
  if src = e ∧ k.state = 1 ∧ k.runtime then (engineDrained s e).send (.readData src 0)
  else readCommand s (BitVec.ofNat 16 src) .FE_TQ_TAKE e

/-- A write of a gate word: a register, or for a die gate a word of the Cistern (R160, R192, R194). -/
def gateCommand (s : State) (src : BitVec 16) (g : GateId) (v : Word) : State :=
  match g with
  | .cluster _ _ => regCommand s src .CST_CGATE (gateKey g) v
  | .die _ _ => performG s src.toNat (atAddr (dieGateAddr (gateKey g)) (leBytes 8 v.toNat)) fun _ => false
  | .module i => regCommand s src .CST_MGATE i.val v

/-- A write of a word of a check: a register, or for a die check a word of the Cistern (R192, R197). -/
def checkCommand (s : State) (src : BitVec 16) (k : CheckId) (w : Bool) (v : Word) : State :=
  match k with
  | .cluster c i => regCommand s src (if w then .CST_CCHK1 else .CST_CCHK0) (64 * c.val + i.val) v
  | .die _ _ => writeCheck s (checkKey k) (if w then 1 else 0) v
  | .module i => regCommand s src (if w then .CST_MCHK1 else .CST_MCHK0) i.val v

/-- CLR of a transceiver: the fault's condition is gone or not, then CLR is written (R384). -/
def phyClrCommand (s : State) (src : BitVec 16) (c : Nat) (gone : Bool) : State :=
  let s := s.setCan c { s.canSt c with cond := (s.canSt c).cond && ! gone }
  regCommand s src .CB_PHY c (kept s .CB_PHY c ||| 4)

/-- A safe-state line reads back different from its driven level (R505). -/
def readbackFault (s : State) (_line : SafeLine) : State := detect s 22 drdSrc

/-- Control bits of a scrub pass are written (R449). -/
def scrubCommand (s : State) (src : BitVec 16) (h : ScrubId) (bits : Word) : State :=
  let r := match h with
    | .cistern => RegName.CST_SCRUB_CTL
    | .hbm => RegName.HBM_SCRUB_CTL
  regCommand s src r 0 (kept s r 0 ||| bits)

end Sys2Proof.Machine
end

