-- ==== Sys2Proof/Machine/CanArms.lean ====
section
/-! DEFINITION. The commands of the CAN FD controllers: one meaning for each, over the shared operations. -/

namespace Sys2Proof.Machine

/-- CAN_FRAME_RECEIVE (R374): A valid frame is matched to an RX mailbox, latched for the Servo Engine and
journalled. -/
def execCanFrameReceive (c : Fin 8) (f : CanFrame) (ago : Nat) (s : State) : Out :=
  run f.wellFormed (fun s => canReceive s c.val f ago) s

/-- CAN_MBX_QUEUE (R376): QUEUE copies the TX template into the launch buffer, replaces or holds a request, or
is refused. -/
def execCanMbxQueue (src : BitVec 16) (c : Fin 8) (n : Fin 128) (s : State) : Out :=
  run true (fun s => regCommand s src .CB_MBX_CMD (mbxAt c.val n.val) (kept s .CB_MBX_CMD (mbxAt c.val n.val) ||| 1)) s

/-- CAN_MBX_CANCEL (R381): CANCEL ends a pending buffer not on the wire and discards a held request. -/
def execCanMbxCancel (src : BitVec 16) (c : Fin 8) (n : Fin 128) (s : State) : Out :=
  run true (fun s => regCommand s src .CB_MBX_CMD (mbxAt c.val n.val) (kept s .CB_MBX_CMD (mbxAt c.val n.val) ||| 2)) s

/-- CAN_MBX_UNLOCK (R374): LOCK written 0 moves a held shadow frame into the mailbox. -/
def execCanMbxUnlock (src : BitVec 16) (c : Fin 8) (n : Fin 128) (s : State) : Out :=
  run true (fun s => regCommand s src .CB_MBX_CMD (mbxAt c.val n.val) 0) s

/-- CAN_LAUNCH_TIME_REACHED (R377): A launch time is reached and the buffer becomes ready. -/
def execCanLaunchTimeReached (c : Fin 8) (n : Fin 128) (s : State) : Out :=
  run true (fun s => canDue s c.val n.val) s

/-- CAN_FRAME_START (R378): The controller offers the winning ready buffer and its SOF starts. -/
def execCanFrameStart (c : Fin 8) (s : State) : Out :=
  run true (fun s => canStart s c.val) s

/-- CAN_FRAME_END (R383): A frame ends SENT or SENT_LATE with its stamp, CNT advanced and any held request
entered. -/
def execCanFrameEnd (c : Fin 8) (s : State) : Out :=
  run true (fun s => canEnd s c.val) s

/-- CAN_FRAME_ERROR (R380): A frame loses arbitration or meets an error and is retried or ends ONESHOT_FAILED.
-/
def execCanFrameError (c : Fin 8) (why : CanErr) (s : State) : Out :=
  run true (fun s => canError s c.val why) s

/-- CAN_FRAME_EXPIRE (R380): EXP µs pass without a successful start and the frame ends EXPIRED. -/
def execCanFrameExpire (c : Fin 8) (n : Fin 128) (s : State) : Out :=
  run true (fun s => canExpire s c.val n.val) s

/-- CAN_RECOVER (R372): CB_CTL.RECOVER begins bus-off recovery. -/
def execCanRecover (src : BitVec 16) (c : Fin 8) (s : State) : Out :=
  run true (fun s => regCommand s src .CB_CTL c.val (kept s .CB_CTL c.val ||| bit64 8)) s

/-- CAN_BUS_ON (R372): 128 occurrences of 11 recessive bits end recovery and CB-BUS-ON is appended. -/
def execCanBusOn (c : Fin 8) (s : State) : Out :=
  run true (fun s => canBusOn s c.val) s

/-- CAN_BUS_FAULT (R384): The transceiver detects a bus fault and appends CB-BUS-FAULT. -/
def execCanBusFault (c : Fin 8) (fault : BitVec 4) (s : State) : Out :=
  run true (fun s => canFault s c.val fault.toNat) s

/-- CAN_DOMINANT_TIMEOUT (R384): A dominant drive longer than 4 ms is forced recessive. -/
def execCanDominantTimeout (c : Fin 8) (s : State) : Out :=
  run true (fun s => canDominant s c.val) s

/-- CAN_PHY_CLR (R384): CB_PHY.CLR leaves bus fault if the condition is gone. -/
def execCanPhyClr (src : BitVec 16) (c : Fin 8) (gone : Bool) (s : State) : Out :=
  run true (fun s => phyClrCommand s src c.val gone) s

/-- CAN_TERM_MEASURE (R385): CB_PHY.MEAS requests a termination measurement. -/
def execCanTermMeasure (src : BitVec 16) (c : Fin 8) (s : State) : Out :=
  run true (fun s => regCommand s src .CB_PHY c.val (kept s .CB_PHY c.val ||| 2)) s

/-- CAN_TERM_MEASURE_PERIODIC (R385): The MPER period elapses and a termination measurement is requested. -/
def execCanTermMeasurePeriodic (c : Fin 8) (s : State) : Out :=
  run true (fun s => termPeriodic s c.val) s

/-- CAN_TERM_MEASURE_DONE (R385): A measurement run at bus idle finishes and writes RTERM and TERM. -/
def execCanTermMeasureDone (c : Fin 8) (ohms : Nat) (s : State) : Out :=
  run true (fun s => termDone s c.val ohms) s

/-- CAN_POLARITY_CHECK (R386): A recessive-to-dominant edge from another node is checked for swapped lines. -/
def execCanPolarityCheck (c : Fin 8) (swapped : Bool) (s : State) : Out :=
  run true (fun s => polarity s c.val swapped) s

/-- CAN_TXTS_POP (R383): Reading CB_TXTS returns and removes the oldest transmit timestamp. -/
def execCanTxtsPop (src : BitVec 16) (c : Fin 8) (s : State) : Out :=
  run true (fun s => readCommand s src .CB_TXTS c.val) s

/-- CAN_ENABLE (R370): CB_CTL.EN written 1 checks bit timing and enables the controller or appends
CB-CFG-REFUSED. -/
def execCanEnable (src : BitVec 16) (c : Fin 8) (s : State) : Out :=
  run true (fun s => enWrite s src .CB_CTL c.val) s

/-- CAN_DRAIN (R388): EN written 0: the frame on the wire completes, other buffers end ABORTED. -/
def execCanDrain (src : BitVec 16) (c : Fin 8) (s : State) : Out :=
  run true (fun s => drainWrite s src .CB_CTL c.val) s

/-- CAN_ABORT (R388): ABORT drives recessive at once and ends every buffer ABORTED. -/
def execCanAbort (src : BitVec 16) (c : Fin 8) (s : State) : Out :=
  run true (fun s => abortWrite s src .CB_CTL c.val) s

end Sys2Proof.Machine
end

