-- ==== Sys2Proof/Machine/EngineArms.lean ====
section
/-! DEFINITION. The commands of engines, tasks, gates, movers, drains and the Cistern: one meaning for each, over the shared operations. -/

namespace Sys2Proof.Machine

/-- FE_ENABLE (R521): EN written 1 to a DISABLED engine starts it in runtime mode with EDETAIL 2. -/
def execFeEnable (src : BitVec 16) (e : Fin 256) (s : State) : Out :=
  run true (fun s => enWrite s src .FE_CTL e.val) s

/-- FE_DRAIN (R521): EN written 0 puts the engine in DRAINING. -/
def execFeDrain (src : BitVec 16) (e : Fin 256) (s : State) : Out :=
  run true (fun s => drainWrite s src .FE_CTL e.val) s

/-- FE_ABORT (R521): Discards in-flight verbs and stops the engine. -/
def execFeAbort (src : BitVec 16) (e : Fin 256) (s : State) : Out :=
  run true (fun s => abortWrite s src .FE_CTL e.val) s

/-- TASK_PUSH (R186): A write of FE_TQ_PUSH copies a descriptor into the engine's queue or refuses it. -/
def execTaskPush (src : BitVec 16) (e : Fin 256) (v : Word) (s : State) : Out :=
  run true (fun s => regCommand s src .FE_TQ_PUSH e.val v) s

/-- TASK_TAKE (R188): A read of FE_TQ_TAKE takes a task from the own queue or by turnout into the running slot.
-/
def execTaskTake (src : BitVec 16) (e : Fin 256) (s : State) : Out :=
  run true (fun s => takeCommand s src.toNat e.val) s

/-- GATE_WRITE (R194): A direct write sets a gate's VALUE, flags and LASTSRC, then the gate serves its waiters.
-/
def execGateWrite (src : BitVec 16) (g : GateId) (v : Word) (s : State) : Out :=
  run true (fun s => gateCommand s src g v) s

/-- CHECK_WRITE (R197): A direct write of a check record. -/
def execCheckWrite (src : BitVec 16) (k : CheckId) (w : Bool) (v : Word) (s : State) : Out :=
  run true (fun s => checkCommand s src k w v) s

/-- GATE_DEBUG_SELECT (R204): Writing CST_GDBG_SEL selects a gate or check for the debug view. -/
def execGateDebugSelect (src : BitVec 16) (v : Word) (s : State) : Out :=
  run true (fun s => regCommand s src .CST_GDBG_SEL 0 v) s

/-- GATE_DEBUG_CAPTURE (R204): Reading CST_GDBG[0] captures all eight view words in one gate clock. -/
def execGateDebugCapture (src : BitVec 16) (s : State) : Out :=
  run true (fun s => readCommand s src .CST_GDBG 0) s

/-- MOVER_RING_POST (R172): Writing TAIL posts descriptors into a mover ring. -/
def execMoverRingPost (src : BitVec 16) (m : Fin 12) (v : Word) (s : State) : Out :=
  run true (fun s => regCommand s src .CST_MVR_PTR m.val v) s

/-- MOVER_TAKE_DESCRIPTOR (R172): A mover takes the next descriptor from its ring or handoff queue and checks
it. -/
def execMoverTakeDescriptor (mv : MoverId) (s : State) : Out :=
  run true (fun s => takeDesc dvStart s mv) s

/-- MOVER_DESCRIPTOR_COMPLETE (R170): A copy or fill completes: gate signal, optional CST-MOVE-DONE, CODE
written last. -/
def execMoverDescriptorComplete (mv : MoverId) (obFail : Bool) (data : List Byte) (s : State) : Out :=
  run true (fun s => completeDesc s mv obFail data) s

/-- MOVER_ENABLE (R488): EN written 1 enables a disabled mover. -/
def execMoverEnable (src : BitVec 16) (m : Fin 12) (s : State) : Out :=
  run true (fun s => enWrite s src .CST_MVR_CTL m.val) s

/-- MOVER_DRAIN (R173): EN written 0 puts a mover in DRAINING. -/
def execMoverDrain (src : BitVec 16) (m : Fin 12) (s : State) : Out :=
  run true (fun s => drainWrite s src .CST_MVR_CTL m.val) s

/-- MOVER_ABORT (R173): Ends a mover's descriptors in progress ABORTED and disables it. -/
def execMoverAbort (src : BitVec 16) (m : Fin 12) (s : State) : Out :=
  run true (fun s => abortWrite s src .CST_MVR_CTL m.val) s

/-- DRAIN_COMPLETE (R488): A draining unit whose work is done becomes DISABLED. -/
def execDrainComplete (u : DrainUnit) (s : State) : Out :=
  run true (fun s => drainComplete s u) s

/-- DRAIN_TIMEOUT (R489): A unit's maximum drain time passes and remaining work is treated as aborted. -/
def execDrainTimeout (u : DrainUnit) (s : State) : Out :=
  run true (fun s => drainTimeout s u) s

/-- CISTERN_BANK_GRANT (R175): A bank grants its oldest presented request and ages advance every fourth grant.
-/
def execCisternBankGrant (b : Fin 128) (s : State) : Out :=
  run true (fun s => bankGrant s b.val) s

end Sys2Proof.Machine
end

