-- ==== Sys2Proof/Machine/HostArms.lean ====
section
/-! DEFINITION. The commands of the host interface, boot, security and the change log: one meaning for each, over the shared operations. -/

namespace Sys2Proof.Machine

/-- HOST_WINDOW_B_WRITE (R456): A host write through window B to a physical address. -/
def execHostWindowBWrite (f : Fin 4) (off : BitVec 40) (data : List Byte) (ep : Bool) (s : State) : Out :=
  run (decide (0 < data.length) && decide (data.length ≤ 512)) (fun s => windowBWrite s f.val off.toNat data ep) s

/-- HOST_WINDOW_B_READ (R448): A host read through window B, completed with EP on poison. -/
def execHostWindowBRead (f : Fin 4) (off : BitVec 40) (len : Nat) (s : State) : Out :=
  run (decide (0 < len) && decide (len ≤ 4096)) (fun s => windowBRead s f.val off.toNat len) s

/-- HOST_WINDOW_A_ACCESS (R455): A host 4- or 8-byte access through window A to the control space. -/
def execHostWindowAAccess (f : Fin 4) (off : BitVec 40) (size : Nat) (wr : Option Word) (s : State) : Out :=
  run true (fun s => windowA s f.val off.toNat size wr) s

/-- HOST_DOORBELL (R458): A doorbell sets a ring's TAIL after prior window B writes and signals its gate, or is
refused. -/
def execHostDoorbell (f : Fin 4) (r : Fin 64) (v : BitVec 16) (s : State) : Out :=
  run true (fun s => hostDoorbell s f.val r.val v.toNat) s

/-- HOST_IRQ (R459): A write of HST_IRQ sends an MSI-X vector or sets its pending bit. -/
def execHostIrq (src : BitVec 16) (v : Word) (s : State) : Out :=
  run true (fun s => regCommand s src .HST_IRQ 0 v) s

/-- HOST_FLR (R460): A Function Level Reset disables the function's rings and window B and appends HST-FLR. -/
def execHostFlr (f : Fin 4) (s : State) : Out :=
  run true (fun s => hostFlr s f.val) s

/-- PCIE_CONVENTIONAL_RESET (R453): PERST#, Hot Reset or host link loss causes a warm reset. -/
def execPcieConventionalReset (k : PcieReset) (s : State) : Out :=
  runAlways true (fun s => pcieReset s k) s

/-- POWER_GOOD (R464): Power-good rises and the boot ROM boots the module to READY. -/
def execPowerGood (b : BootInput) (s : State) : Out :=
  runAlways b.wellFormed (fun s => powerGood s b) s

/-- TCP_RECHECK (R502): While the cold plate is out of range the boot ROM rereads TCP every 100 ms. -/
def execTcpRecheck (tcp : Int) (b : BootInput) (s : State) : Out :=
  runAlways b.wellFormed (fun s => tcpRecheck s tcp b) s

/-- ATTEST_GO (R466): SEC_ATT.GO starts an attestation report. -/
def execAttestGo (src : BitVec 16) (v : Word) (s : State) : Out :=
  run true (fun s => regCommand s src .SEC_ATT 0 (v ||| bit64 40)) s

/-- ATTEST_DONE (R467): The signed report is complete; DONE set and GATE signalled. -/
def execAttestDone (s : State) : Out :=
  run true (fun s => attDone s) s

/-- MEASUREMENT_EXTEND (R463): A write of SEC_EXTEND word 3 extends SEC_MEAS[7]. -/
def execMeasurementExtend (src : BitVec 16) (v : Word) (s : State) : Out :=
  run true (fun s => regCommand s src .SEC_EXTEND 3 v) s

/-- SVN_LOCK (R462): SEC_BOOT.SVNLOCK raises the OTP SVN to the running image's SVN. -/
def execSvnLock (src : BitVec 16) (s : State) : Out :=
  run true (fun s => regCommand s src .SEC_BOOT 0 8) s

/-- AES_RING_POST (R468): Writing SEC_AES_RING TAIL posts decryption jobs. -/
def execAesRingPost (src : BitVec 16) (v : Word) (s : State) : Out :=
  run true (fun s => regCommand s src .SEC_AES_RING 0 v) s

/-- AES_JOB_COMPLETE (R469): A decryption job ends DONE or AUTHFAIL after its tag comparison. -/
def execAesJobComplete (idx : Fin 16) (ok : Bool) (s : State) : Out :=
  run true (aesComplete idx.val ok) s

/-- AES_ABORT (R488): SEC_AES_RING.ABORT discards the running job and disables the unit. -/
def execAesAbort (src : BitVec 16) (s : State) : Out :=
  run true (fun s => abortWrite s src .SEC_AES_RING 0) s

/-- AES_KEY_WRITE (R470): A write of SEC_KEY loads a 256-bit key slot. -/
def execAesKeyWrite (src : BitVec 16) (k : Fin 8) (w : BitVec 2) (v : Word) (s : State) : Out :=
  run true (fun s => regCommand s src .SEC_KEY (4 * k.val + w.toNat) v) s

/-- FW_COMMIT_GO (R471): SEC_FWC_CTL.GO starts a firmware commit to the other slot. -/
def execFwCommitGo (src : BitVec 16) (s : State) : Out :=
  run true (fun s => regCommand s src .SEC_FWC_CTL 0 1) s

/-- FW_COMMIT_DONE (R471): The commit ends with its CODE and SEC-FWC-DONE. -/
def execFwCommitDone (verified : Bool) (readback : Bool) (s : State) : Out :=
  run true (fun s => fwcDone s verified readback) s

/-- FW_COMMIT_ABORT (R472): ABORT stops the commit at a flash operation boundary. -/
def execFwCommitAbort (src : BitVec 16) (s : State) : Out :=
  run true (fun s => regCommand s src .SEC_FWC_CTL 0 2) s

/-- CHANGE_LOG_LINE_PERFORMED (R475): A 128-byte line of entries is performed in HBM and leaves staging. -/
def execChangeLogLinePerformed (s : State) : Out :=
  run true (fun s => clgPerformed s) s

end Sys2Proof.Machine
end

