-- ==== Sys2Proof/Machine/IntakeArms.lean ====
section
/-! DEFINITION. The commands of the intake and the Forebay: one meaning for each, over the shared operations. -/

namespace Sys2Proof.Machine

/-- CSI2_FRAME_START (R287): A frame start packet opens a frame, stamped, accepted into a set or dropped. -/
def execCsi2FrameStart (c : Fin 24) (vc : BitVec 4) (fnum : BitVec 16) (ecc : EccKind) (s : State) : Out :=
  run true (fun s => csiStart s c.val vc.toNat fnum.toNat ecc) s

/-- CSI2_ROW_RECEIVE (R282): A long packet lands as the next raw row, or as a bad row. -/
def execCsi2RowReceive (c : Fin 24) (pkt : CsiPacket) (s : State) : Out :=
  run pkt.wellFormed (fun s => csiRow s c.val pkt) s

/-- CSI2_FRAME_END (R282): A frame end packet ends the frame and readies its last stripe. -/
def execCsi2FrameEnd (c : Fin 24) (vc : BitVec 4) (ecc : EccKind) (s : State) : Out :=
  run true (fun s => csiEnd s c.val vc.toNat ecc) s

/-- FRAME_TIMEOUT (R282): No packet for 100 ms inside a frame ends it TRUNC with TIMEOUT. -/
def execFrameTimeout (c : Fin 24) (s : State) : Out :=
  run true (fun s => frameTimeout s c.val) s

/-- APHY_LOCK_LOSS (R282): Loss of A-PHY lock ends the open frame and appends ING-LINK-DOWN. -/
def execAphyLockLoss (c : Fin 24) (s : State) : Out :=
  run true (fun s => aphyLoss s c.val) s

/-- PIPE_STRIPE_DONE (R290): A pixel pipe finishes a ready stripe and signals RGATE once its rows are performed.
-/
def execPipeStripeDone (p : Fin 4) (s : State) : Out :=
  run true (fun s => pipeStripe s p.val) s

/-- FRAME_DELIVER (R290): End of frame: tiles, frame record, FGATE signal and WR advance, with frozen-frame
checks. -/
def execFrameDeliver (c : Fin 24) (s : State) : Out :=
  run true (fun s => deliver s c.val) s

/-- POC_SHORT (R507): A power-over-coax short is detected, power switched off and ING-POC-FAULT appended. -/
def execPocShort (c : Fin 24) (s : State) : Out :=
  run true (fun s => pocShort s c.val) s

/-- POC_OPEN (R507): Current below 10 mA for 20 ms sets POCST open. -/
def execPocOpen (c : Fin 24) (s : State) : Out :=
  run true (fun s => pocOpen s c.val) s

/-- INTAKE_CHANNEL_ENABLE (R288): EN written 1 checks the channel configuration and enables it or appends
ING-CFG-REFUSED. -/
def execIntakeChannelEnable (src : BitVec 16) (c : Fin 24) (s : State) : Out :=
  run true (fun s => enWrite s src .ING_CH_CTL c.val) s

/-- INTAKE_CHANNEL_DRAIN (R295): EN written 0 drains the channel after its frame in progress. -/
def execIntakeChannelDrain (src : BitVec 16) (c : Fin 24) (s : State) : Out :=
  run true (fun s => drainWrite s src .ING_CH_CTL c.val) s

/-- INTAKE_CHANNEL_ABORT (R295): ABORT discards the frame in progress and disables the channel. -/
def execIntakeChannelAbort (src : BitVec 16) (c : Fin 24) (s : State) : Out :=
  run true (fun s => abortWrite s src .ING_CH_CTL c.val) s

/-- STEER_GO (R293): ING_STEER.GO starts a copy of steering boxes into the pending table. -/
def execSteerGo (src : BitVec 16) (c : Fin 24) (v : Word) (s : State) : Out :=
  run true (fun s => regCommand s src .ING_STEER c.val (v ||| bit64 48)) s

/-- STEER_COPY_DONE (R293): The steering copy ends and BUSY clears. -/
def execSteerCopyDone (c : Fin 24) (s : State) : Out :=
  run true (fun s => steerDone s c.val) s

/-- FOREBAY_PUSH (R296): ING_FB_CMD push copies a batch descriptor into a FREE slot or refuses it. -/
def execForebayPush (src : BitVec 16) (v : Word) (s : State) : Out :=
  run true (fun s => regCommand s src .ING_FB_CMD 0 (putBits v 46 45 1)) s

/-- FOREBAY_RELEASE (R305): ING_FB_CMD release makes a TAKEN slot FREE. -/
def execForebayRelease (src : BitVec 16) (v : Word) (s : State) : Out :=
  run true (fun s => regCommand s src .ING_FB_CMD 0 (putBits v 46 45 2)) s

/-- FOREBAY_TAKE (R305): A read of ING_FB_TAKE takes the oldest batch if READY. -/
def execForebayTake (src : BitVec 16) (s : State) : Out :=
  run true (fun s => readCommand s src .ING_FB_TAKE 0) s

/-- FOREBAY_SAMPLE_DONE (R301): A sample ends with its status; the last makes the batch READY, signals BGATE and
appends the event. -/
def execForebaySampleDone (slot : Fin 32) (i : Fin 256) (ns : Nat) (s : State) : Out :=
  run true (fun s => fbSampleDone s slot.val i.val ns) s

/-- FOREBAY_SAMPLE_LATE (R303): A sample reaching its time budget is aborted LATE. -/
def execForebaySampleLate (slot : Fin 32) (i : Fin 256) (ns : Nat) (s : State) : Out :=
  run true (fun s => fbSampleLate s slot.val i.val ns) s

/-- FOREBAY_DEADLINE (R303): The batch DEADLINE is reached; unfinished samples end LATE and the batch becomes
READY. -/
def execForebayDeadline (slot : Fin 32) (s : State) : Out :=
  run true (fun s => fbDeadline s slot.val) s

/-- FOREBAY_ENABLE (R488): ING_FB_CTL.EN written 1 enables the Forebay. -/
def execForebayEnable (src : BitVec 16) (s : State) : Out :=
  run true (fun s => enWrite s src .ING_FB_CTL 0) s

/-- FOREBAY_DRAIN (R306): EN written 0 refuses pushes and completes FILLING batches. -/
def execForebayDrain (src : BitVec 16) (s : State) : Out :=
  run true (fun s => drainWrite s src .ING_FB_CTL 0) s

/-- FOREBAY_ABORT (R306): ABORT ends every FILLING batch and frees its slot. -/
def execForebayAbort (src : BitVec 16) (s : State) : Out :=
  run true (fun s => abortWrite s src .ING_FB_CTL 0) s

end Sys2Proof.Machine
end

