-- ==== Sys2Proof/Machine/JournalArms.lean ====
section
/-! DEFINITION. The commands of the journal, strict mode and two-module lock-step: one meaning for each, over the shared operations. -/

namespace Sys2Proof.Machine

/-- JOURNAL_RECORD_WRITE (R397): A held input's 20 µs hold ends and its record is written in stamp order. -/
def execJournalRecordWrite (s : State) : Out :=
  run true (fun s => journalWrite s) s

/-- JOURNAL_RECORD_LANDED (R398): A record's last piece is performed in HBM and WR advances. -/
def execJournalRecordLanded (s : State) : Out :=
  run true (fun s => journalLanded s) s

/-- JOURNAL_LOST_RECORD (R398): Space frees after drops and the LOST record is written. -/
def execJournalLostRecord (s : State) : Out :=
  run true (fun s => journalLost s) s

/-- JOURNAL_MARK (R395): A write of JNL_MARK makes a MARK record. -/
def execJournalMark (src : BitVec 16) (v : Word) (s : State) : Out :=
  run true (fun s => regCommand s src .JNL_MARK 0 v) s

/-- JOURNAL_ENABLE (R395): JNL_CTL.EN written 1 starts recording or replay. -/
def execJournalEnable (src : BitVec 16) (v : Word) (s : State) : Out :=
  run true (fun s => regCommand s src .JNL_CTL 0 (putBits v 1 0 1)) s

/-- JOURNAL_DRAIN (R399): EN cleared: held inputs are written, then a SEAL record. -/
def execJournalDrain (src : BitVec 16) (s : State) : Out :=
  run true (fun s => drainWrite s src .JNL_CTL 0) s

/-- JOURNAL_ABORT (R399): ABORT writes a SEAL at once, dropping held inputs. -/
def execJournalAbort (src : BitVec 16) (s : State) : Out :=
  run true (fun s => abortWrite s src .JNL_CTL 0) s

/-- JOURNAL_FEED (R401): A write of JNL_FEED.LEN starts a copy from the feed area into the ring. -/
def execJournalFeed (src : BitVec 16) (v : Word) (s : State) : Out :=
  run true (fun s => regCommand s src .JNL_FEED 0 v) s

/-- JOURNAL_FEED_DONE (R401): The feed copy is performed; WR and FOFF advance and BUSY clears. -/
def execJournalFeedDone (s : State) : Out :=
  run true (fun s => feedDone s) s

/-- REPLAY_PRESENT_RECORD (R402): At STAMP + DELTA the next replay record's input is presented through its unit.
-/
def execReplayPresentRecord (rows : List Byte) (s : State) : Out :=
  run true (fun s => replayPresent s rows) s

/-- STRICT_WRITE (R394): A write that changes DET_CTL.STRICT starts reaching each island. -/
def execStrictWrite (src : BitVec 16) (v : Word) (s : State) : Out :=
  run true (fun s => regCommand s src .DET_CTL 0 v) s

/-- STRICTNOW_APPLIED (R394): Every island has applied the new strict value and STRICTNOW updates. -/
def execStrictnowApplied (s : State) : Out :=
  run true (fun s => strictApplied s) s

/-- DET_KEY_RECOMPUTE (R390): DET_KEY is recomputed after an input changes and a KEY record written if it
changed. -/
def execDetKeyRecompute (s : State) : Out :=
  run true (fun s => keyRecompute s) s

/-- LOCKSTEP_DIGEST_SEND (R404): An epoch's digest is sent on D1 once its frames are final or its time limit
comes. -/
def execLockstepDigestSend (s : State) : Out :=
  run true (fun s => digestSend s) s

/-- LOCKSTEP_DIGEST_RECEIVE (R405): The partner's digest arrives and is compared, appending DET-LS-MISMATCH on
difference. -/
def execLockstepDigestReceive (k : Nat) (digest : List Byte) (s : State) : Out :=
  run (isDigest digest) (fun s => digestReceive s k digest) s

/-- LOCKSTEP_DIGEST_MISSING (R405): No digest by 2 × EPER after the epoch end appends DET-LS-MISSING. -/
def execLockstepDigestMissing (k : Nat) (s : State) : Out :=
  run true (fun s => digestMissing s k) s

end Sys2Proof.Machine
end

