-- ==== Sys2Proof/Machine/LinkArms.lean ====
section
/-! DEFINITION. The commands of Dvoril links, page walkers and edge engines: one meaning for each, over the shared operations. -/

namespace Sys2Proof.Machine

/-- DVORIL_LINK_ENABLE (R218): EN written 1 starts training of a Dvoril port. -/
def execDvorilLinkEnable (src : BitVec 16) (p : Fin 2) (s : State) : Out :=
  run true (fun s => enWrite s src .DVL_CTL p.val) s

/-- DVORIL_LINK_UP (R220): Training and management exchange finish, the port is UP and DVL-LINK-UP appended. -/
def execDvorilLinkUp (p : Fin 2) (partner : DvPartner) (s : State) : Out :=
  run true (fun s => dvLinkUpKeys s p.val partner) s

/-- DVORIL_TRAINING_TIMEOUT (R218): Training fails within 20 ms and the port stays DOWN. -/
def execDvorilTrainingTimeout (p : Fin 2) (s : State) : Out :=
  run true (fun s => dvTrainFail s p.val) s

/-- DVORIL_LOCK_LOSS (R220): Loss of FEC lock for 1 µs takes the link DOWN. -/
def execDvorilLockLoss (p : Fin 2) (s : State) : Out :=
  run true (fun s => dvLockLoss s p.val) s

/-- DVORIL_ABORT (R220): ABORT takes the link down at once. -/
def execDvorilAbort (src : BitVec 16) (p : Fin 2) (s : State) : Out :=
  run true (fun s => abortWrite s src .DVL_CTL p.val) s

/-- DVORIL_DRAIN (R221): EN cleared: the port stops sending new frames and drains. -/
def execDvorilDrain (src : BitVec 16) (p : Fin 2) (s : State) : Out :=
  run true (fun s => drainWrite s src .DVL_CTL p.val) s

/-- DVORIL_FRAME_SEND (R212): The port sends the next frame from the highest non-empty virtual channel with
credit. -/
def execDvorilFrameSend (p : Fin 2) (s : State) : Out :=
  run true (fun s => dvSend s p.val) s

/-- DVORIL_FRAME_RECEIVE (R219): A frame arrives, is checked for CRC and sequence, and its payload or posts are
delivered. -/
def execDvorilFrameReceive (p : Fin 2) (f : DvFrame) (s : State) : Out :=
  run f.wellFormed (fun s => dvReceive s p.val f) s

/-- DVORIL_FRAME_LANDED (R213): A bulk payload is performed at its banks and the landed count advances. -/
def execDvorilFrameLanded (p : Fin 2) (s : State) : Out :=
  run true (fun s => dvLanded s p.val) s

/-- DVORIL_RESEND (R219): The sender resends from the first unacknowledged frame after a gap. -/
def execDvorilResend (p : Fin 2) (s : State) : Out :=
  run true (fun s => dvResend s p.val) s

/-- DVORIL_SEND_COMPLETE (R216): The partner acknowledges a send's last frame; the mover signals and writes
CODE. -/
def execDvorilSendComplete (p : Fin 2) (s : State) : Out :=
  run true (fun s => dvSendComplete s p.val) s

/-- DVORIL_TIME_EXCHANGE (R222): Every 10 µs time frames are exchanged and TB_INC is disciplined when DISC is
set. -/
def execDvorilTimeExchange (p : Fin 2) (t1 : Nat) (t2 : Nat) (t3 : Nat) (t4 : Nat) (s : State) : Out :=
  run true (fun s => dvTimeExchange s p.val t1 t2 t3 t4) s

/-- PAGE_WALKER_RESUME (R247): CST_PW_CTL.RESUME retries every stalled sequence of the cluster. -/
def execPageWalkerResume (src : BitVec 16) (c : Fin 16) (s : State) : Out :=
  run true (fun s => regCommand s src .CST_PW_CTL c.val 1) s

/-- PAGE_WALKER_CANCEL (R247): CST_PW_CTL.CANCEL ends every stalled sequence with KV_EXHAUSTED. -/
def execPageWalkerCancel (src : BitVec 16) (c : Fin 16) (s : State) : Out :=
  run true (fun s => regCommand s src .CST_PW_CTL c.val 2) s

/-- PAGE_WALKER_FLUSH (R231): CST_PW_CTL.FLUSH invalidates the look-aside buffer. -/
def execPageWalkerFlush (src : BitVec 16) (c : Fin 16) (s : State) : Out :=
  run true (fun s => regCommand s src .CST_PW_CTL c.val 4) s

/-- EDGE_RING_POST (R274): Writing EDG_RING TAIL posts edge engine jobs. -/
def execEdgeRingPost (src : BitVec 16) (x : Fin 2) (v : Word) (s : State) : Out :=
  run true (fun s => regCommand s src .EDG_RING x.val v) s

/-- EDGE_JOB_TAKE (R275): The edge engine takes the next job, checks it and waits on IGATE. -/
def execEdgeJobTake (x : Fin 2) (s : State) : Out :=
  run true (fun s => edgeTake s x.val) s

/-- EDGE_JOB_COMPLETE (R276): A job's output is performed, OGATE signalled, EDG-JOB-DONE appended and CODE
written. -/
def execEdgeJobComplete (x : Fin 2) (s : State) : Out :=
  run true (fun s => edgeComplete s x.val) s

/-- EDGE_ENABLE (R488): EDG_CTL.EN written 1 enables the edge engine. -/
def execEdgeEnable (src : BitVec 16) (x : Fin 2) (s : State) : Out :=
  run true (fun s => enWrite s src .EDG_CTL x.val) s

/-- EDGE_DRAIN (R279): EDG_CTL.EN written 0 drains the edge engine. -/
def execEdgeDrain (src : BitVec 16) (x : Fin 2) (s : State) : Out :=
  run true (fun s => drainWrite s src .EDG_CTL x.val) s

/-- EDGE_ABORT (R279): EDG_CTL.ABORT ends the job in progress and disables the engine. -/
def execEdgeAbort (src : BitVec 16) (x : Fin 2) (s : State) : Out :=
  run true (fun s => abortWrite s src .EDG_CTL x.val) s

/-- DIVERSE_JOB_GO (R423): DRD_DIV_CTL.GO makes the Tailwater engine run the diverse recomputation job next. -/
def execDiverseJobGo (src : BitVec 16) (s : State) : Out :=
  run true (fun s => regCommand s src .DRD_DIV_CTL 0 1) s

end Sys2Proof.Machine
end

