-- ==== Sys2Proof/Machine/PowerArms.lean ====
section
/-! DEFINITION. The commands of resets, power, clocks, pins and register accesses: one meaning for each, over the shared operations. -/

namespace Sys2Proof.Machine

/-- WARM_RESET (R486): WTM_RST.WARM quiesces the module and reboots it. -/
def execWarmReset (src : BitVec 16) (s : State) : Out :=
  run true (fun s => regCommand s src .WTM_RST 0 (kept s .WTM_RST 0 ||| 1)) s

/-- COLD_RESET (R484): WTM_RST.COLD resets everything. -/
def execColdReset (src : BitVec 16) (s : State) : Out :=
  run true (fun s => regCommand s src .WTM_RST 0 (kept s .WTM_RST 0 ||| 2)) s

/-- ISLAND_RESET (R485): WTM_RST.ISL resets one island or is refused. -/
def execIslandReset (src : BitVec 16) (isl : BitVec 6) (s : State) : Out :=
  run true (fun s => regCommand s src .WTM_RST 0 (putBits (kept s .WTM_RST 0) 9 4 isl.toNat ||| 4)) s

/-- ISLAND_RESET_EXIT (R485): An island leaves reset and WTM-ISL-RESET is appended. -/
def execIslandResetExit (isl : Fin 36) (s : State) : Out :=
  run true (fun s => islandExit s isl.val) s

/-- ENGINE_RESET (R484): WTM_RST.ENG resets one engine's architectural state. -/
def execEngineReset (src : BitVec 16) (e : Fin 256) (s : State) : Out :=
  run true (fun s => regCommand s src .WTM_RST 0 (putBits (kept s .WTM_RST 0) 17 10 e.val ||| 8)) s

/-- RESET_PIN (R484): RST_N asserted causes a warm reset. -/
def execResetPin (s : State) : Out :=
  runAlways true (fun s => resetPin s) s

/-- POWER_LOSS (R501): PG falls and the module takes a cold reset. -/
def execPowerLoss (s : State) : Out :=
  runAlways true (fun s => powerLoss s) s

/-- VIN_REVERSED (R508): Reversed input blocks power and drives REV_N low. -/
def execVinReversed (on : Bool) (s : State) : Out :=
  runAlways true (fun s => vinReversed s on) s

/-- ISLAND_CLOCK_RESTORE (R18): An entry arriving at a gated island asks the Watermaster to restore its clock.
-/
def execIslandClockRestore (isl : Fin 36) (s : State) : Out :=
  run true (fun s => clockRestore s isl.val) s

/-- WTM_REEVALUATE (R478): Every 10 µs the Watermaster re-evaluates each island's clock step. -/
def execWtmReevaluate (isl : Fin 36) (mw : Nat) (mwUp : Nat) (s : State) : Out :=
  run true (fun s => reevaluate s isl.val mw mwUp) s

/-- ISLAND_CLOCK_STEP (R479): An adjustable island moves one clock and voltage step. -/
def execIslandClockStep (isl : Fin 36) (up : Bool) (s : State) : Out :=
  run true (fun s => clockStep s isl.val up) s

/-- POWER_RECALL_COMPLETE (R482): Borrowers are lowered, the allowance returned and the lender raised. -/
def execPowerRecallComplete (isl : Fin 36) (s : State) : Out :=
  run true (fun s => recallDone s isl.val) s

/-- POWER_CAP_EXCURSION (R480): Package power above CAP lowers borrowers and appends WTM-CAP. -/
def execPowerCapExcursion (mw : Nat) (isls : List Nat) (s : State) : Out :=
  run (decide (isls.length = 36)) (fun s => capExcursion s mw isls) s

/-- INPUT_POWER_EXCURSION (R499): Input power above 320 W lowers islands and appends WTM-INPUT. -/
def execInputPowerExcursion (mw : Nat) (isls : List Nat) (s : State) : Out :=
  run (decide (isls.length = 36)) (fun s => inputExcursion s mw isls) s

/-- THERMAL_THROTTLE (R483): A junction above THR lowers the die's islands stepwise and appends WTM-THROTTLE. -/
def execThermalThrottle (die : DieSensor) (tj : Int) (s : State) : Out :=
  run true (fun s => thermal s die tj) s

/-- PLATE_RANGE_EXCURSION (R502): The cold plate leaves its range and WTM-PLATE-RANGE is appended. -/
def execPlateRangeExcursion (tcp : Int) (s : State) : Out :=
  run true (fun s => plateRange s tcp) s

/-- SENSE_OPEN (R500): An open sense line sets SENSEF. -/
def execSenseOpen (s : State) : Out :=
  run true (fun s => s.setBit WTM_MOD.SENSEF 0 true) s

/-- GPIO_EDGE (R506): A selected edge on a GPIO pin appends WTM-GPIO. -/
def execGpioEdge (pin : Fin 16) (level : Bool) (s : State) : Out :=
  run true (fun s => gpioEdge s pin.val level) s

/-- DEBUG_MARK (R514): A write of DBG_MARK appends DBG-MARK. -/
def execDebugMark (src : BitVec 16) (v : Word) (s : State) : Out :=
  run true (fun s => regCommand s src .DBG_MARK 0 v) s

/-- REGISTER_WRITE (R512): A write to a register that has no row of its own, performed in arrival order. -/
def execRegisterWrite (src : BitVec 16) (addr : BitVec 40) (size : Nat) (v : Word) (s : State) : Out :=
  run true (fun s => addrWrite s src.toNat addr.toNat size v) s

/-- TIMEBASE_TICK (R350): At every tick of the 400 MHz timebase clock the Timebase adds TB_INC to its total. -/
def execTimebaseTick (s : State) : Out :=
  run true (fun s => tbTick s) s

/-- HBM_PSEUDO_CHANNEL_GRANT (R164): An HBM pseudo-channel grants a presented request from its presentation
slots, or gives an idle cycle to the scrub engine. -/
def execHbmPseudoChannelGrant (st : Fin 2) (pc : Fin 64) (arr : List (BitVec 2)) (s : State) : Out :=
  run true (fun s => hbmGrant s st.val pc.val (arr.map BitVec.toNat)) s

/-- BASIN_SUBBANK_GRANT (R161): A Basin sub-bank serves one 64-byte access per cluster clock, owner first, then
the oldest sibling, with the 32-clock priority rule. -/
def execBasinSubbankGrant (e : Fin 256) (o : Fin 1572864) (owner : Bool) (sibs : List (BitVec 4)) (s : State) : Out :=
  run true (fun s => basinGrant s e.val (basinSub o.val) owner (sibs.map BitVec.toNat)) s

/-- LANE_CLOCK_GATE (R316): A lane that has waited 2 µs in snext has its clock gated; when all 32 lanes of an
island wait, the island lends its allowance. -/
def execLaneClockGate (l : Fin 64) (s : State) : Out :=
  run true (fun s => laneGated s l.val) s

/-- APHY_LOCK (R280): An A-PHY receiver gains lock on its camera link and sets ING_CH_LINK.LOCK and GEARNOW. -/
def execAphyLock (c : Fin 24) (gear : BitVec 2) (s : State) : Out :=
  run true (fun s => aphyLock s c.val gear.toNat) s

/-- WARM_RESET_RELEASE (R503): RST_N or PERST_N going high ends the held warm reset, the boot runs, and the
endpoint becomes ready 100 ms after PERST_N. -/
def execWarmResetRelease (pin : ResetPin) (b : BootInput) (s : State) : Out :=
  runAlways b.wellFormed (fun s => resetRelease s pin b) s

/-- PCIE_CONFIGURATION_REQUEST (R457): A host configuration request sets endpoint state such as Bus Master
Enable and MSI-X Enable. -/
def execPcieConfigurationRequest (f : Fin 4) (bme : Bool) (msixEn : Bool) (s : State) : Out :=
  run true (fun s => configRequest s f.val bme msixEn) s

/-- MSI_X_TABLE_WRITE (R459): A host write to a function's MSI-X table through window C unmasks a vector and
sends its pending message. -/
def execMsixTableWrite (f : Fin 4) (vec : BitVec 8) (masked : Bool) (addr : Word) (data : BitVec 32)
    (s : State) : Out :=
  run true (fun s => msixWrite s f.val vec.toNat masked addr data) s

/-- REGISTER_READ_CLEAR (R10): A read of a register with RC fields returns them and then clears them; for
CLG_STAT.LOST it re-arms CLG-LOST. -/
def execRegisterReadClear (src : BitVec 16) (addr : BitVec 40) (size : Nat) (s : State) : Out :=
  run true (fun s => addrRead s src.toNat addr.toNat size) s

/-- GPIO_FLT (R506): A push-pull GPIO that reads back different from OUT for 10 µs, or holds its current limit,
sets the sticky FLT bit. -/
def execGpioFlt (pin : Fin 16) (limit : Bool) (s : State) : Out :=
  run true (fun s => gpioFlt s pin.val limit) s

end Sys2Proof.Machine
end

