-- ==== Sys2Proof/Machine/SafetyArms.lean ====
section
/-! DEFINITION. The commands of the Ditch Rider, self-tests and stored-data integrity: one meaning for each, over the shared operations. -/

namespace Sys2Proof.Machine

/-- DNEXT (R410): Ditch Rider waits for and takes the oldest inbox record. -/
def execDnext (gd : BitVec 5) (stop : Bool) (s : State) : Out :=
  runInstr (.dnext gd stop) s

/-- DVERD (R418): Ditch Rider verdict seals a pending ticket's frame. -/
def execDverd (ga : BitVec 5) (gb : BitVec 5) (stop : Bool) (s : State) : Out :=
  runInstr (.dverd ga gb stop) s

/-- DFLAG (R410): Ditch Rider reports a detection of a class for a unit. -/
def execDflag (ga : BitVec 5) (gb : BitVec 5) (stop : Bool) (s : State) : Out :=
  runInstr (.dflag ga gb stop) s

/-- DPET (R412): Restarts the Ditch Rider firmware watchdog. -/
def execDpet (stop : Bool) (s : State) : Out :=
  runInstr (.dpet stop) s

/-- FW_WATCHDOG_EXPIRE (R412): No dpet within FWWD gives a detection of class 1. -/
def execFwWatchdogExpire (s : State) : Out :=
  run true (fun s => fwExpire s) s

/-- DRD_LOCKSTEP_MISMATCH (R409): The Ditch Rider comparator finds a mismatch, a detection of class 0. -/
def execDrdLockstepMismatch (s : State) : Out :=
  run true (fun s => detect s 0 drdSrc) s

/-- DETECTION (R413): A detection reaches the Ditch Rider and takes its counted reaction. -/
def execDetection (k : Fin 26) (sid : BitVec 16) (s : State) : Out :=
  run true (fun s => detect s k.val sid.toNat) s

/-- DRD_ISO_WRITE (R432): A Ditch Rider write of DRD_ISO isolates the named unit. -/
def execDrdIsoWrite (src : BitVec 16) (v : Word) (s : State) : Out :=
  run true (fun s => regCommand s src .DRD_ISO 0 v) s

/-- DETECTION_LEAK (R413): Every LEAK ms a class's COUNT loses 1. -/
def execDetectionLeak (k : Fin 26) (s : State) : Out :=
  run true (fun s => detectionLeak s k.val) s

/-- WATCHDOG_CHECKIN (R420): A check-in reaches island 32 and is judged against the watchdog window. -/
def execWatchdogCheckin (w : Fin 64) (sid : BitVec 16) (s : State) : Out :=
  run true (fun s => checkIn s w.val sid.toNat) s

/-- WATCHDOG_MISS (R419): No check-in by t + MAX is a class 2 detection. -/
def execWatchdogMiss (w : Fin 64) (s : State) : Out :=
  run true (fun s => watchdogMiss s w.val) s

/-- SAFE_FORCE (R431): DRD_SAFE.FORCE enters safe state as a class 24 detection. -/
def execSafeForce (src : BitVec 16) (s : State) : Out :=
  run true (fun s => regCommand s src .DRD_SAFE 0 2) s

/-- DRD_ARM (R431): DRD_CTL.ARM starts the firmware watchdog and permits SAFE_OK. -/
def execDrdArm (src : BitVec 16) (s : State) : Out :=
  run true (fun s => regCommand s src .DRD_CTL 0 (kept s .DRD_CTL 0 ||| 1)) s

/-- SAFE_HEARTBEAT (R431): SAFE_HB toggles every 100 µs while SAFE_OK is active. -/
def execSafeHeartbeat (s : State) : Out :=
  run true (fun s => heartbeat s) s

/-- SAFE_LINE_READBACK_FAULT (R505): A safe line reads back differently for 1 µs, a class 22 detection. -/
def execSafeLineReadbackFault (line : SafeLine) (s : State) : Out :=
  run true (fun s => readbackFault s line) s

/-- STARTUP_INJECTION (R425): At each cold and warm start the checkers are fed injected faults and DRD_INJ
written. -/
def execStartupInjection (rows : BitVec 10) (s : State) : Out :=
  run true (fun s => syncReady (startupInjection s rows)) s

/-- SELFTEST_IDLE_DECLARE (R427): A write of DRD_ST_IDLE declares or revokes a target's idle window. -/
def execSelftestIdleDeclare (src : BitVec 16) (v : Word) (s : State) : Out :=
  run true (fun s => regCommand s src .DRD_ST_IDLE 0 v) s

/-- SELFTEST_SLICE_START (R427): A self-test slice starts inside an idle window of its target. -/
def execSelftestSliceStart (sid : BitVec 16) (s : State) : Out :=
  run true (fun s => sliceStart s sid.toNat) s

/-- SELFTEST_SLICE_DONE (R426): A slice completes; a failure is a class 14 detection. -/
def execSelftestSliceDone (sid : BitVec 16) (ok : Bool) (s : State) : Out :=
  run true (fun s => sliceDone s sid.toNat ok) s

/-- SELFTEST_SLICE_ABORT (R427): A slice in progress at a window boundary or on new work is aborted. -/
def execSelftestSliceAbort (sid : BitVec 16) (s : State) : Out :=
  run true (fun s => sliceAbort s sid.toNat) s

/-- SELFTEST_STARVED (R427): No pass within STDL appends SELFTEST-STARVED. -/
def execSelftestStarved (sid : BitVec 16) (s : State) : Out :=
  run true (fun s => selftestStarved s sid.toNat) s

/-- GOLDEN_URGENT (R428): At a window's latest start without PASS the Ditch Rider sets URGENT. -/
def execGoldenUrgent (s : State) : Out :=
  run true (fun s => goldenUrgent s) s

/-- GOLDEN_WINDOW_END (R428): A golden window ending without PASS is a class 17 detection. -/
def execGoldenWindowEnd (s : State) : Out :=
  run true (fun s => goldenWindowEnd s) s

/-- BANK_FALLBACK_COPY_DONE (R435): The scrub engine finishes copying a faulty bank into HBM and fallback
becomes active. -/
def execBankFallbackCopyDone (s : State) : Out :=
  run true (fun s => fallbackDone s) s

/-- ECC_BUCKET_LEAK (R442): Every LEAK ms a bucket's LEVEL and bank UE counts lose 1. -/
def execEccBucketLeak (b : BucketId) (s : State) : Out :=
  run true (fun s => bucketLeak s b) s

/-- SCRUB_GO (R449): GO starts a Cistern or HBM scrub pass or refuses it. -/
def execScrubGo (src : BitVec 16) (h : ScrubId) (s : State) : Out :=
  run true (fun s => scrubCommand s src h 1) s

/-- SCRUB_RESUME (R452): GO with RESUME continues an aborted pass from PROG. -/
def execScrubResume (src : BitVec 16) (h : ScrubId) (s : State) : Out :=
  run true (fun s => scrubCommand s src h 3) s

/-- SCRUB_ABORT (R452): ABORT stops the pass at a code-word boundary. -/
def execScrubAbort (src : BitVec 16) (h : ScrubId) (s : State) : Out :=
  run true (fun s => scrubCommand s src h 4) s

/-- SCRUB_CODE_WORD (R450): The pass reads, corrects and writes back one code word. -/
def execScrubCodeWord (h : ScrubId) (s : State) : Out :=
  run true (fun s => scrubStep s h) s

end Sys2Proof.Machine
end

