-- ==== Sys2Proof/Machine/ScalarArms.lean ====
section
/-! DEFINITION. The commands of S-class instructions: one meaning for each, over the shared operations. -/

namespace Sys2Proof.Machine

/-- ADD (R76): Scalar instruction that writes ra + rb into rd. -/
def execAdd (c : Core) (rd : BitVec 5) (ra : BitVec 5) (rb : BitVec 5) (stop : Bool) (s : State) : Out :=
  runInstr (.add c rd ra rb stop) s

/-- SUB (R76): Scalar instruction that writes ra − rb into rd. -/
def execSub (c : Core) (rd : BitVec 5) (ra : BitVec 5) (rb : BitVec 5) (stop : Bool) (s : State) : Out :=
  runInstr (.sub c rd ra rb stop) s

/-- AND (R76): Scalar bitwise AND of two registers. -/
def execAnd (c : Core) (rd : BitVec 5) (ra : BitVec 5) (rb : BitVec 5) (stop : Bool) (s : State) : Out :=
  runInstr (.and c rd ra rb stop) s

/-- OR (R76): Scalar bitwise OR of two registers. -/
def execOr (c : Core) (rd : BitVec 5) (ra : BitVec 5) (rb : BitVec 5) (stop : Bool) (s : State) : Out :=
  runInstr (.or c rd ra rb stop) s

/-- XOR (R76): Scalar bitwise exclusive OR of two registers. -/
def execXor (c : Core) (rd : BitVec 5) (ra : BitVec 5) (rb : BitVec 5) (stop : Bool) (s : State) : Out :=
  runInstr (.xor c rd ra rb stop) s

/-- SHL (R76): Scalar left shift by rb[5:0]. -/
def execShl (c : Core) (rd : BitVec 5) (ra : BitVec 5) (rb : BitVec 5) (stop : Bool) (s : State) : Out :=
  runInstr (.shl c rd ra rb stop) s

/-- SHR (R76): Scalar logical right shift by rb[5:0]. -/
def execShr (c : Core) (rd : BitVec 5) (ra : BitVec 5) (rb : BitVec 5) (stop : Bool) (s : State) : Out :=
  runInstr (.shr c rd ra rb stop) s

/-- SRA (R76): Scalar arithmetic right shift by rb[5:0]. -/
def execSra (c : Core) (rd : BitVec 5) (ra : BitVec 5) (rb : BitVec 5) (stop : Bool) (s : State) : Out :=
  runInstr (.sra c rd ra rb stop) s

/-- MUL (R76): Scalar multiply that keeps the low 64 bits of the product. -/
def execMul (c : Core) (rd : BitVec 5) (ra : BitVec 5) (rb : BitVec 5) (stop : Bool) (s : State) : Out :=
  runInstr (.mul c rd ra rb stop) s

/-- MULH (R76): Scalar multiply that keeps the high 64 bits of the signed 128-bit product. -/
def execMulh (c : Core) (rd : BitVec 5) (ra : BitVec 5) (rb : BitVec 5) (stop : Bool) (s : State) : Out :=
  runInstr (.mulh c rd ra rb stop) s

/-- SLT (R76): Signed set-less-than compare of two registers. -/
def execSlt (c : Core) (rd : BitVec 5) (ra : BitVec 5) (rb : BitVec 5) (stop : Bool) (s : State) : Out :=
  runInstr (.slt c rd ra rb stop) s

/-- SLTU (R76): Unsigned set-less-than compare of two registers. -/
def execSltu (c : Core) (rd : BitVec 5) (ra : BitVec 5) (rb : BitVec 5) (stop : Bool) (s : State) : Out :=
  runInstr (.sltu c rd ra rb stop) s

/-- SEQ (R76): Set-equal compare of two registers. -/
def execSeq (c : Core) (rd : BitVec 5) (ra : BitVec 5) (rb : BitVec 5) (stop : Bool) (s : State) : Out :=
  runInstr (.seq c rd ra rb stop) s

/-- ADDI (R76): Adds a sign-extended 13-bit immediate. -/
def execAddi (c : Core) (rd : BitVec 5) (ra : BitVec 5) (imm : BitVec 13) (stop : Bool) (s : State) : Out :=
  runInstr (.addi c rd ra imm stop) s

/-- SUBI (R76): Subtracts a sign-extended 13-bit immediate. -/
def execSubi (c : Core) (rd : BitVec 5) (ra : BitVec 5) (imm : BitVec 13) (stop : Bool) (s : State) : Out :=
  runInstr (.subi c rd ra imm stop) s

/-- ANDI (R76): Bitwise AND with a sign-extended immediate. -/
def execAndi (c : Core) (rd : BitVec 5) (ra : BitVec 5) (imm : BitVec 13) (stop : Bool) (s : State) : Out :=
  runInstr (.andi c rd ra imm stop) s

/-- ORI (R76): Bitwise OR with a sign-extended immediate. -/
def execOri (c : Core) (rd : BitVec 5) (ra : BitVec 5) (imm : BitVec 13) (stop : Bool) (s : State) : Out :=
  runInstr (.ori c rd ra imm stop) s

/-- XORI (R76): Bitwise exclusive OR with a sign-extended immediate. -/
def execXori (c : Core) (rd : BitVec 5) (ra : BitVec 5) (imm : BitVec 13) (stop : Bool) (s : State) : Out :=
  runInstr (.xori c rd ra imm stop) s

/-- SHLI (R76): Left shift by an immediate. -/
def execShli (c : Core) (rd : BitVec 5) (ra : BitVec 5) (imm : BitVec 13) (stop : Bool) (s : State) : Out :=
  runInstr (.shli c rd ra imm stop) s

/-- SHRI (R76): Logical right shift by an immediate. -/
def execShri (c : Core) (rd : BitVec 5) (ra : BitVec 5) (imm : BitVec 13) (stop : Bool) (s : State) : Out :=
  runInstr (.shri c rd ra imm stop) s

/-- SRAI (R76): Arithmetic right shift by an immediate. -/
def execSrai (c : Core) (rd : BitVec 5) (ra : BitVec 5) (imm : BitVec 13) (stop : Bool) (s : State) : Out :=
  runInstr (.srai c rd ra imm stop) s

/-- SLTI (R76): Signed compare with a sign-extended immediate. -/
def execSlti (c : Core) (rd : BitVec 5) (ra : BitVec 5) (imm : BitVec 13) (stop : Bool) (s : State) : Out :=
  runInstr (.slti c rd ra imm stop) s

/-- LD (R76): Loads an aligned 8-byte word into a scalar register, checked for reach and allotment. -/
def execLd (c : Core) (rd : BitVec 5) (ra : BitVec 5) (imm : BitVec 13) (stop : Bool) (s : State) : Out :=
  runInstr (.ld c rd ra imm stop) s

/-- LW (R76): Loads and sign-extends an aligned 4-byte word. -/
def execLw (c : Core) (rd : BitVec 5) (ra : BitVec 5) (imm : BitVec 13) (stop : Bool) (s : State) : Out :=
  runInstr (.lw c rd ra imm stop) s

/-- ST (R76): Stores an 8-byte scalar register to memory with its poison mark. -/
def execSt (c : Core) (rs : BitVec 5) (ra : BitVec 5) (imm : BitVec 13) (stop : Bool) (s : State) : Out :=
  runInstr (.st c rs ra imm stop) s

/-- SW (R76): Stores the low 4 bytes of a scalar register. -/
def execSw (c : Core) (rs : BitVec 5) (ra : BitVec 5) (imm : BitVec 13) (stop : Bool) (s : State) : Out :=
  runInstr (.sw c rs ra imm stop) s

/-- LI (R76): Loads a sign-extended 18-bit immediate. -/
def execLi (c : Core) (rd : BitVec 5) (imm : BitVec 18) (stop : Bool) (s : State) : Out :=
  runInstr (.li c rd imm stop) s

/-- LSH (R76): Shifts rd left by 18 and ORs in an immediate. -/
def execLsh (c : Core) (rd : BitVec 5) (imm : BitVec 18) (stop : Bool) (s : State) : Out :=
  runInstr (.lsh c rd imm stop) s

/-- BEQZ (R77): Branches if the register is zero. -/
def execBeqz (c : Core) (ra : BitVec 5) (off : BitVec 18) (stop : Bool) (s : State) : Out :=
  runInstr (.beqz c ra off stop) s

/-- BNEZ (R77): Branches if the register is non-zero. -/
def execBnez (c : Core) (ra : BitVec 5) (off : BitVec 18) (stop : Bool) (s : State) : Out :=
  runInstr (.bnez c ra off stop) s

/-- BLTZ (R77): Branches if the register is negative. -/
def execBltz (c : Core) (ra : BitVec 5) (off : BitVec 18) (stop : Bool) (s : State) : Out :=
  runInstr (.bltz c ra off stop) s

/-- BGEZ (R77): Branches if the register is not negative. -/
def execBgez (c : Core) (ra : BitVec 5) (off : BitVec 18) (stop : Bool) (s : State) : Out :=
  runInstr (.bgez c ra off stop) s

/-- JAL (R77): Writes the return address and branches. -/
def execJal (c : Core) (rd : BitVec 5) (off : BitVec 18) (stop : Bool) (s : State) : Out :=
  runInstr (.jal c rd off stop) s

/-- JR (R77): Branches to the address held in a register. -/
def execJr (c : Core) (ra : BitVec 5) (stop : Bool) (s : State) : Out :=
  runInstr (.jr c ra stop) s

/-- SRD (R78): Reads a special register, subject to mode and strict-mode rules. -/
def execSrd (c : Core) (rd : BitVec 5) (num : BitVec 12) (stop : Bool) (s : State) : Out :=
  runInstr (.srd c rd num stop) s

/-- SWR (R78): Writes a special register, effective from the next clause. -/
def execSwr (c : Core) (num : BitVec 12) (ra : BitVec 5) (stop : Bool) (s : State) : Out :=
  runInstr (.swr c num ra stop) s

/-- VCTL_ABORT (R62): Discards every verb in flight and frees all token slots. -/
def execVctlAbort (c : Core) (ra : BitVec 5) (stop : Bool) (s : State) : Out :=
  runInstr (.vctlAbort c ra stop) s

/-- DISP (R79): Runtime-mode dispatch that reads and checks a task descriptor and enters task mode. -/
def execDisp (c : Core) (ra : BitVec 5) (stop : Bool) (s : State) : Out :=
  runInstr (.disp c ra stop) s

/-- TEND (R69): Ends the task after all verbs and moves complete, writes EXIT and enters runtime mode. -/
def execTend (c : Core) (ra : BitVec 5) (stop : Bool) (s : State) : Out :=
  runInstr (.tend c ra stop) s

/-- YIELD (R81): Ends the task's slice, saves the arguments and entry address into the descriptor and enters
runtime mode. -/
def execYield (c : Core) (stop : Bool) (s : State) : Out :=
  runInstr (.yield c stop) s

/-- STAGE (R82): Sends a check-in to a window watchdog. -/
def execStage (c : Core) (ra : BitVec 5) (stop : Bool) (s : State) : Out :=
  runInstr (.stage c ra stop) s

end Sys2Proof.Machine
end

