-- ==== Sys2Proof/Machine/ServoArms.lean ====
section
/-! DEFINITION. The commands of the Servo Engine, SPI, injection and capture: one meaning for each, over the shared operations. -/

namespace Sys2Proof.Machine

/-- SERVO_INSTANT_RELEASE (R337): The Timebase reaches a loop instant and the engine releases it. -/
def execServoInstantRelease (n : Fin 192) (s : State) : Out :=
  run true (fun s => servoRelease s n.val) s

/-- SERVO_INPUT_SELECT (R340): 1 µs after an instant the loop selects its inputs and judges freshness. -/
def execServoInputSelect (n : Fin 192) (s : State) : Out :=
  run true (fun s => servoSelect s n.val) s

/-- SERVO_EVALUATE (R334): A loop evaluation runs its stages, integrator and limits and writes its output. -/
def execServoEvaluate (n : Fin 192) (bad : Bool) (s : State) : Out :=
  run true (fun s => servoEvaluate s n.val bad) s

/-- SERVO_STRICT_INPUT_FRESH (R343): A loop waiting in strict mode for a KIND 4 input evaluates once the input
is fresh. -/
def execServoStrictInputFresh (n : Fin 192) (s : State) : Out :=
  run true (fun s => servoFresh s n.val) s

/-- SERVO_LOOP_ENABLE (R345): EN written 1 checks the slot configuration and enables the loop or appends
SRV-CFG-REFUSED. -/
def execServoLoopEnable (src : BitVec 16) (n : Fin 192) (s : State) : Out :=
  run true (fun s => enWrite s src .SRV_LP_CTL n.val) s

/-- SERVO_LOOP_DRAIN (R346): EN written 0: the loop takes no further instant. -/
def execServoLoopDrain (src : BitVec 16) (n : Fin 192) (s : State) : Out :=
  run true (fun s => drainWrite s src .SRV_LP_CTL n.val) s

/-- SERVO_LOOP_ABORT (R346): ABORT discards the pending evaluation. -/
def execServoLoopAbort (src : BitVec 16) (n : Fin 192) (s : State) : Out :=
  run true (fun s => abortWrite s src .SRV_LP_CTL n.val) s

/-- SERVO_COEF_COMMIT (R347): Writing COEF2 makes the stage's three coefficient words take effect together. -/
def execServoCoefCommit (src : BitVec 16) (n : Fin 192) (st : Fin 8) (v : Word) (s : State) : Out :=
  run true (fun s => regCommand s src .SRV_LP_COEF2 (8 * n.val + st.val) v) s

/-- SPI_TRANSACTION (R340): An SPI port runs its periodic transaction and latches the sample with its stamp. -/
def execSpiTransaction (p : Fin 4) (data : List Byte) (s : State) : Out :=
  run (decide (data.length = 64)) (fun s => spiRun s p.val data) s

/-- INJECT_GO (R348): SRV_INJ_CTL.GO starts a test-signal injection. -/
def execInjectGo (src : BitVec 16) (v : Word) (s : State) : Out :=
  run true (fun s => regCommand s src .SRV_INJ_CTL 0 (putBits v 1 0 1)) s

/-- INJECT_STOP (R348): SRV_INJ_CTL.STOP ends the injection after the current evaluation. -/
def execInjectStop (src : BitVec 16) (s : State) : Out :=
  run true (fun s => regCommand s src .SRV_INJ_CTL 0 (kept s .SRV_INJ_CTL 0 ||| 2)) s

/-- CAPTURE_GO (R349): SRV_CAP_CTL.GO starts or arms a response capture. -/
def execCaptureGo (src : BitVec 16) (v : Word) (s : State) : Out :=
  run true (fun s => regCommand s src .SRV_CAP_CTL 0 (putBits v 1 0 1)) s

/-- CAPTURE_STOP (R349): SRV_CAP_CTL.STOP ends the capture after the current sample. -/
def execCaptureStop (src : BitVec 16) (s : State) : Out :=
  run true (fun s => regCommand s src .SRV_CAP_CTL 0 (kept s .SRV_CAP_CTL 0 ||| 2)) s

/-- CAPTURE_DONE (R349): All samples are performed, T0 set and SRV-CAP-DONE appended. -/
def execCaptureDone (s : State) : Out :=
  run true (fun s => capDone s) s

end Sys2Proof.Machine
end

