-- ==== Sys2Proof/Machine/SolverArms.lean ====
section
/-! DEFINITION. The commands of the Solver Array: one meaning for each, over the shared operations. -/

namespace Sys2Proof.Machine

/-- SOLVER_DOORBELL (R315): A write of SLV_DOOR queues a problem offset or is refused. -/
def execSolverDoorbell (src : BitVec 16) (l : Fin 64) (v : Word) (s : State) : Out :=
  run true (fun s => regCommand s src .SLV_DOOR l.val v) s

/-- SNEXT (R316): Lane waits for and begins the next problem after its descriptor checks. -/
def execSnext (l : Fin 64) (gd : BitVec 5) (stop : Bool) (s : State) : Out :=
  runInstr (.snext l gd stop) s

/-- PRIM (R310): Lane instruction that runs the primitive named by a 64-byte record. -/
def execPrim (l : Fin 64) (gd : BitVec 5) (ga : BitVec 5) (stop : Bool) (s : State) : Out :=
  runInstr (.prim l gd ga stop) s

/-- PRIM_CHOL (R327): Cholesky factorisation primitive. -/
def execPrimChol (l : Fin 64) (bad : Bool) (s : State) : Out :=
  run true (fun s => primDone s l.val 0x01 bad) s

/-- PRIM_LDLT (R327): LDLᵀ factorisation primitive. -/
def execPrimLdlt (l : Fin 64) (bad : Bool) (s : State) : Out :=
  run true (fun s => primDone s l.val 0x02 bad) s

/-- PRIM_BTRI (R327): Block-tridiagonal LDLᵀ primitive. -/
def execPrimBtri (l : Fin 64) (bad : Bool) (s : State) : Out :=
  run true (fun s => primDone s l.val 0x03 bad) s

/-- PRIM_TRSV (R326): Triangular solve primitive. -/
def execPrimTrsv (l : Fin 64) (bad : Bool) (s : State) : Out :=
  run true (fun s => primDone s l.val 0x04 bad) s

/-- PRIM_BTSOL (R326): Solve with a BTRI factor. -/
def execPrimBtsol (l : Fin 64) (bad : Bool) (s : State) : Out :=
  run true (fun s => primDone s l.val 0x05 bad) s

/-- PRIM_SCHUR (R326): Schur update primitive. -/
def execPrimSchur (l : Fin 64) (bad : Bool) (s : State) : Out :=
  run true (fun s => primDone s l.val 0x06 bad) s

/-- PRIM_GEMM (R326): Matrix multiply primitive. -/
def execPrimGemm (l : Fin 64) (bad : Bool) (s : State) : Out :=
  run true (fun s => primDone s l.val 0x07 bad) s

/-- PRIM_AXPBY (R326): Scaled vector update primitive. -/
def execPrimAxpby (l : Fin 64) (bad : Bool) (s : State) : Out :=
  run true (fun s => primDone s l.val 0x08 bad) s

/-- PRIM_ELEM (R326): Elementwise operation primitive selected by SUB. -/
def execPrimElem (l : Fin 64) (bad : Bool) (s : State) : Out :=
  run true (fun s => primDone s l.val 0x09 bad) s

/-- PRIM_DOT (R326): Fused dot-product chain primitive. -/
def execPrimDot (l : Fin 64) (bad : Bool) (s : State) : Out :=
  run true (fun s => primDone s l.val 0x0A bad) s

/-- PRIM_NRMI (R326): Infinity-norm primitive. -/
def execPrimNrmi (l : Fin 64) (bad : Bool) (s : State) : Out :=
  run true (fun s => primDone s l.val 0x0B bad) s

/-- PRIM_RATIO (R326): Step-ratio primitive. -/
def execPrimRatio (l : Fin 64) (bad : Bool) (s : State) : Out :=
  run true (fun s => primDone s l.val 0x0C bad) s

/-- KEEP (R321): Offers an iterate block for retention if its merit beats KMERIT. -/
def execKeep (l : Fin 64) (ga : BitVec 5) (stop : Bool) (s : State) : Out :=
  runInstr (.keep l ga stop) s

/-- SDONE (R323): Ends the problem with a code and returns a block or the kept iterate. -/
def execSdone (l : Fin 64) (ga : BitVec 5) (gb : BitVec 5) (stop : Bool) (s : State) : Out :=
  runInstr (.sdone l ga gb stop) s

/-- SOLVER_DEADLINE (R324): The problem's deadline is reached and the problem is preempted with code DEADLINE.
-/
def execSolverDeadline (l : Fin 64) (s : State) : Out :=
  run true (fun s => solverDeadline s l.val) s

/-- SOLVER_BUDGET_REACHED (R324): CLAUSES reaches CBUDGET and the problem is preempted with BYCOUNT. -/
def execSolverBudgetReached (l : Fin 64) (s : State) : Out :=
  run true (fun s => solverBudget s l.val) s

/-- SOLVER_LANE_ENABLE (R488): SLV_LANE_CTL.EN written 1 enables a lane or gang. -/
def execSolverLaneEnable (src : BitVec 16) (l : Fin 64) (s : State) : Out :=
  run true (fun s => enWrite s src .SLV_LANE_CTL l.val) s

/-- SOLVER_LANE_DRAIN (R330): EN cleared: queued problems cancelled, the running one cancelled at its next keep.
-/
def execSolverLaneDrain (src : BitVec 16) (l : Fin 64) (s : State) : Out :=
  run true (fun s => drainWrite s src .SLV_LANE_CTL l.val) s

/-- SOLVER_LANE_ABORT (R330): ABORT ends running and queued problems ABORTED. -/
def execSolverLaneAbort (src : BitVec 16) (l : Fin 64) (s : State) : Out :=
  run true (fun s => abortWrite s src .SLV_LANE_CTL l.val) s

/-- SOLVER_DRAIN_TIMEOUT (R330): 100 µs after DRAINING began the running problem ends CANCELLED. -/
def execSolverDrainTimeout (l : Fin 64) (s : State) : Out :=
  run true (fun s => laneDrainTimeout s l.val) s

end Sys2Proof.Machine
end

