-- ==== Sys2Proof/Machine/TimeArms.lean ====
section
/-! DEFINITION. The commands of the Timebase and Ethernet: one meaning for each, over the shared operations. -/

namespace Sys2Proof.Machine

/-- TB_INC_WRITE (R351): A write of TB_INC sets the increment or is ignored and refused. -/
def execTbIncWrite (src : BitVec 16) (v : Word) (s : State) : Out :=
  run true (fun s => regCommand s src .TB_INC 0 v) s

/-- TB_ADJUST (R350): TB_ADJ.GO requests a signed adjustment of the Timebase. -/
def execTbAdjust (src : BitVec 16) (v : Word) (s : State) : Out :=
  run true (fun s => regCommand s src .TB_ADJ 0 (v ||| bit64 63)) s

/-- TB_LOAD (R351): TB_LOADSEC.GO requests a load of the Timebase. -/
def execTbLoad (src : BitVec 16) (v : Word) (s : State) : Out :=
  run true (fun s => regCommand s src .TB_LOADSEC 0 (v ||| bit64 63)) s

/-- TB_STEP (R352): At the tick of effect pending loads and adjustments are applied and TB-STEP appended. -/
def execTbStep (s : State) : Out :=
  run true (fun s => tbStep s) s

/-- TB_NOW_READ (R355): Reading TB_NOW0 returns NS and the compact stamp and latches SEC for the reader. -/
def execTbNowRead (src : BitVec 16) (s : State) : Out :=
  run true (fun s => readCommand (readCommand s src .TB_NOW0 0) src .TB_NOW1 0) s

/-- ETH_FRAME_RECEIVE (R359): A received frame is filtered, classified to a servo slot or queue and its
descriptor written. -/
def execEthFrameReceive (p : Fin 4) (f : EthFrame) (ago : Nat) (s : State) : Out :=
  run true (fun s => ethReceive s p.val f ago) s

/-- ETH_TXQ_POST (R363): Writing a transmit queue TAIL posts frames. -/
def execEthTxqPost (src : BitVec 16) (p : Fin 4) (q : Fin 4) (v : Word) (s : State) : Out :=
  run true (fun s => regCommand s src .ETH_TXQ1 (4 * p.val + q.val) v) s

/-- ETH_LAUNCH_TIME_REACHED (R362): A pending launch time is reached and its frame becomes ready. -/
def execEthLaunchTimeReached (p : Fin 4) (t : EthTxSrc) (s : State) : Out :=
  run true (fun s => ethDue s p.val t) s

/-- ETH_FRAME_TRANSMIT (R362): The port starts the highest-priority ready frame. -/
def execEthFrameTransmit (p : Fin 4) (s : State) : Out :=
  run true (fun s => ethStart s p.val) s

/-- ETH_TX_COMPLETE (R363): A frame ends; CODE and stamp are written and a timestamp queue entry added. -/
def execEthTxComplete (p : Fin 4) (s : State) : Out :=
  run true (fun s => ethDone s p.val) s

/-- ETH_TXTS_POP (R365): Reading ETH_TXTS returns and removes the oldest transmit timestamp. -/
def execEthTxtsPop (src : BitVec 16) (p : Fin 4) (s : State) : Out :=
  run true (fun s => readCommand s src .ETH_TXTS p.val) s

/-- ETH_LINK_DOWN (R367): The link goes down and ETH-LINK-DOWN is appended. -/
def execEthLinkDown (p : Fin 4) (s : State) : Out :=
  run true (fun s => linkDown s p.val) s

/-- ETH_LINK_UP (R367): The link comes up and ETH-LINK-UP is appended. -/
def execEthLinkUp (p : Fin 4) (polrev : Bool) (s : State) : Out :=
  run true (fun s => linkUp s p.val polrev) s

/-- ETH_ENABLE (R488): ETH_CTL.EN written 1 enables the port. -/
def execEthEnable (src : BitVec 16) (p : Fin 4) (s : State) : Out :=
  run true (fun s => enWrite s src .ETH_CTL p.val) s

/-- ETH_DRAIN (R368): EN cleared: the frame on the wire completes and waiting frames end ABORTED. -/
def execEthDrain (src : BitVec 16) (p : Fin 4) (s : State) : Out :=
  run true (fun s => drainWrite s src .ETH_CTL p.val) s

/-- ETH_ABORT (R368): ABORT cuts the frame on the wire and aborts all queued frames. -/
def execEthAbort (src : BitVec 16) (p : Fin 4) (s : State) : Out :=
  run true (fun s => abortWrite s src .ETH_CTL p.val) s

end Sys2Proof.Machine
end

