-- ==== Sys2Proof/Machine/VectorArms.lean ====
section
/-! DEFINITION. The commands of V-class instructions: one meaning for each, over the shared operations. -/

namespace Sys2Proof.Machine

/-- VADD (R84): Vector elementwise add. -/
def execVadd (c : Core) (vd : BitVec 5) (va : BitVec 5) (vb : BitVec 5) (et : BitVec 5) (pg : BitVec 3)
    (bad : BitVec 64) (stop : Bool) (s : State) : Out :=
  runInstr (.vadd c vd va vb et pg bad stop) s

/-- VSUB (R111): Vector elementwise subtract. -/
def execVsub (c : Core) (vd : BitVec 5) (va : BitVec 5) (vb : BitVec 5) (et : BitVec 5) (pg : BitVec 3)
    (bad : BitVec 64) (stop : Bool) (s : State) : Out :=
  runInstr (.vsub c vd va vb et pg bad stop) s

/-- VMUL (R84): Vector elementwise multiply. -/
def execVmul (c : Core) (vd : BitVec 5) (va : BitVec 5) (vb : BitVec 5) (et : BitVec 5) (pg : BitVec 3)
    (bad : BitVec 64) (stop : Bool) (s : State) : Out :=
  runInstr (.vmul c vd va vb et pg bad stop) s

/-- VMIN (R84): Vector elementwise IEEE minimum. -/
def execVmin (c : Core) (vd : BitVec 5) (va : BitVec 5) (vb : BitVec 5) (et : BitVec 5) (pg : BitVec 3)
    (stop : Bool) (s : State) : Out :=
  runInstr (.vmin c vd va vb et pg stop) s

/-- VMAX (R84): Vector elementwise IEEE maximum. -/
def execVmax (c : Core) (vd : BitVec 5) (va : BitVec 5) (vb : BitVec 5) (et : BitVec 5) (pg : BitVec 3)
    (stop : Bool) (s : State) : Out :=
  runInstr (.vmax c vd va vb et pg stop) s

/-- VDIV (R133): FP32 vector divide on the engine's divide unit. -/
def execVdiv (c : Core) (vd : BitVec 5) (va : BitVec 5) (vb : BitVec 5) (et : BitVec 5) (pg : BitVec 3)
    (stop : Bool) (s : State) : Out :=
  runInstr (.vdiv c vd va vb et pg stop) s

/-- VSQRT (R133): FP32 vector square root on the engine's divide unit. -/
def execVsqrt (c : Core) (vd : BitVec 5) (va : BitVec 5) (et : BitVec 5) (pg : BitVec 3) (stop : Bool)
    (s : State) : Out :=
  runInstr (.vsqrt c vd va et pg stop) s

/-- VFMA_F32 (R84): FP32 vector fused multiply-add. -/
def execVfmaF32 (c : Core) (vd : BitVec 5) (va : BitVec 5) (vb : BitVec 5) (vc : BitVec 5) (pg : BitVec 3)
    (bad : BitVec 64) (stop : Bool) (s : State) : Out :=
  runInstr (.vfmaF32 c vd va vb vc pg bad stop) s

/-- VFMA_BF16 (R84): BF16 vector fused multiply-add. -/
def execVfmaBf16 (c : Core) (vd : BitVec 5) (va : BitVec 5) (vb : BitVec 5) (vc : BitVec 5) (pg : BitVec 3)
    (bad : BitVec 64) (stop : Bool) (s : State) : Out :=
  runInstr (.vfmaBf16 c vd va vb vc pg bad stop) s

/-- VFMA_F16 (R84): FP16 vector fused multiply-add. -/
def execVfmaF16 (c : Core) (vd : BitVec 5) (va : BitVec 5) (vb : BitVec 5) (vc : BitVec 5) (pg : BitVec 3)
    (bad : BitVec 64) (stop : Bool) (s : State) : Out :=
  runInstr (.vfmaF16 c vd va vb vc pg bad stop) s

/-- VFMA_F64 (R84): FP64 vector fused multiply-add. -/
def execVfmaF64 (c : Core) (vd : BitVec 5) (va : BitVec 5) (vb : BitVec 5) (vc : BitVec 5) (pg : BitVec 3)
    (bad : BitVec 64) (stop : Bool) (s : State) : Out :=
  runInstr (.vfmaF64 c vd va vb vc pg bad stop) s

/-- VAND (R84): Bitwise AND over all 512 bits, predicated per byte lane. -/
def execVand (c : Core) (vd : BitVec 5) (va : BitVec 5) (vb : BitVec 5) (pg : BitVec 3) (stop : Bool)
    (s : State) : Out :=
  runInstr (.vand c vd va vb pg stop) s

/-- VOR (R84): Bitwise OR over all 512 bits. -/
def execVor (c : Core) (vd : BitVec 5) (va : BitVec 5) (vb : BitVec 5) (pg : BitVec 3) (stop : Bool)
    (s : State) : Out :=
  runInstr (.vor c vd va vb pg stop) s

/-- VXOR (R84): Bitwise exclusive OR over all 512 bits. -/
def execVxor (c : Core) (vd : BitVec 5) (va : BitVec 5) (vb : BitVec 5) (pg : BitVec 3) (stop : Bool)
    (s : State) : Out :=
  runInstr (.vxor c vd va vb pg stop) s

/-- VCMP (R84): Vector compare that writes a predicate. -/
def execVcmp (c : Core) (pd : BitVec 3) (va : BitVec 5) (vb : BitVec 5) (cc : BitVec 3) (et : BitVec 5)
    (bad : BitVec 64) (stop : Bool) (s : State) : Out :=
  runInstr (.vcmp c pd va vb cc et bad stop) s

/-- POP_AND (R84): Predicate AND. -/
def execPopAnd (c : Core) (pd : BitVec 3) (pa : BitVec 3) (pb : BitVec 3) (stop : Bool) (s : State) : Out :=
  runInstr (.popAnd c pd pa pb stop) s

/-- POP_OR (R84): Predicate OR. -/
def execPopOr (c : Core) (pd : BitVec 3) (pa : BitVec 3) (pb : BitVec 3) (stop : Bool) (s : State) : Out :=
  runInstr (.popOr c pd pa pb stop) s

/-- POP_XOR (R84): Predicate exclusive OR. -/
def execPopXor (c : Core) (pd : BitVec 3) (pa : BitVec 3) (pb : BitVec 3) (stop : Bool) (s : State) : Out :=
  runInstr (.popXor c pd pa pb stop) s

/-- POP_ANDN (R84): Predicate pa AND NOT pb. -/
def execPopAndn (c : Core) (pd : BitVec 3) (pa : BitVec 3) (pb : BitVec 3) (stop : Bool) (s : State) : Out :=
  runInstr (.popAndn c pd pa pb stop) s

/-- POP_NOT (R84): Predicate NOT pa. -/
def execPopNot (c : Core) (pd : BitVec 3) (pa : BitVec 3) (stop : Bool) (s : State) : Out :=
  runInstr (.popNot c pd pa stop) s

/-- VLD (R85): Loads 64 bytes into a vector register. -/
def execVld (c : Core) (vd : BitVec 5) (ga : BitVec 5) (pg : BitVec 3) (off : BitVec 10) (stop : Bool)
    (s : State) : Out :=
  runInstr (.vld c vd ga pg off stop) s

/-- VST (R85): Stores the enabled byte lanes of a vector register. -/
def execVst (c : Core) (vs : BitVec 5) (ga : BitVec 5) (pg : BitVec 3) (off : BitVec 10) (stop : Bool)
    (s : State) : Out :=
  runInstr (.vst c vs ga pg off stop) s

/-- VBCAST (R84): Broadcasts a scalar into every element. -/
def execVbcast (c : Core) (vd : BitVec 5) (ga : BitVec 5) (et : BitVec 5) (stop : Bool) (s : State) : Out :=
  runInstr (.vbcast c vd ga et stop) s

/-- VGET (R84): Extracts one element into a scalar register. -/
def execVget (c : Core) (gd : BitVec 5) (va : BitVec 5) (gi : BitVec 5) (et : BitVec 5) (stop : Bool)
    (s : State) : Out :=
  runInstr (.vget c gd va gi et stop) s

/-- VCVT (R85): Converts vector elements between types. -/
def execVcvt (c : Core) (vd : BitVec 5) (va : BitVec 5) (dst : BitVec 5) (src : BitVec 5) (stop : Bool)
    (s : State) : Out :=
  runInstr (.vcvt c vd va dst src stop) s

/-- PMOV_TO_PREDICATE (R84): Copies a scalar register into a predicate. -/
def execPmovTo (c : Core) (pd : BitVec 3) (ga : BitVec 5) (stop : Bool) (s : State) : Out :=
  runInstr (.pmovTo c pd ga stop) s

/-- PMOV_FROM_PREDICATE (R84): Copies a predicate into a scalar register. -/
def execPmovFrom (c : Core) (gd : BitVec 5) (pa : BitVec 3) (stop : Bool) (s : State) : Out :=
  runInstr (.pmovFrom c gd pa stop) s

end Sys2Proof.Machine
end

