-- ==== Sys2Proof/Machine/VerbArms.lean ====
section
/-! DEFINITION. The commands of M-class instructions and the completion of verbs: one meaning for each, over the shared operations. -/

namespace Sys2Proof.Machine

/-- MMA (R90): Matrix multiply-accumulate verb into an accumulator. -/
def execMma (c : Core) (gt : BitVec 5) (acc : BitVec 3) (na : BitVec 6) (nb : BitVec 6) (stop : Bool)
    (s : State) : Out :=
  runInstr (.mma c gt acc na nb stop) s

/-- MMA_SET (R90): Matrix multiply verb that overwrites the accumulator. -/
def execMmaSet (c : Core) (gt : BitVec 5) (acc : BitVec 3) (na : BitVec 6) (nb : BitVec 6) (stop : Bool)
    (s : State) : Out :=
  runInstr (.mmaSet c gt acc na nb stop) s

/-- MMA_COMPLETE (R91): Completion of an MMA: results stand and its token reports completion. -/
def execMmaComplete (e : Fin 256) (slot : Fin 8) (bad : Bool) (s : State) : Out :=
  run true (fun s => completeVerb s e.val slot.val isMma usesMatrix bad) s

/-- CONV (R258): Dense convolution verb that overwrites the output map. -/
def execConv (c : Core) (gt : BitVec 5) (nd : BitVec 6) (na : BitVec 6) (nb : BitVec 6) (stop : Bool)
    (s : State) : Out :=
  runInstr (.conv c gt nd na nb stop) s

/-- CONV_ACCUMULATE (R258): Dense convolution verb that accumulates into the output map. -/
def execConvAccumulate (c : Core) (gt : BitVec 5) (nd : BitVec 6) (na : BitVec 6) (nb : BitVec 6) (stop : Bool)
    (s : State) : Out :=
  runInstr (.convAccumulate c gt nd na nb stop) s

/-- CONV_COMPLETE (R260): Completion of a conv verb. -/
def execConvComplete (e : Fin 256) (slot : Fin 8) (bad : Bool) (s : State) : Out :=
  run true (fun s => completeVerb s e.val slot.val isConv usesMatrix bad) s

/-- DWCONV (R262): Depthwise or grouped convolution verb that overwrites the output. -/
def execDwconv (c : Core) (gt : BitVec 5) (nd : BitVec 6) (na : BitVec 6) (nb : BitVec 6) (stop : Bool)
    (s : State) : Out :=
  runInstr (.dwconv c gt nd na nb stop) s

/-- DWCONV_ACCUMULATE (R262): Depthwise or grouped convolution verb that accumulates into the output. -/
def execDwconvAccumulate (c : Core) (gt : BitVec 5) (nd : BitVec 6) (na : BitVec 6) (nb : BitVec 6)
    (stop : Bool) (s : State) : Out :=
  runInstr (.dwconvAccumulate c gt nd na nb stop) s

/-- DWCONV_COMPLETE (R263): Completion of a dwconv verb. -/
def execDwconvComplete (e : Fin 256) (slot : Fin 8) (bad : Bool) (s : State) : Out :=
  run true (fun s => completeVerb s e.val slot.val isDwconv usesMatrix bad) s

/-- ATTN (R238): Forward attention verb over paged keys and values, with optional appends. -/
def execAttn (c : Core) (gt : BitVec 5) (nd : BitVec 6) (na : BitVec 6) (nb : BitVec 6) (stop : Bool)
    (s : State) : Out :=
  runInstr (.attn c gt nd na nb stop) s

/-- ATTN_RECOMPUTE (R249): Attention verb that recomputes probabilities from row statistics. -/
def execAttnRecompute (c : Core) (gt : BitVec 5) (nd : BitVec 6) (na : BitVec 6) (nb : BitVec 6) (stop : Bool)
    (s : State) : Out :=
  runInstr (.attnRecompute c gt nd na nb stop) s

/-- ATTN_COMPLETE (R247): Completion of an attn verb once all its sequences have completed or ended. -/
def execAttnComplete (e : Fin 256) (slot : Fin 8) (bad : Bool) (s : State) : Out :=
  run true (fun s => attnComplete s e.val slot.val bad) s

/-- SMAX (R253): Softmax verb that computes and writes row statistics. -/
def execSmax (c : Core) (gt : BitVec 5) (nd : BitVec 6) (na : BitVec 6) (nb : BitVec 6) (stop : Bool)
    (s : State) : Out :=
  runInstr (.smax c gt nd na nb stop) s

/-- SMAX_FROM_STATS (R253): Softmax verb that reads M and LSE from the statistics noun. -/
def execSmaxFromStats (c : Core) (gt : BitVec 5) (nd : BitVec 6) (na : BitVec 6) (nb : BitVec 6) (stop : Bool)
    (s : State) : Out :=
  runInstr (.smaxFromStats c gt nd na nb stop) s

/-- SMAX_COMPLETE (R253): Completion of a smax verb. -/
def execSmaxComplete (e : Fin 256) (slot : Fin 8) (s : State) : Out :=
  run true (fun s => completeVerb s e.val slot.val isSmax anyOrder false) s

/-- NORM_LAYER (R93): Layer-norm verb. -/
def execNormLayer (c : Core) (gt : BitVec 5) (nd : BitVec 6) (na : BitVec 6) (nb : BitVec 6) (stop : Bool)
    (s : State) : Out :=
  runInstr (.normLayer c gt nd na nb stop) s

/-- NORM_RMS (R93): RMS-norm verb. -/
def execNormRms (c : Core) (gt : BitVec 5) (nd : BitVec 6) (na : BitVec 6) (nb : BitVec 6) (stop : Bool)
    (s : State) : Out :=
  runInstr (.normRms c gt nd na nb stop) s

/-- NORM_COMPLETE (R93): Completion of a norm verb. -/
def execNormComplete (e : Fin 256) (slot : Fin 8) (s : State) : Out :=
  run true (fun s => completeVerb s e.val slot.val isNorm anyOrder false) s

/-- CVT (R146): Conversion verb from a source noun into nd's format and scales. -/
def execCvt (c : Core) (gt : BitVec 5) (nd : BitVec 6) (na : BitVec 6) (stop : Bool) (s : State) : Out :=
  runInstr (.cvt c gt nd na stop) s

/-- CVT_FROM_ACCUMULATOR (R143): Conversion verb whose source is an accumulator. -/
def execCvtFromAccumulator (c : Core) (gt : BitVec 5) (nd : BitVec 6) (acc : BitVec 3) (stop : Bool)
    (s : State) : Out :=
  runInstr (.cvtFromAccumulator c gt nd acc stop) s

/-- CVT_COMPLETE (R153): Completion of a cvt verb, including its statistics record. -/
def execCvtComplete (e : Fin 256) (slot : Fin 8) (s : State) : Out :=
  run true (fun s => completeVerb s e.val slot.val isCvt isCvt false) s

/-- CROP (R269): Crop-and-resize verb queued to the cluster sampler. -/
def execCrop (c : Core) (gt : BitVec 5) (nd : BitVec 6) (na : BitVec 6) (nb : BitVec 6) (stop : Bool)
    (s : State) : Out :=
  runInstr (.crop c gt nd na nb stop) s

/-- CROP_COMPLETE (R271): Completion of a crop verb by the sampler. -/
def execCropComplete (e : Fin 256) (slot : Fin 8) (s : State) : Out :=
  run true (fun s => cropComplete s e.val slot.val) s

/-- GATH (R94): Gather verb that copies indexed slices. -/
def execGath (c : Core) (gt : BitVec 5) (nd : BitVec 6) (na : BitVec 6) (nb : BitVec 6) (stop : Bool)
    (s : State) : Out :=
  runInstr (.gath c gt nd na nb stop) s

/-- SCAT_STORE (R94): Scatter verb that stores slices at indices. -/
def execScatStore (c : Core) (gt : BitVec 5) (nd : BitVec 6) (na : BitVec 6) (nb : BitVec 6) (stop : Bool)
    (s : State) : Out :=
  runInstr (.scatStore c gt nd na nb stop) s

/-- SCAT_ADD (R94): Scatter verb that adds slices in index order. -/
def execScatAdd (c : Core) (gt : BitVec 5) (nd : BitVec 6) (na : BitVec 6) (nb : BitVec 6) (stop : Bool)
    (s : State) : Out :=
  runInstr (.scatAdd c gt nd na nb stop) s

/-- SCAT_ATOMIC_ADD (R94): Scatter verb with atomic element additions. -/
def execScatAtomicAdd (c : Core) (gt : BitVec 5) (nd : BitVec 6) (na : BitVec 6) (nb : BitVec 6) (stop : Bool)
    (s : State) : Out :=
  runInstr (.scatAtomicAdd c gt nd na nb stop) s

/-- GATH_SCAT_COMPLETE (R94): Completion of a gath or scat verb. -/
def execGathScatComplete (e : Fin 256) (slot : Fin 8) (s : State) : Out :=
  run true (fun s => completeVerb s e.val slot.val isSlice anyOrder false) s

/-- ARV (R95): Reads half an accumulator row into a vector register. -/
def execArv (c : Core) (vd : BitVec 5) (acc : BitVec 3) (gr : BitVec 5) (stop : Bool) (s : State) : Out :=
  runInstr (.arv c vd acc gr stop) s

/-- AWV (R95): Writes half an accumulator row from a vector register. -/
def execAwv (c : Core) (acc : BitVec 3) (vs : BitVec 5) (gr : BitVec 5) (stop : Bool) (s : State) : Out :=
  runInstr (.awv c acc vs gr stop) s

/-- AZRO (R95): Zeroes an accumulator and sets its type tag. -/
def execAzro (c : Core) (acc : BitVec 3) (t : Bool) (stop : Bool) (s : State) : Out :=
  runInstr (.azro c acc t stop) s

/-- WAITV (R96): Waits for a verb, returns its status word, ORs its flags and frees the slot. -/
def execWaitv (c : Core) (gd : BitVec 5) (gk : BitVec 5) (stop : Bool) (s : State) : Out :=
  runInstr (.waitv c gd gk stop) s

end Sys2Proof.Machine
end

