-- ==== Sys2Proof/Machine/XArms.lean ====
section
/-! DEFINITION. The commands of X-class instructions and what releases their gates, checks and posts: one meaning for each, over the shared operations. -/

namespace Sys2Proof.Machine

/-- MOVE (R98): Copies a noun to a noun through an engine mover or a quadrant mover handoff and signals a gate.
-/
def execMove (c : Core) (nd : BitVec 6) (na : BitVec 6) (gr : BitVec 5) (stop : Bool) (s : State) : Out :=
  runInstr (.move c nd na gr stop) s

/-- PREF (R99): Advisory read-ahead of a noun's HBM footprint. -/
def execPref (c : Core) (na : BitVec 6) (stop : Bool) (s : State) : Out :=
  runInstr (.pref c na stop) s

/-- NLD (R97): Loads a 64-byte noun-table entry from memory. -/
def execNld (c : Core) (nd : BitVec 6) (gr : BitVec 5) (stop : Bool) (s : State) : Out :=
  runInstr (.nld c nd gr stop) s

/-- NST (R97): Stores a noun-table entry to memory. -/
def execNst (c : Core) (na : BitVec 6) (gr : BitVec 5) (stop : Bool) (s : State) : Out :=
  runInstr (.nst c na gr stop) s

/-- NRD (R97): Reads one word of a noun-table entry. -/
def execNrd (c : Core) (gr : BitVec 5) (na : BitVec 6) (w : BitVec 3) (stop : Bool) (s : State) : Out :=
  runInstr (.nrd c gr na w stop) s

/-- NWR (R97): Writes one word of a noun-table entry. -/
def execNwr (c : Core) (nd : BitVec 6) (w : BitVec 3) (gr : BitVec 5) (stop : Bool) (s : State) : Out :=
  runInstr (.nwr c nd w gr stop) s

/-- NADD (R97): Copies a noun entry with its BASE advanced. -/
def execNadd (c : Core) (nd : BitVec 6) (na : BitVec 6) (gr : BitVec 5) (stop : Bool) (s : State) : Out :=
  runInstr (.nadd c nd na gr stop) s

/-- GSIG (R101): Adds a signed amount to a gate after earlier stores and verbs complete. -/
def execGsig (c : Core) (ga : BitVec 5) (gb : BitVec 5) (stop : Bool) (s : State) : Out :=
  runInstr (.gsig c ga gb stop) s

/-- GWAIT (R102): Waits on a gate until its value suffices, then takes the amount. -/
def execGwait (c : Core) (ga : BitVec 5) (gb : BitVec 5) (stop : Bool) (s : State) : Out :=
  runInstr (.gwait c ga gb stop) s

/-- CHKA (R196): Arrives at a check, counted in a round or held. -/
def execChka (c : Core) (ga : BitVec 5) (stop : Bool) (s : State) : Out :=
  runInstr (.chka c ga stop) s

/-- CHECK_DEPARTURE_RELEASE (R196): A completed round releases one arrival per gate clock and ends its
departure. -/
def execCheckDepartureRelease (k : CheckId) (s : State) : Out :=
  run true (fun s => departCheck s (checkKey k)) s

/-- POST (R104): Sends a remote signal carrying the engine's data-fence counts. -/
def execPost (c : Core) (ga : BitVec 5) (gb : BitVec 5) (stop : Bool) (s : State) : Out :=
  runInstr (.post c ga gb stop) s

/-- SLUICE_RELEASE (R199): The sluice releases a held post once its counted writes have landed and applies its
amount. -/
def execSluiceRelease (n : Nat) (s : State) : Out :=
  run true (fun s => releasePost s n) s

/-- FENCE_REL (R105): Release fence: retires once earlier writes are accepted or performed. -/
def execFenceRel (c : Core) (stop : Bool) (s : State) : Out :=
  runInstr (.fenceRel c stop) s

/-- FENCE_ACQ (R105): Acquire fence: retires once writes accepted before the last gwait or chka are performed.
-/
def execFenceAcq (c : Core) (stop : Bool) (s : State) : Out :=
  runInstr (.fenceAcq c stop) s

/-- ENGINE_CLOCK_GATE (R205): A gwait or chka that has waited THRESH has the engine's clock gated and its
allowance lent. -/
def execEngineClockGate (e : Fin 256) (s : State) : Out :=
  run true (fun s => engineGated s e.val) s

end Sys2Proof.Machine
end

