-- ==== Sys2Proof/Machine/Dispatch.lean ====
section
/-! DEFINITION. The meaning of every command: one arm for each constructor of Instr. -/

namespace Sys2Proof.Machine

def exec (i : Instr) (s : State) : Host.Outcome State Fault Refusal :=
  match i with
  | .add c rd ra rb stop => Sys2Proof.Machine.execAdd c rd ra rb stop s
  | .sub c rd ra rb stop => Sys2Proof.Machine.execSub c rd ra rb stop s
  | .and c rd ra rb stop => Sys2Proof.Machine.execAnd c rd ra rb stop s
  | .or c rd ra rb stop => Sys2Proof.Machine.execOr c rd ra rb stop s
  | .xor c rd ra rb stop => Sys2Proof.Machine.execXor c rd ra rb stop s
  | .shl c rd ra rb stop => Sys2Proof.Machine.execShl c rd ra rb stop s
  | .shr c rd ra rb stop => Sys2Proof.Machine.execShr c rd ra rb stop s
  | .sra c rd ra rb stop => Sys2Proof.Machine.execSra c rd ra rb stop s
  | .mul c rd ra rb stop => Sys2Proof.Machine.execMul c rd ra rb stop s
  | .mulh c rd ra rb stop => Sys2Proof.Machine.execMulh c rd ra rb stop s
  | .slt c rd ra rb stop => Sys2Proof.Machine.execSlt c rd ra rb stop s
  | .sltu c rd ra rb stop => Sys2Proof.Machine.execSltu c rd ra rb stop s
  | .seq c rd ra rb stop => Sys2Proof.Machine.execSeq c rd ra rb stop s
  | .addi c rd ra imm stop => Sys2Proof.Machine.execAddi c rd ra imm stop s
  | .subi c rd ra imm stop => Sys2Proof.Machine.execSubi c rd ra imm stop s
  | .andi c rd ra imm stop => Sys2Proof.Machine.execAndi c rd ra imm stop s
  | .ori c rd ra imm stop => Sys2Proof.Machine.execOri c rd ra imm stop s
  | .xori c rd ra imm stop => Sys2Proof.Machine.execXori c rd ra imm stop s
  | .shli c rd ra imm stop => Sys2Proof.Machine.execShli c rd ra imm stop s
  | .shri c rd ra imm stop => Sys2Proof.Machine.execShri c rd ra imm stop s
  | .srai c rd ra imm stop => Sys2Proof.Machine.execSrai c rd ra imm stop s
  | .slti c rd ra imm stop => Sys2Proof.Machine.execSlti c rd ra imm stop s
  | .ld c rd ra imm stop => Sys2Proof.Machine.execLd c rd ra imm stop s
  | .lw c rd ra imm stop => Sys2Proof.Machine.execLw c rd ra imm stop s
  | .st c rs ra imm stop => Sys2Proof.Machine.execSt c rs ra imm stop s
  | .sw c rs ra imm stop => Sys2Proof.Machine.execSw c rs ra imm stop s
  | .li c rd imm stop => Sys2Proof.Machine.execLi c rd imm stop s
  | .lsh c rd imm stop => Sys2Proof.Machine.execLsh c rd imm stop s
  | .beqz c ra off stop => Sys2Proof.Machine.execBeqz c ra off stop s
  | .bnez c ra off stop => Sys2Proof.Machine.execBnez c ra off stop s
  | .bltz c ra off stop => Sys2Proof.Machine.execBltz c ra off stop s
  | .bgez c ra off stop => Sys2Proof.Machine.execBgez c ra off stop s
  | .jal c rd off stop => Sys2Proof.Machine.execJal c rd off stop s
  | .jr c ra stop => Sys2Proof.Machine.execJr c ra stop s
  | .srd c rd num stop => Sys2Proof.Machine.execSrd c rd num stop s
  | .swr c num ra stop => Sys2Proof.Machine.execSwr c num ra stop s
  | .vctlAbort c ra stop => Sys2Proof.Machine.execVctlAbort c ra stop s
  | .disp c ra stop => Sys2Proof.Machine.execDisp c ra stop s
  | .tend c ra stop => Sys2Proof.Machine.execTend c ra stop s
  | .yield c stop => Sys2Proof.Machine.execYield c stop s
  | .stage c ra stop => Sys2Proof.Machine.execStage c ra stop s
  | .vadd c vd va vb et pg bad stop => Sys2Proof.Machine.execVadd c vd va vb et pg bad stop s
  | .vsub c vd va vb et pg bad stop => Sys2Proof.Machine.execVsub c vd va vb et pg bad stop s
  | .vmul c vd va vb et pg bad stop => Sys2Proof.Machine.execVmul c vd va vb et pg bad stop s
  | .vmin c vd va vb et pg stop => Sys2Proof.Machine.execVmin c vd va vb et pg stop s
  | .vmax c vd va vb et pg stop => Sys2Proof.Machine.execVmax c vd va vb et pg stop s
  | .vdiv c vd va vb et pg stop => Sys2Proof.Machine.execVdiv c vd va vb et pg stop s
  | .vsqrt c vd va et pg stop => Sys2Proof.Machine.execVsqrt c vd va et pg stop s
  | .vfmaF32 c vd va vb vc pg bad stop => Sys2Proof.Machine.execVfmaF32 c vd va vb vc pg bad stop s
  | .vfmaBf16 c vd va vb vc pg bad stop => Sys2Proof.Machine.execVfmaBf16 c vd va vb vc pg bad stop s
  | .vfmaF16 c vd va vb vc pg bad stop => Sys2Proof.Machine.execVfmaF16 c vd va vb vc pg bad stop s
  | .vfmaF64 c vd va vb vc pg bad stop => Sys2Proof.Machine.execVfmaF64 c vd va vb vc pg bad stop s
  | .vand c vd va vb pg stop => Sys2Proof.Machine.execVand c vd va vb pg stop s
  | .vor c vd va vb pg stop => Sys2Proof.Machine.execVor c vd va vb pg stop s
  | .vxor c vd va vb pg stop => Sys2Proof.Machine.execVxor c vd va vb pg stop s
  | .vcmp c pd va vb cc et bad stop => Sys2Proof.Machine.execVcmp c pd va vb cc et bad stop s
  | .popAnd c pd pa pb stop => Sys2Proof.Machine.execPopAnd c pd pa pb stop s
  | .popOr c pd pa pb stop => Sys2Proof.Machine.execPopOr c pd pa pb stop s
  | .popXor c pd pa pb stop => Sys2Proof.Machine.execPopXor c pd pa pb stop s
  | .popAndn c pd pa pb stop => Sys2Proof.Machine.execPopAndn c pd pa pb stop s
  | .popNot c pd pa stop => Sys2Proof.Machine.execPopNot c pd pa stop s
  | .vld c vd ga pg off stop => Sys2Proof.Machine.execVld c vd ga pg off stop s
  | .vst c vs ga pg off stop => Sys2Proof.Machine.execVst c vs ga pg off stop s
  | .vbcast c vd ga et stop => Sys2Proof.Machine.execVbcast c vd ga et stop s
  | .vget c gd va gi et stop => Sys2Proof.Machine.execVget c gd va gi et stop s
  | .vcvt c vd va dst src stop => Sys2Proof.Machine.execVcvt c vd va dst src stop s
  | .pmovTo c pd ga stop => Sys2Proof.Machine.execPmovTo c pd ga stop s
  | .pmovFrom c gd pa stop => Sys2Proof.Machine.execPmovFrom c gd pa stop s
  | .mma c gt acc na nb stop => Sys2Proof.Machine.execMma c gt acc na nb stop s
  | .mmaSet c gt acc na nb stop => Sys2Proof.Machine.execMmaSet c gt acc na nb stop s
  | .mmaComplete e slot bad => Sys2Proof.Machine.execMmaComplete e slot bad s
  | .conv c gt nd na nb stop => Sys2Proof.Machine.execConv c gt nd na nb stop s
  | .convAccumulate c gt nd na nb stop => Sys2Proof.Machine.execConvAccumulate c gt nd na nb stop s
  | .convComplete e slot bad => Sys2Proof.Machine.execConvComplete e slot bad s
  | .dwconv c gt nd na nb stop => Sys2Proof.Machine.execDwconv c gt nd na nb stop s
  | .dwconvAccumulate c gt nd na nb stop => Sys2Proof.Machine.execDwconvAccumulate c gt nd na nb stop s
  | .dwconvComplete e slot bad => Sys2Proof.Machine.execDwconvComplete e slot bad s
  | .attn c gt nd na nb stop => Sys2Proof.Machine.execAttn c gt nd na nb stop s
  | .attnRecompute c gt nd na nb stop => Sys2Proof.Machine.execAttnRecompute c gt nd na nb stop s
  | .attnComplete e slot bad => Sys2Proof.Machine.execAttnComplete e slot bad s
  | .smax c gt nd na nb stop => Sys2Proof.Machine.execSmax c gt nd na nb stop s
  | .smaxFromStats c gt nd na nb stop => Sys2Proof.Machine.execSmaxFromStats c gt nd na nb stop s
  | .smaxComplete e slot => Sys2Proof.Machine.execSmaxComplete e slot s
  | .normLayer c gt nd na nb stop => Sys2Proof.Machine.execNormLayer c gt nd na nb stop s
  | .normRms c gt nd na nb stop => Sys2Proof.Machine.execNormRms c gt nd na nb stop s
  | .normComplete e slot => Sys2Proof.Machine.execNormComplete e slot s
  | .cvt c gt nd na stop => Sys2Proof.Machine.execCvt c gt nd na stop s
  | .cvtFromAccumulator c gt nd acc stop => Sys2Proof.Machine.execCvtFromAccumulator c gt nd acc stop s
  | .cvtComplete e slot => Sys2Proof.Machine.execCvtComplete e slot s
  | .crop c gt nd na nb stop => Sys2Proof.Machine.execCrop c gt nd na nb stop s
  | .cropComplete e slot => Sys2Proof.Machine.execCropComplete e slot s
  | .gath c gt nd na nb stop => Sys2Proof.Machine.execGath c gt nd na nb stop s
  | .scatStore c gt nd na nb stop => Sys2Proof.Machine.execScatStore c gt nd na nb stop s
  | .scatAdd c gt nd na nb stop => Sys2Proof.Machine.execScatAdd c gt nd na nb stop s
  | .scatAtomicAdd c gt nd na nb stop => Sys2Proof.Machine.execScatAtomicAdd c gt nd na nb stop s
  | .gathScatComplete e slot => Sys2Proof.Machine.execGathScatComplete e slot s
  | .arv c vd acc gr stop => Sys2Proof.Machine.execArv c vd acc gr stop s
  | .awv c acc vs gr stop => Sys2Proof.Machine.execAwv c acc vs gr stop s
  | .azro c acc t stop => Sys2Proof.Machine.execAzro c acc t stop s
  | .waitv c gd gk stop => Sys2Proof.Machine.execWaitv c gd gk stop s
  | .move c nd na gr stop => Sys2Proof.Machine.execMove c nd na gr stop s
  | .pref c na stop => Sys2Proof.Machine.execPref c na stop s
  | .nld c nd gr stop => Sys2Proof.Machine.execNld c nd gr stop s
  | .nst c na gr stop => Sys2Proof.Machine.execNst c na gr stop s
  | .nrd c gr na w stop => Sys2Proof.Machine.execNrd c gr na w stop s
  | .nwr c nd w gr stop => Sys2Proof.Machine.execNwr c nd w gr stop s
  | .nadd c nd na gr stop => Sys2Proof.Machine.execNadd c nd na gr stop s
  | .gsig c ga gb stop => Sys2Proof.Machine.execGsig c ga gb stop s
  | .gwait c ga gb stop => Sys2Proof.Machine.execGwait c ga gb stop s
  | .chka c ga stop => Sys2Proof.Machine.execChka c ga stop s
  | .checkDepartureRelease k => Sys2Proof.Machine.execCheckDepartureRelease k s
  | .post c ga gb stop => Sys2Proof.Machine.execPost c ga gb stop s
  | .sluiceRelease n => Sys2Proof.Machine.execSluiceRelease n s
  | .fenceRel c stop => Sys2Proof.Machine.execFenceRel c stop s
  | .fenceAcq c stop => Sys2Proof.Machine.execFenceAcq c stop s
  | .engineClockGate e => Sys2Proof.Machine.execEngineClockGate e s
  | .feEnable src e => Sys2Proof.Machine.execFeEnable src e s
  | .feDrain src e => Sys2Proof.Machine.execFeDrain src e s
  | .feAbort src e => Sys2Proof.Machine.execFeAbort src e s
  | .taskPush src e v => Sys2Proof.Machine.execTaskPush src e v s
  | .taskTake src e => Sys2Proof.Machine.execTaskTake src e s
  | .gateWrite src g v => Sys2Proof.Machine.execGateWrite src g v s
  | .checkWrite src k w v => Sys2Proof.Machine.execCheckWrite src k w v s
  | .gateDebugSelect src v => Sys2Proof.Machine.execGateDebugSelect src v s
  | .gateDebugCapture src => Sys2Proof.Machine.execGateDebugCapture src s
  | .moverRingPost src m v => Sys2Proof.Machine.execMoverRingPost src m v s
  | .moverTakeDescriptor mv => Sys2Proof.Machine.execMoverTakeDescriptor mv s
  | .moverDescriptorComplete mv obFail data => Sys2Proof.Machine.execMoverDescriptorComplete mv obFail data s
  | .moverEnable src m => Sys2Proof.Machine.execMoverEnable src m s
  | .moverDrain src m => Sys2Proof.Machine.execMoverDrain src m s
  | .moverAbort src m => Sys2Proof.Machine.execMoverAbort src m s
  | .drainComplete u => Sys2Proof.Machine.execDrainComplete u s
  | .drainTimeout u => Sys2Proof.Machine.execDrainTimeout u s
  | .cisternBankGrant b => Sys2Proof.Machine.execCisternBankGrant b s
  | .dvorilLinkEnable src p => Sys2Proof.Machine.execDvorilLinkEnable src p s
  | .dvorilLinkUp p partner => Sys2Proof.Machine.execDvorilLinkUp p partner s
  | .dvorilTrainingTimeout p => Sys2Proof.Machine.execDvorilTrainingTimeout p s
  | .dvorilLockLoss p => Sys2Proof.Machine.execDvorilLockLoss p s
  | .dvorilAbort src p => Sys2Proof.Machine.execDvorilAbort src p s
  | .dvorilDrain src p => Sys2Proof.Machine.execDvorilDrain src p s
  | .dvorilFrameSend p => Sys2Proof.Machine.execDvorilFrameSend p s
  | .dvorilFrameReceive p f => Sys2Proof.Machine.execDvorilFrameReceive p f s
  | .dvorilFrameLanded p => Sys2Proof.Machine.execDvorilFrameLanded p s
  | .dvorilResend p => Sys2Proof.Machine.execDvorilResend p s
  | .dvorilSendComplete p => Sys2Proof.Machine.execDvorilSendComplete p s
  | .dvorilTimeExchange p t1 t2 t3 t4 => Sys2Proof.Machine.execDvorilTimeExchange p t1 t2 t3 t4 s
  | .pageWalkerResume src c => Sys2Proof.Machine.execPageWalkerResume src c s
  | .pageWalkerCancel src c => Sys2Proof.Machine.execPageWalkerCancel src c s
  | .pageWalkerFlush src c => Sys2Proof.Machine.execPageWalkerFlush src c s
  | .edgeRingPost src x v => Sys2Proof.Machine.execEdgeRingPost src x v s
  | .edgeJobTake x => Sys2Proof.Machine.execEdgeJobTake x s
  | .edgeJobComplete x => Sys2Proof.Machine.execEdgeJobComplete x s
  | .edgeEnable src x => Sys2Proof.Machine.execEdgeEnable src x s
  | .edgeDrain src x => Sys2Proof.Machine.execEdgeDrain src x s
  | .edgeAbort src x => Sys2Proof.Machine.execEdgeAbort src x s
  | .diverseJobGo src => Sys2Proof.Machine.execDiverseJobGo src s
  | .csi2FrameStart c vc fnum ecc => Sys2Proof.Machine.execCsi2FrameStart c vc fnum ecc s
  | .csi2RowReceive c pkt => Sys2Proof.Machine.execCsi2RowReceive c pkt s
  | .csi2FrameEnd c vc ecc => Sys2Proof.Machine.execCsi2FrameEnd c vc ecc s
  | .frameTimeout c => Sys2Proof.Machine.execFrameTimeout c s
  | .aphyLockLoss c => Sys2Proof.Machine.execAphyLockLoss c s
  | .pipeStripeDone p => Sys2Proof.Machine.execPipeStripeDone p s
  | .frameDeliver c => Sys2Proof.Machine.execFrameDeliver c s
  | .pocShort c => Sys2Proof.Machine.execPocShort c s
  | .pocOpen c => Sys2Proof.Machine.execPocOpen c s
  | .intakeChannelEnable src c => Sys2Proof.Machine.execIntakeChannelEnable src c s
  | .intakeChannelDrain src c => Sys2Proof.Machine.execIntakeChannelDrain src c s
  | .intakeChannelAbort src c => Sys2Proof.Machine.execIntakeChannelAbort src c s
  | .steerGo src c v => Sys2Proof.Machine.execSteerGo src c v s
  | .steerCopyDone c => Sys2Proof.Machine.execSteerCopyDone c s
  | .forebayPush src v => Sys2Proof.Machine.execForebayPush src v s
  | .forebayRelease src v => Sys2Proof.Machine.execForebayRelease src v s
  | .forebayTake src => Sys2Proof.Machine.execForebayTake src s
  | .forebaySampleDone slot sample ns => Sys2Proof.Machine.execForebaySampleDone slot sample ns s
  | .forebaySampleLate slot sample ns => Sys2Proof.Machine.execForebaySampleLate slot sample ns s
  | .forebayDeadline slot => Sys2Proof.Machine.execForebayDeadline slot s
  | .forebayEnable src => Sys2Proof.Machine.execForebayEnable src s
  | .forebayDrain src => Sys2Proof.Machine.execForebayDrain src s
  | .forebayAbort src => Sys2Proof.Machine.execForebayAbort src s
  | .solverDoorbell src l v => Sys2Proof.Machine.execSolverDoorbell src l v s
  | .snext l gd stop => Sys2Proof.Machine.execSnext l gd stop s
  | .prim l gd ga stop => Sys2Proof.Machine.execPrim l gd ga stop s
  | .primChol l bad => Sys2Proof.Machine.execPrimChol l bad s
  | .primLdlt l bad => Sys2Proof.Machine.execPrimLdlt l bad s
  | .primBtri l bad => Sys2Proof.Machine.execPrimBtri l bad s
  | .primTrsv l bad => Sys2Proof.Machine.execPrimTrsv l bad s
  | .primBtsol l bad => Sys2Proof.Machine.execPrimBtsol l bad s
  | .primSchur l bad => Sys2Proof.Machine.execPrimSchur l bad s
  | .primGemm l bad => Sys2Proof.Machine.execPrimGemm l bad s
  | .primAxpby l bad => Sys2Proof.Machine.execPrimAxpby l bad s
  | .primElem l bad => Sys2Proof.Machine.execPrimElem l bad s
  | .primDot l bad => Sys2Proof.Machine.execPrimDot l bad s
  | .primNrmi l bad => Sys2Proof.Machine.execPrimNrmi l bad s
  | .primRatio l bad => Sys2Proof.Machine.execPrimRatio l bad s
  | .keep l ga stop => Sys2Proof.Machine.execKeep l ga stop s
  | .sdone l ga gb stop => Sys2Proof.Machine.execSdone l ga gb stop s
  | .solverDeadline l => Sys2Proof.Machine.execSolverDeadline l s
  | .solverBudgetReached l => Sys2Proof.Machine.execSolverBudgetReached l s
  | .solverLaneEnable src l => Sys2Proof.Machine.execSolverLaneEnable src l s
  | .solverLaneDrain src l => Sys2Proof.Machine.execSolverLaneDrain src l s
  | .solverLaneAbort src l => Sys2Proof.Machine.execSolverLaneAbort src l s
  | .solverDrainTimeout l => Sys2Proof.Machine.execSolverDrainTimeout l s
  | .servoInstantRelease n => Sys2Proof.Machine.execServoInstantRelease n s
  | .servoInputSelect n => Sys2Proof.Machine.execServoInputSelect n s
  | .servoEvaluate n bad => Sys2Proof.Machine.execServoEvaluate n bad s
  | .servoStrictInputFresh n => Sys2Proof.Machine.execServoStrictInputFresh n s
  | .servoLoopEnable src n => Sys2Proof.Machine.execServoLoopEnable src n s
  | .servoLoopDrain src n => Sys2Proof.Machine.execServoLoopDrain src n s
  | .servoLoopAbort src n => Sys2Proof.Machine.execServoLoopAbort src n s
  | .servoCoefCommit src n st v => Sys2Proof.Machine.execServoCoefCommit src n st v s
  | .spiTransaction p data => Sys2Proof.Machine.execSpiTransaction p data s
  | .injectGo src v => Sys2Proof.Machine.execInjectGo src v s
  | .injectStop src => Sys2Proof.Machine.execInjectStop src s
  | .captureGo src v => Sys2Proof.Machine.execCaptureGo src v s
  | .captureStop src => Sys2Proof.Machine.execCaptureStop src s
  | .captureDone => Sys2Proof.Machine.execCaptureDone s
  | .tbIncWrite src v => Sys2Proof.Machine.execTbIncWrite src v s
  | .tbAdjust src v => Sys2Proof.Machine.execTbAdjust src v s
  | .tbLoad src v => Sys2Proof.Machine.execTbLoad src v s
  | .tbStep => Sys2Proof.Machine.execTbStep s
  | .tbNowRead src => Sys2Proof.Machine.execTbNowRead src s
  | .ethFrameReceive p f ago => Sys2Proof.Machine.execEthFrameReceive p f ago s
  | .ethTxqPost src p q v => Sys2Proof.Machine.execEthTxqPost src p q v s
  | .ethLaunchTimeReached p t => Sys2Proof.Machine.execEthLaunchTimeReached p t s
  | .ethFrameTransmit p => Sys2Proof.Machine.execEthFrameTransmit p s
  | .ethTxComplete p => Sys2Proof.Machine.execEthTxComplete p s
  | .ethTxtsPop src p => Sys2Proof.Machine.execEthTxtsPop src p s
  | .ethLinkDown p => Sys2Proof.Machine.execEthLinkDown p s
  | .ethLinkUp p polrev => Sys2Proof.Machine.execEthLinkUp p polrev s
  | .ethEnable src p => Sys2Proof.Machine.execEthEnable src p s
  | .ethDrain src p => Sys2Proof.Machine.execEthDrain src p s
  | .ethAbort src p => Sys2Proof.Machine.execEthAbort src p s
  | .canFrameReceive c f ago => Sys2Proof.Machine.execCanFrameReceive c f ago s
  | .canMbxQueue src c n => Sys2Proof.Machine.execCanMbxQueue src c n s
  | .canMbxCancel src c n => Sys2Proof.Machine.execCanMbxCancel src c n s
  | .canMbxUnlock src c n => Sys2Proof.Machine.execCanMbxUnlock src c n s
  | .canLaunchTimeReached c n => Sys2Proof.Machine.execCanLaunchTimeReached c n s
  | .canFrameStart c => Sys2Proof.Machine.execCanFrameStart c s
  | .canFrameEnd c => Sys2Proof.Machine.execCanFrameEnd c s
  | .canFrameError c why => Sys2Proof.Machine.execCanFrameError c why s
  | .canFrameExpire c n => Sys2Proof.Machine.execCanFrameExpire c n s
  | .canRecover src c => Sys2Proof.Machine.execCanRecover src c s
  | .canBusOn c => Sys2Proof.Machine.execCanBusOn c s
  | .canBusFault c fault => Sys2Proof.Machine.execCanBusFault c fault s
  | .canDominantTimeout c => Sys2Proof.Machine.execCanDominantTimeout c s
  | .canPhyClr src c gone => Sys2Proof.Machine.execCanPhyClr src c gone s
  | .canTermMeasure src c => Sys2Proof.Machine.execCanTermMeasure src c s
  | .canTermMeasurePeriodic c => Sys2Proof.Machine.execCanTermMeasurePeriodic c s
  | .canTermMeasureDone c ohms => Sys2Proof.Machine.execCanTermMeasureDone c ohms s
  | .canPolarityCheck c swapped => Sys2Proof.Machine.execCanPolarityCheck c swapped s
  | .canTxtsPop src c => Sys2Proof.Machine.execCanTxtsPop src c s
  | .canEnable src c => Sys2Proof.Machine.execCanEnable src c s
  | .canDrain src c => Sys2Proof.Machine.execCanDrain src c s
  | .canAbort src c => Sys2Proof.Machine.execCanAbort src c s
  | .journalRecordWrite => Sys2Proof.Machine.execJournalRecordWrite s
  | .journalRecordLanded => Sys2Proof.Machine.execJournalRecordLanded s
  | .journalLostRecord => Sys2Proof.Machine.execJournalLostRecord s
  | .journalMark src v => Sys2Proof.Machine.execJournalMark src v s
  | .journalEnable src v => Sys2Proof.Machine.execJournalEnable src v s
  | .journalDrain src => Sys2Proof.Machine.execJournalDrain src s
  | .journalAbort src => Sys2Proof.Machine.execJournalAbort src s
  | .journalFeed src v => Sys2Proof.Machine.execJournalFeed src v s
  | .journalFeedDone => Sys2Proof.Machine.execJournalFeedDone s
  | .replayPresentRecord rows => Sys2Proof.Machine.execReplayPresentRecord rows s
  | .strictWrite src v => Sys2Proof.Machine.execStrictWrite src v s
  | .strictnowApplied => Sys2Proof.Machine.execStrictnowApplied s
  | .detKeyRecompute => Sys2Proof.Machine.execDetKeyRecompute s
  | .lockstepDigestSend => Sys2Proof.Machine.execLockstepDigestSend s
  | .lockstepDigestReceive k digest => Sys2Proof.Machine.execLockstepDigestReceive k digest s
  | .lockstepDigestMissing k => Sys2Proof.Machine.execLockstepDigestMissing k s
  | .dnext gd stop => Sys2Proof.Machine.execDnext gd stop s
  | .dverd ga gb stop => Sys2Proof.Machine.execDverd ga gb stop s
  | .dflag ga gb stop => Sys2Proof.Machine.execDflag ga gb stop s
  | .dpet stop => Sys2Proof.Machine.execDpet stop s
  | .fwWatchdogExpire => Sys2Proof.Machine.execFwWatchdogExpire s
  | .drdLockstepMismatch => Sys2Proof.Machine.execDrdLockstepMismatch s
  | .detection k sid => Sys2Proof.Machine.execDetection k sid s
  | .drdIsoWrite src v => Sys2Proof.Machine.execDrdIsoWrite src v s
  | .detectionLeak k => Sys2Proof.Machine.execDetectionLeak k s
  | .watchdogCheckin w sid => Sys2Proof.Machine.execWatchdogCheckin w sid s
  | .watchdogMiss w => Sys2Proof.Machine.execWatchdogMiss w s
  | .safeForce src => Sys2Proof.Machine.execSafeForce src s
  | .drdArm src => Sys2Proof.Machine.execDrdArm src s
  | .safeHeartbeat => Sys2Proof.Machine.execSafeHeartbeat s
  | .safeLineReadbackFault line => Sys2Proof.Machine.execSafeLineReadbackFault line s
  | .startupInjection rows => Sys2Proof.Machine.execStartupInjection rows s
  | .selftestIdleDeclare src v => Sys2Proof.Machine.execSelftestIdleDeclare src v s
  | .selftestSliceStart sid => Sys2Proof.Machine.execSelftestSliceStart sid s
  | .selftestSliceDone sid ok => Sys2Proof.Machine.execSelftestSliceDone sid ok s
  | .selftestSliceAbort sid => Sys2Proof.Machine.execSelftestSliceAbort sid s
  | .selftestStarved sid => Sys2Proof.Machine.execSelftestStarved sid s
  | .goldenUrgent => Sys2Proof.Machine.execGoldenUrgent s
  | .goldenWindowEnd => Sys2Proof.Machine.execGoldenWindowEnd s
  | .bankFallbackCopyDone => Sys2Proof.Machine.execBankFallbackCopyDone s
  | .eccBucketLeak b => Sys2Proof.Machine.execEccBucketLeak b s
  | .scrubGo src h => Sys2Proof.Machine.execScrubGo src h s
  | .scrubResume src h => Sys2Proof.Machine.execScrubResume src h s
  | .scrubAbort src h => Sys2Proof.Machine.execScrubAbort src h s
  | .scrubCodeWord h => Sys2Proof.Machine.execScrubCodeWord h s
  | .hostWindowBWrite f off data ep => Sys2Proof.Machine.execHostWindowBWrite f off data ep s
  | .hostWindowBRead f off len => Sys2Proof.Machine.execHostWindowBRead f off len s
  | .hostWindowAAccess f off size wr => Sys2Proof.Machine.execHostWindowAAccess f off size wr s
  | .hostDoorbell f r v => Sys2Proof.Machine.execHostDoorbell f r v s
  | .hostIrq src v => Sys2Proof.Machine.execHostIrq src v s
  | .hostFlr f => Sys2Proof.Machine.execHostFlr f s
  | .pcieConventionalReset k => Sys2Proof.Machine.execPcieConventionalReset k s
  | .powerGood b => Sys2Proof.Machine.execPowerGood b s
  | .tcpRecheck tcp b => Sys2Proof.Machine.execTcpRecheck tcp b s
  | .attestGo src v => Sys2Proof.Machine.execAttestGo src v s
  | .attestDone => Sys2Proof.Machine.execAttestDone s
  | .measurementExtend src v => Sys2Proof.Machine.execMeasurementExtend src v s
  | .svnLock src => Sys2Proof.Machine.execSvnLock src s
  | .aesRingPost src v => Sys2Proof.Machine.execAesRingPost src v s
  | .aesJobComplete idx ok => Sys2Proof.Machine.execAesJobComplete idx ok s
  | .aesAbort src => Sys2Proof.Machine.execAesAbort src s
  | .aesKeyWrite src k w v => Sys2Proof.Machine.execAesKeyWrite src k w v s
  | .fwCommitGo src => Sys2Proof.Machine.execFwCommitGo src s
  | .fwCommitDone verified readback => Sys2Proof.Machine.execFwCommitDone verified readback s
  | .fwCommitAbort src => Sys2Proof.Machine.execFwCommitAbort src s
  | .changeLogLinePerformed => Sys2Proof.Machine.execChangeLogLinePerformed s
  | .warmReset src => Sys2Proof.Machine.execWarmReset src s
  | .coldReset src => Sys2Proof.Machine.execColdReset src s
  | .islandReset src isl => Sys2Proof.Machine.execIslandReset src isl s
  | .islandResetExit isl => Sys2Proof.Machine.execIslandResetExit isl s
  | .engineReset src e => Sys2Proof.Machine.execEngineReset src e s
  | .resetPin => Sys2Proof.Machine.execResetPin s
  | .powerLoss => Sys2Proof.Machine.execPowerLoss s
  | .vinReversed on => Sys2Proof.Machine.execVinReversed on s
  | .islandClockRestore isl => Sys2Proof.Machine.execIslandClockRestore isl s
  | .wtmReevaluate isl mw mwUp => Sys2Proof.Machine.execWtmReevaluate isl mw mwUp s
  | .islandClockStep isl up => Sys2Proof.Machine.execIslandClockStep isl up s
  | .powerRecallComplete isl => Sys2Proof.Machine.execPowerRecallComplete isl s
  | .powerCapExcursion mw isls => Sys2Proof.Machine.execPowerCapExcursion mw isls s
  | .inputPowerExcursion mw isls => Sys2Proof.Machine.execInputPowerExcursion mw isls s
  | .thermalThrottle die tj => Sys2Proof.Machine.execThermalThrottle die tj s
  | .plateRangeExcursion tcp => Sys2Proof.Machine.execPlateRangeExcursion tcp s
  | .senseOpen => Sys2Proof.Machine.execSenseOpen s
  | .gpioEdge pin level => Sys2Proof.Machine.execGpioEdge pin level s
  | .debugMark src v => Sys2Proof.Machine.execDebugMark src v s
  | .registerWrite src addr size v => Sys2Proof.Machine.execRegisterWrite src addr size v s
  | .timebaseTick => Sys2Proof.Machine.execTimebaseTick s
  | .hbmPseudoChannelGrant st pc arr => Sys2Proof.Machine.execHbmPseudoChannelGrant st pc arr s
  | .basinSubbankGrant e o owner sibs => Sys2Proof.Machine.execBasinSubbankGrant e o owner sibs s
  | .laneClockGate l => Sys2Proof.Machine.execLaneClockGate l s
  | .aphyLock c gear => Sys2Proof.Machine.execAphyLock c gear s
  | .warmResetRelease pin b => Sys2Proof.Machine.execWarmResetRelease pin b s
  | .pcieConfigurationRequest f bme msixEn => Sys2Proof.Machine.execPcieConfigurationRequest f bme msixEn s
  | .msixTableWrite f vec masked addr data => Sys2Proof.Machine.execMsixTableWrite f vec masked addr data s
  | .registerReadClear src addr size => Sys2Proof.Machine.execRegisterReadClear src addr size s
  | .gpioFlt pin limit => Sys2Proof.Machine.execGpioFlt pin limit s

end Sys2Proof.Machine
end

