-- ==== Sys2Proof/Safety.lean ====
section
/-! DEFINITION. The terms that claims use: a machine in which nothing is under way of itself, a core that takes its
next clause, a register write that takes effect, what a command completes with. -/

namespace Sys2Proof.Machine

/-- SAFE_OK, OKNOW and SAFE_HB stand as their conditions say (R431). -/
def safeSettled (s : State) : Bool :=
  ! (mayLeaveSafe s && inSafe s) && (s.bit DRD_SAFE.OKNOW 0 == safeOk s) && (! s.drd.hb || safeOk s)

/-- Nothing happens of itself: no detection awaits its reaction, no core holds instructions, no received post waits for
the sluice, no unit has just been served by a gate, no access is held, no change-log line can leave, no island's
clock is gated or in reset, the safe lines stand, and the journal and the decryption unit have nothing to hand to a mover. -/
def quiet (s : State) : Bool :=
  s.raised.isEmpty && (busyCores s).isEmpty && (s.dv 0).posts.isEmpty && (s.dv 1).posts.isEmpty && s.served.isEmpty &&
  s.held.isEmpty && (decide (s.fld CLG_RING.BASE 0 = 0) || decide (s.clog.line ≠ 0)) &&
  ((upFrom 0 37).all fun i => ! islandStops s i) && safeSettled s && jnlRests s && aesRests s

/-- The HBM that serves a bank under fallback is memory reserved for it (R435). -/
def reserved (s : State) : Bool :=
  decide (s.fld CST_BANKFB.STATE 0 ≠ 2) || s.within .hbm (s.fld CST_BANKFB.BASE 0) (2 ^ 23)

/-- The module is powered and out of reset, nothing happens of itself, no stored code word is in error, and a bank under
fallback has its HBM. -/
def still (s : State) : Bool := alive s && s.wlog.isEmpty && s.latent.isEmpty && reserved s && quiet s

/-- A core takes its next clause at once: it takes instructions, holds and awaits none, and the word at its pc can be
fetched (R46, R51, R52); no primitive, copy, deadline or budget occupies a lane, which is no member of a gang
(R308, R322, R324, R326). -/
def ready (s : State) (c : Core) : Bool :=
  let k := s.core c
  takesInstr s c && k.stream.isEmpty && ! k.waiting && ! k.arrived && ! k.granted && ! k.gated && ! k.underWay &&
  (fetchTrap s (s.view (corePt c)) c k.pc).isNone &&
  match c with
  | .lane l => (s.lane l.val).run.isNone && (s.lane l.val).keep.isNone && ! isMember s l.val && (preempted s l.val).isNone
  | _ => true

/-- The core at its next clause: the pc moves past one word, and no gate is waited at (R51, R205). -/
def advanced (k : CoreSt) : CoreSt := { k with pc := (k.pc + 4) % 2 ^ 40, gateSince := none }

/-- What a clause of core c that leaves u counts: in a lane's problem in progress, one clause (R313, R324). -/
def counted (s : State) (c : Core) (u : State) : State :=
  match c with
  | .lane l => laneRetire u l.val (s.lane l.val).prob
  | _ => u

/-- The memory invariant: stored bytes and marks in canonical form, and no memory update left over between commands. -/
def inv (s : State) : Bool := s.wf && s.wlog.isEmpty

/-- A write of v to a register by a source takes effect: it is not held and no rule ignores it (R475, R513). -/
def taken (s : State) (src : BitVec 16) (r : RegName) (i : Nat) (v : Word) : Bool :=
  ! regWaits s src.toNat r i v && decide (verdictOf s src.toNat r i v = .take)

/-- The command runs and the state it leaves has the property. -/
def completes (c : Instr) (s : State) (p : State → Prop) : Prop := ∃ t, exec c s = .next t ∧ p t

end Sys2Proof.Machine
end

