-- ==== Sys2Proof/Certificates/Slice0/Obligations.lean ====
section
/-! DEFINITION. The statements about the machine, for the provers. A premise `still s` says that nothing is under way of
itself; `ready s c` that core c takes its next clause at once; `taken` that a register write is neither held nor ignored. -/

open Sys2Proof Sys2Proof.Machine

/-! ## Terms of the statements -/

/-- An event record has entered queue q, if it had room (R445). -/
def told (s t : State) (q : Nat) : Prop :=
  (s.fld CST_EVQ.WR q + 1) % 4096 ≠ s.fld CST_EVQ.RD q →
    t.fld CST_EVQ.WR q = (s.fld CST_EVQ.WR q + 1) % 4096

/-- A byte is not held where a byte of a range is; under fallback an HBM address holds bytes of the bank (R435). -/
def apart (s : State) (lo hi a : Nat) : Prop := ∀ r, lo ≤ r → r < hi → s.home r ≠ s.home a

/-- COUNT and TOTAL of a class have taken a detection, up to their largest value; more than one only where its reaction has
caused another (R413). -/
def counted1 (s t : State) (k : Nat) (alone : Bool) : Prop :=
  let a := min DRD_REACT.TOTAL.top (s.fld DRD_REACT.TOTAL k + 1)
  let b := min DRD_REACT.COUNT.top (s.fld DRD_REACT.COUNT k + 1)
  a ≤ t.fld DRD_REACT.TOTAL k ∧ b ≤ t.fld DRD_REACT.COUNT k ∧
    (alone = true → t.fld DRD_REACT.TOTAL k = a ∧ t.fld DRD_REACT.COUNT k = b)

/-- The reaction that a detection of class k takes: REACT once COUNT has come to THRESH, before that 1, or 0 where REACT is
0 (R413). -/
def reactionOf (s : State) (k : Nat) : Nat :=
  if s.fld DRD_REACT.REACT k = 0 then 0
  else if s.fld DRD_REACT.THRESH k ≤ min DRD_REACT.COUNT.top (s.fld DRD_REACT.COUNT k + 1) then s.fld DRD_REACT.REACT k
  else 1

/-- A detection has latched safe state; a first entry has left it with its cause and its stamp, SAFE_OK inactive and SAFE_HB
low (R414, R429). -/
def inSafeFor (s t : State) (k src : Nat) : Prop :=
  t.drd.latched = true ∧
    (s.drd.latched = false → inSafe t = true ∧ t.bit DRD_SAFE.OKNOW 0 = false ∧ t.drd.hb = false ∧ t.fld DRD_SAFE.CLASS 0 = k ∧
      t.fld DRD_SAFE.SRC 0 = src ∧ t.fld DRD_SAFE.STAMP 0 = s.stamp)

/-- An engine or a solver lane is isolated: FAILED, and named among the isolated units (R432). -/
def isolated (t : State) (src : Nat) : Prop :=
  t.drd.iso.contains src = true ∧
    (∀ e : Fin 256, src = e.val → (t.core (.eng e)).state = 3 ∧ (t.core (.eng e)).slots = []) ∧
    (∀ l : Fin 64, src = 0x5000 + l.val → t.fld SLV_LANE_STAT.STATE l.val = 3)

/-- A unit that can be isolated and is not a Cistern bank or a cluster. -/
def coreUnit (src : Nat) : Prop := src < 0x100 ∨ 0x5000 ≤ src ∧ src < 0x5040

/-- A unit that no row of R432 covers. -/
def uncovered (src : Nat) : Prop :=
  0x110 ≤ src ∧ ¬ (0x2200 ≤ src ∧ src < 0x2280) ∧ ¬ (0x5000 ≤ src ∧ src < 0x5040)

/-- The detection of class k for a unit, the only one, has been counted and its reaction taken (R413). -/
def reacted (s t : State) (k src : Nat) : Prop :=
  let r := reactionOf s k
  counted1 s t k (decide (r ≤ 1)) ∧
    (r = 0 → t.drd.iso = s.drd.iso ∧ t.drd.wr = s.drd.wr ∧ t.drd.latched = s.drd.latched) ∧
    (r = 1 → t.drd.iso = s.drd.iso ∧ t.drd.latched = s.drd.latched ∧
      (s.drd.wr < s.drd.rd + 256 → t.drd.wr = s.drd.wr + 1 ∧
        t.word (drdBase + 0x3F008 + 16 * (s.drd.wr % 256)) = w64 (k + src * 2 ^ 8))) ∧
    (r = 2 → coreUnit src → isolated t src) ∧ (r = 3 ∨ r = 2 ∧ uncovered src → inSafeFor s t k src)

/-! ## The machine -/

/-- Model's queue (assumption log 1): for every command c, queue r and state s with c at the front of its queue, the step
of s is exec of c on s with the queue's rest; with an empty queue the step changes nothing. -/
def Obligations.StepRunsFrontCommand : Prop :=
  (∀ (c : Instr) (r : List Instr) (s : State), s.pending = c :: r → step s = exec c { s with pending := r }) ∧
  ∀ s : State, s.pending = [] → step s = .next s

/-- The memory invariant holds after every step from every state that has it: byte addresses strictly rising with no
entry equal to what an unlisted address reads as, poison marks strictly rising (R28, R438), and no memory update left
over between commands. -/
def Obligations.StepKeepsMemoryForm : Prop := ∀ s t : State, inv s = true → step s = .next t → inv t = true

/-- After reset memory lists nothing, the memory invariant holds, no command waits and nothing is under way (R464, R484;
reset values that the spec does not give are assumption log 4's). -/
def Obligations.ResetMeetsInvariant : Prop :=
  inv State.reset = true ∧ State.reset.mem = [] ∧ State.reset.marks = [] ∧ State.reset.pending = [] ∧
    still State.reset = true

/-- The commands that reach a module without power, or held in reset: the power inputs and the reset pins (R501-R503). -/
def reachesDead : Instr → Bool
  | .pcieConventionalReset _ | .powerGood _ | .tcpRecheck _ _ | .resetPin | .powerLoss | .vinReversed _
  | .warmResetRelease _ _ => true
  | _ => false

/-- A command whose lists do not have the lengths its rule gives them faults as malformed; every other command, in every
state, answers a next state, with the waiting commands (the model's queue, assumption log 1) as they were. No command is
refused. While the module has no power, or RST_N or PERST_N holds it, no command but those of the power inputs and reset
pins changes anything (R501: no unit writes anything more): it answers the state as it was, with nothing on the wires. -/
def Obligations.MalformedAloneFaults : Prop :=
  ∀ (c : Instr) (s : State),
    (c.wellFormed = false → exec c s = .fault .malformedCommand) ∧
    (c.wellFormed = true → ∃ t, exec c s = .next t ∧ t.pending = s.pending) ∧
    (c.wellFormed = true → alive s = false → reachesDead c = false → exec c s = .next s.begin)

/-- REGISTER_WRITE by a source that the control-space writers' table does not admit for the register (R513) is discarded
and logged: it completes, every register but those of the change log and its event queue is as before, every core is as
before, the number of the last entry has advanced by one, and the newest staged entry has IGN 1. -/
def Obligations.RefusedWriterChangesNothing : Prop :=
  ∀ (s : State) (src : BitVec 16) (a : BitVec 40) (size : Nat) (v : Word) (r : RegName) (i : Nat), still s = true →
    isControlAddr a.toNat = true → ctlAligned a.toNat size = true → regAt (a.toNat / 8 * 8) = some (r, i) →
    mayWrite s src.toNat r = false → regWaits s src.toNat r i (mergeWrite s r i a.toNat size v) = false →
    completes (.registerWrite src a size v) s fun t =>
      (∀ q j, q ∉ [RegName.CLG_SEQ, .CLG_HEAD, .CLG_STAT, .CST_EVQ] → t.reg q j = s.reg q j) ∧
      t.cores = s.cores ∧ t.reg .CLG_SEQ 0 = w64 (s.fld CLG_SEQ.N 0 + 1) ∧
      ∃ x, t.clog.staged.getLast? = some x ∧ (x.words.headD 0).getLsbD 46 = true

/-- At reset the chain head is 32 zero bytes and CLG_SEQ is 0. A write of CST_CLEVQ that takes effect and changes it
appends entry n = CLG_SEQ + 1: the four words with offset, source, two bytes of the old head, the time, OLD and NEW; the
new head is SHA-256 of the old head followed by the entry's 32 bytes. -/
def Obligations.ChangeLogChainExtends : Prop :=
  (chainHead State.reset = List.replicate 32 0 ∧ State.reset.fld CLG_SEQ.N 0 = 0) ∧
  ∀ (s : State) (src : BitVec 16) (c : Fin 16) (v : Word), still s = true →
    taken s src .CST_CLEVQ c.val v = true → changes s .CST_CLEVQ c.val v = true →
    completes (.registerWrite src (BitVec.ofNat 40 (RegName.CST_CLEVQ.addr c.val)) 8 v) s fun t =>
      let h := chainHead s
      let e := [w64 (RegName.CST_CLEVQ.addr c.val - 0x6000000000 + src.toNat * 2 ^ 28 + leNat (h.take 2) * 2 ^ 48),
        w64 s.totalNs, s.reg .CST_CLEVQ c.val, (s.reg .CST_CLEVQ c.val &&& ~~~7) ||| (v &&& 7)]
      chainHead t = sha256 (h ++ e.flatMap fun w => leBytes 8 w.toNat) ∧
        t.reg .CLG_SEQ 0 = w64 (s.fld CLG_SEQ.N 0 + 1) ∧ t.fld CST_CLEVQ.EVQ c.val = v.toNat % 8

/-! ## The S class -/

/-- The register operations of R76. -/
def aluTable : List ((Core → BitVec 5 → BitVec 5 → BitVec 5 → Bool → Instr) × (Word → Word → Word)) :=
  [(.add, fun a b => a + b), (.sub, fun a b => a - b), (.and, fun a b => a &&& b), (.or, fun a b => a ||| b),
   (.xor, fun a b => a ^^^ b), (.shl, fun a b => a <<< (b.toNat % 64)), (.shr, fun a b => a >>> (b.toNat % 64)),
   (.sra, fun a b => a.sshiftRight (b.toNat % 64)), (.mul, fun a b => a * b),
   (.mulh, fun a b => (a.signExtend 128 * b.signExtend 128).extractLsb' 64 64),
   (.slt, fun a b => if a.toInt < b.toInt then 1 else 0), (.sltu, fun a b => if a.toNat < b.toNat then 1 else 0),
   (.seq, fun a b => if a = b then 1 else 0)]

/-- The immediate operations of R76. -/
def immTable : List ((Core → BitVec 5 → BitVec 5 → BitVec 13 → Bool → Instr) × (Word → Word → Word)) :=
  [(.addi, fun a b => a + b), (.subi, fun a b => a - b), (.andi, fun a b => a &&& b), (.ori, fun a b => a ||| b),
   (.xori, fun a b => a ^^^ b), (.slti, fun a b => if a.toInt < b.toInt then 1 else 0)]

/-- The immediate shifts of R76. -/
def shiftTable : List ((Core → BitVec 5 → BitVec 5 → BitVec 13 → Bool → Instr) × (Word → Nat → Word)) :=
  [(.shli, fun a n => a <<< n), (.shri, fun a n => a >>> n), (.srai, fun a n => a.sshiftRight n)]

/-- On any core that is ready: add, sub, and, or, xor, shl, shr, sra, mul, mulh, slt, sltu and seq write into rd their value
of R76 on the values ra and rb had at clause start, poisoned if either is (R74); addi, subi, andi, ori, xori and slti their
value of ra and the sign-extended 13-bit immediate; shli, shri and srai, whose immediate is below 64, the shift of ra by it;
li the sign-extended 18-bit constant; lsh rd shifted left by 18 with the constant in its low bits; poisoned as the source is.
A write of g0 is discarded (R34); the pc passes the word; on a lane the clause counts in its problem. Nothing else changes:
no other register, no special register, no memory. -/
def Obligations.ScalarArithmetic : Prop :=
  ∀ (s : State) (c : Core) (rd ra rb : BitVec 5), still s = true → ready s c = true →
    let done := fun (w : PWord) => Host.Outcome.next (φ := Fault) (ρ := Refusal)
      (counted s c (s.begin.setCore c ((advanced (s.core c)).writeG rd w)))
    let a := (s.core c).readG ra
    let b := (s.core c).readG rb
    (∀ p ∈ aluTable, exec (p.1 c rd ra rb true) s = done ⟨p.2 a.v b.v, a.p || b.p⟩) ∧
    (∀ imm, ∀ p ∈ immTable, exec (p.1 c rd ra imm true) s = done ⟨p.2 a.v (imm.signExtend 64), a.p⟩) ∧
    (∀ imm : BitVec 13, imm.toNat < 64 → ∀ p ∈ shiftTable, exec (p.1 c rd ra imm true) s =
      done ⟨p.2 a.v imm.toNat, a.p⟩) ∧
    (∀ imm : BitVec 18, exec (.li c rd imm true) s = done ⟨imm.signExtend 64, false⟩) ∧
    (∀ imm : BitVec 18, exec (.lsh c rd imm true) s =
      done ⟨((s.core c).readG rd).v <<< 18 ||| imm.setWidth 64, ((s.core c).readG rd).p⟩)

/-- On a ready engine in task mode, shli, shri and srai with an immediate whose bits [12:6] are not 0 raise ILLEGAL. The
fault is taken: EPC is the clause's address, ECAUSE 1, EDETAIL the instruction word at position 0, the engine is in
runtime mode at TRAPVEC[39:0]; no scalar, vector, predicate or noun register has changed; and event FE-FAULT
has been appended to the cluster's event queue if that is not full. -/
def Obligations.FaultEntry : Prop :=
  ∀ (s : State) (e : Fin 256) (rd ra : BitVec 5) (imm : BitVec 13), still s = true → ready s (.eng e) = true →
    64 ≤ imm.toNat → ∀ p ∈ shiftTable,
    (s.core (.eng e)).runtime = false →
      completes (p.1 (.eng e) rd ra imm true) s fun t =>
        let k := s.core (.eng e)
        let q := t.core (.eng e)
        q.special 0x020 = w64 k.pc ∧ q.special 0x021 = 1 ∧
        q.special 0x022 = w64 (wordOf (p.1 (.eng e) rd ra imm true)) ∧
        q.runtime = true ∧ q.pc = bitsOf (k.special 0x023) 39 0 ∧ q.state = k.state ∧
        q.g = k.g ∧ q.v = k.v ∧ q.p = k.p ∧ q.n = k.n ∧ q.a = k.a ∧ q.slots = k.slots ∧
        (∀ n, n ∉ [0x020, 0x021, 0x022] → q.special n = k.special n) ∧
        ((s.fld CST_EVQ.WR (engineQ s e.val) + 1) % 4096 ≠ s.fld CST_EVQ.RD (engineQ s e.val) →
          t.fld CST_EVQ.WR (engineQ s e.val) = (s.fld CST_EVQ.WR (engineQ s e.val) + 1) % 4096)

/-- On any ready core, on an engine with ra not poisoned: beqz, bnez, bltz and bgez complete and continue at the branch's
address plus off18 × 4 (an address of 40 bits) if ra is zero, not zero, negative, not negative, and else at the next word;
jr, of a multiple of 4, completes and continues at ra[39:0]. On any ready core jal completes: it writes the address of the
next clause into rd and continues at its target. Nothing else changes; on a lane the clause counts in its problem. -/
def Obligations.BranchesAndJumps : Prop :=
  ∀ (s : State) (c : Core) (rd ra : BitVec 5) (off : BitVec 18), still s = true → ready s c = true →
    let k := advanced (s.core c)
    let a := ((s.core c).readG ra).v
    let target := ((((s.core c).pc : Int) + off.toInt * 4) % 2 ^ 40).toNat
    ((isEng c = true → ((s.core c).readG ra).p = false) →
      exec (.beqz c ra off true) s =
        .next (counted s c (s.begin.setCore c { k with pc := if a = 0 then target else k.pc })) ∧
      exec (.bnez c ra off true) s =
        .next (counted s c (s.begin.setCore c { k with pc := if a ≠ 0 then target else k.pc })) ∧
      exec (.bltz c ra off true) s =
        .next (counted s c (s.begin.setCore c { k with pc := if a.toInt < 0 then target else k.pc })) ∧
      exec (.bgez c ra off true) s =
        .next (counted s c (s.begin.setCore c { k with pc := if 0 ≤ a.toInt then target else k.pc })) ∧
      (a.toNat % 4 = 0 → exec (.jr c ra true) s =
        .next (counted s c (s.begin.setCore c { k with pc := a.toNat % 2 ^ 40 })))) ∧
    exec (.jal c rd off true) s =
      .next (counted s c (s.begin.setCore c { k.writeG rd ⟨w64 k.pc, false⟩ with pc := target }))

/-- The address of a scalar access of n bytes (R76). -/
def scalarAddr (k : CoreSt) (ra : BitVec 5) (imm : BitVec 13) (n : Nat) : Nat :=
  effAddr (k.readG ra).v (imm.toInt * n)

/-- A scalar access passes its checks: no poisoned address on an engine, alignment, then reach and allotments (R46, R48,
R74). -/
def scalarPasses (s : State) (c : Core) (r : Right) (ra : BitVec 5) (a n : Nat) : Bool :=
  ! (isEng c && ((s.core c).readG ra).p) && decide (a % n = 0) && accessOk s c r a n

/-- On a ready core that is not draining, a load that passes its checks, outside the control space and clear of the
destinations of the verbs in flight, completes: rd receives the 8 bytes at the address, or the 4 bytes sign-extended, as
the core's ordering point observes them, with the word's poison mark (on the Ditch Rider, whose consumption of poison is
another statement's, the word is clean). Nothing else changes but the pc, which passes the word. -/
def Obligations.LoadsFromMemory : Prop :=
  ∀ (s : State) (c : Core) (rd ra : BitVec 5) (imm : BitVec 13), still s = true → ready s c = true →
    (s.core c).state ≠ 1 → ∀ n ∈ [4, 8],
    let k := s.core c
    let a := scalarAddr k ra imm n
    let m := coreAddr c a
    let v := s.view (corePt c)
    scalarPasses s c .rd ra a n = true → s.region a ≠ .control → loadWaits k (span a n) = false →
    (c = .drd → v.mark m = false) →
    exec ((if n = 8 then Instr.ld else Instr.lw) c rd ra imm true) s =
      .next (counted s c (s.begin.setCore c ((advanced k).writeG rd
        ⟨if n = 8 then w64 (v.load m 8) else (BitVec.ofNat 32 (v.load m 4)).signExtend 64, v.mark m⟩)))

/-- On a ready engine or Ditch Rider that is not draining, a load that passes its checks from a register whose read does
nothing but return its contents completes: rd receives the 8-byte register, or the addressed half sign-extended, clean,
write-only fields reading 0. Nothing else changes but the pc. -/
def Obligations.LoadsFromRegisters : Prop :=
  ∀ (s : State) (c : Core) (rd ra : BitVec 5) (imm : BitVec 13), still s = true → ready s c = true →
    (s.core c).state ≠ 1 → ∀ n ∈ [4, 8], ∀ r i,
    let k := s.core c
    let a := scalarAddr k ra imm n
    let fed := s.begin.setCore c (advanced k)
    scalarPasses s c .rd ra a n = true → s.region a = .control → isoRefuses s a = false →
    regAt (a / 8 * 8) = some (r, i) → readActs fed (coreSrc c) r i (decide (n = 8) || decide (a % 8 = 0)) = none →
    clearedMask r a n = 0 →
    exec ((if n = 8 then Instr.ld else Instr.lw) c rd ra imm true) s =
      .next (counted s c (s.begin.setCore c ((advanced k).writeG rd
        ⟨if n = 8 then regView fed r i
         else (BitVec.ofNat 32 (if a % 8 = 0 then (regView fed r i).toNat % 2 ^ 32
           else (regView fed r i).toNat / 2 ^ 32)).signExtend 64, false⟩)))

/-- On a ready core, a store that passes its checks to a Basin, a lane memory or the Ditch Rider's private memory, clear
of the footprints of verbs in flight, is performed at once: the n bytes at the address hold the low n bytes of rs,
little-endian; every other byte of memory reads as before; the core changes nothing but its pc; and a store of a whole
word sets the word's mark to the mark of rs, one of half a word leaves a mark that is set. -/
def Obligations.StoresToOwnMemory : Prop :=
  ∀ (s : State) (c : Core) (rs ra : BitVec 5) (imm : BitVec 13), still s = true → ready s c = true → ∀ n ∈ [4, 8],
    let k := s.core c
    let a := scalarAddr k ra imm n
    let m := coreAddr c a
    scalarPasses s c .wr ra a n = true →
    (isEng c = true → ∃ x, s.region a = .basin x) → (c = .drd → a < 0x40000) →
    storeWaits k (span a n) = false →
    completes ((if n = 8 then Instr.st else Instr.sw) c rs ra imm true) s fun t =>
      t.load m n = (k.readG rs).v.toNat % 2 ^ (8 * n) ∧ (∀ b, b < m ∨ m + n ≤ b → t.byte b = s.byte b) ∧
      t.core c = advanced k ∧ (∀ c', c' ≠ c → t.core c' = s.core c') ∧
      (∀ r i, t.reg r i = s.reg r i) ∧
      t.mark m = (if n = 8 then (k.readG rs).p else s.mark m || (k.readG rs).p)

/-- On a ready engine, a store that passes its checks to the Cistern, clear of the footprints of verbs in flight, enters
the pending line writes as the newest write of that engine, for the bank that the address hashes to and through the
engine's die; the engine's data-fence count of the bank's quadrant advances by one; no byte of memory has changed yet;
the engine changes nothing else but its pc. -/
def Obligations.StoresToTheCistern : Prop :=
  ∀ (s : State) (e : Fin 256) (rs ra : BitVec 5) (imm : BitVec 13), still s = true → ready s (.eng e) = true →
    ∀ n ∈ [4, 8],
    let k := s.core (.eng e)
    let a := scalarAddr k ra imm n
    scalarPasses s (.eng e) .wr ra a n = true → s.region a = .cistern → storeWaits k (span a n) = false →
    completes ((if n = 8 then Instr.st else Instr.sw) (.eng e) rs ra imm true) s fun t =>
      t.pend.length = s.pend.length + 1 ∧
      (∃ w, t.pend.getLast? = some w ∧ w.src = e.val ∧ w.bank = bankOf a ∧ w.pt = e.val / 128 ∧
        w.bytes = (upFrom a n).zip (leBytes n (k.readG rs).v.toNat)) ∧
      (∀ b, t.byte b = s.byte b) ∧
      t.core (.eng e) = { advanced k with
        fence := tput (fun _ => 0) k.fence (bankOf a / 32)
          ((tget (fun _ => 0) k.fence (bankOf a / 32) + 1) % 2 ^ 24) }

/-- On a ready engine, srd of a number that its mode may read completes with rd clean: ENGID, TOKENS, the compact stamp,
the seconds (TIMEN then holds the nanoseconds), or the register's contents; the time registers only if strict mode does
not bar them (R40). CYCLES, which no rule fixes, is a free value (assumption log 5). On a lane or the Ditch Rider, LANEID
and FFLAGS read as R312 says. Nothing else changes but the pc.
On a ready engine, swr of a clean register to a special register that its mode may write (VCTL apart), FMODE not with
a reserved rounding value, leaves that special register with the value, reserved bits 0; on a lane or the Ditch Rider swr
of FFLAGS likewise. A write of VCTL in runtime mode with bit 0 clear has no effect; with bit 0 set and no verb in flight,
through swr or its own command, it frees every token slot (R62), other registers of the core unchanged. -/
def Obligations.SpecialRegisters : Prop :=
  ∀ (s : State) (c : Core) (rd ra : BitVec 5) (n : BitVec 12), still s = true → ready s c = true →
    let k := s.core c
    let put := fun (q : CoreSt) (v : Word) => s.begin.setCore c (q.writeG rd ⟨v, false⟩)
    let g := k.readG ra
    let set := fun (m : Nat) (v : Word) =>
      Host.Outcome.next (φ := Fault) (ρ := Refusal) (counted s c (s.begin.setCore c ((advanced k).setSpecial m v)))
    (∀ e, c = .eng e → spReadable k.runtime n.toNat = true →
      (k.runtime = false → n.toNat ∈ [0x018, 0x019, 0x01A, 0x01B] → strictFor s c = false) →
      exec (.srd c rd n true) s = .next (match n.toNat with
        | 0x000 => put (advanced k) (w64 (e.val + e.val / 16 * 2 ^ 8 + e.val / 128 * 2 ^ 12))
        | 0x010 => put (advanced k) k.tokens
        | 0x018 => put (advanced k) (w64 (s.totalNs % 2 ^ 32))
        | 0x019 => put ((advanced k).setSpecial 0x01A (w64 s.tb.ns)) (w64 (s.tb.sec % 2 ^ 48))
        | 0x01B => (put (advanced k) s.free).useFree
        | 0x025 => put (advanced k) 0
        | m => put (advanced k) (k.special m))) ∧
    (∀ l, c = .lane l → n = 0x000 → exec (.srd c rd n true) s = .next (counted s c (put (advanced k)
      (w64 (l.val + l.val / 32 * 2 ^ 6 + (gangSize s l.val).log2 * 2 ^ 7))))) ∧
    ((∀ e, c ≠ .eng e) → n = 0x009 → exec (.srd c rd n true) s = .next (counted s c (put (advanced k) (k.special 9)))) ∧
    (∀ e, c = .eng e → g.p = false → spWritable k.runtime n.toNat = true → n.toNat ≠ 0x025 →
      (n.toNat = 0x008 → g.v.toNat % 8 < 5) →
      exec (.swr c n ra true) s = set n.toNat
        (if n.toNat = 0x008 ∨ n.toNat = 0x009 then g.v &&& 0x1F
         else if 0x030 ≤ n.toNat ∧ n.toNat ≤ 0x037 then g.v &&& maskBits 42 6
         else if 0x038 ≤ n.toNat ∧ n.toNat ≤ 0x03F then (g.v &&& maskBits 39 0) ||| 0x3F
         else g.v)) ∧
    ((∀ e, c ≠ .eng e) → n = 0x009 → exec (.swr c n ra true) s = set 0x009 (g.v &&& 0x1F)) ∧
    (∀ e, c = .eng e → g.p = false → k.runtime = true → k.inFlight = [] →
      ∀ i ∈ [Instr.vctlAbort (.eng e) ra true, .swr c 0x025 ra true],
        (g.v.getLsbD 0 = false → exec i s = .next (s.begin.setCore c (advanced k))) ∧
        (g.v.getLsbD 0 = true → completes i s fun t => t.core c = { advanced k with slots := [] }))

/-- On a ready engine in runtime mode that is not draining, disp of a clean, 128-byte-aligned descriptor address, with
every read in reach, no malformed field, no poisoned word but arguments, and no verb in flight, dispatches the task: the
engine is in task mode at ENTRY; g1 to g8 hold the arguments with their marks, g9 the descriptor's address, g10 to g31
zero; vectors, predicates and accumulators are zero, tagged FP32, no token slot is taken and the sequence number is 0; the noun table holds the NCOUNT entries and
then zeros; TDESC, NTP, DEADLINE, TFLAGS, FMODE, FFLAGS and SRSEED are as R67 says; the trap registers stand.
On a ready engine in task mode with no verb in flight, no move in progress and no unconsumed verb that read poison
through a noun with PSN 1, tend completes and yield completes: the engine is in runtime mode at TRAPVEC; EPC is the address
of the next clause, ECAUSE 0, EDETAIL 0 for tend and 1 for yield; EXIT holds XVAL (the low half of ra, 0 for yield), the
sticky flags with those of unconsumed verbs, and the number of unconsumed tokens; every slot is free. A yield of a task whose
descriptor lies in the Cistern has sent g1 to g8 into its argument words and the next clause's address into its entry:
the engine's die observes them there. -/
def Obligations.TaskEntryAndExit : Prop :=
  (∀ (s : State) (e : Fin 256) (ra : BitVec 5), still s = true → ready s (.eng e) = true →
      let k := s.core (.eng e)
      let a := (k.readG ra).v.toNat
      let v := s.view (dieOf e.val)
      let w := fun i => v.word (a + 8 * i)
      let ntp := bitsOf (w 1) 39 0
      let nc := bitsOf (w 0) 46 40
      let altp := bitsOf (w 10) 39 0
      let ac := bitsOf (w 10) 43 40
      k.runtime = true → k.state = 0 → k.inFlight = [] → (k.readG ra).p = false → a % 128 = 0 →
      dispReach s e a 128 = true → dispReach s e ntp (64 * nc) = true → dispReach s e altp (16 * ac) = true →
      taskBad (v.words a 16) = false → dispPoison v a ntp nc altp ac = none →
      completes (.disp (.eng e) ra true) s fun t =>
        let q := t.core (.eng e)
        q.runtime = false ∧ q.pc = bitsOf (w 0) 39 0 ∧ q.state = 0 ∧ q.stream = [] ∧
        (∀ i, i < 8 → q.readG (BitVec.ofNat 5 (i + 1)) = ⟨w (2 + i), v.mark (a + 16 + 8 * i)⟩) ∧
        q.readG 9 = ⟨w64 a, false⟩ ∧ (∀ x : BitVec 5, 10 ≤ x.toNat → q.readG x = {}) ∧
        q.v = [] ∧ q.p = [] ∧ q.a = [] ∧ q.aInt = [] ∧ q.slots = [] ∧ q.seq = 0 ∧
        (∀ i, i < nc → q.noun i = v.words (ntp + 64 * i) 8) ∧
        (∀ i, nc ≤ i → i < 64 → q.noun i = List.replicate 8 0) ∧
        q.special 0x001 = w64 a ∧ q.special 0x002 = w64 ntp ∧ q.special 0x003 = w64 (bitsOf (w 13) 31 0) ∧
        q.special 0x004 = w64 (bitsOf (w 11) 15 0) ∧ q.special 0x008 = w64 (bitsOf (w 11) 20 16) ∧
        q.special 0x009 = 0 ∧ q.special 0x00A = w 12 ∧
        (∀ n ∈ [0x020, 0x021, 0x022, 0x023, 0x024], q.special n = k.special n)) ∧
  ∀ (s : State) (e : Fin 256) (ra : BitVec 5), still s = true → ready s (.eng e) = true →
    let k := s.core (.eng e)
    let d := bitsOf (k.special 0x001) 39 0
    let flags := (k.verbs.foldl (fun q v => q.orFlags (statusFlags v.2.status)) k).special 0x009
    let ended := fun (t : State) (xval detail : Nat) =>
      let q := t.core (.eng e)
      q.runtime = true ∧ q.pc = bitsOf (k.special 0x023) 39 0 ∧ q.special 0x020 = w64 ((k.pc + 4) % 2 ^ 40) ∧
      q.special 0x021 = 0 ∧ q.special 0x022 = w64 detail ∧ bitsOf (q.special 0x024) 31 0 = xval ∧
      bitsOf (q.special 0x024) 36 32 = bitsOf flags 4 0 ∧ bitsOf (q.special 0x024) 43 40 = k.verbs.length ∧
      (∀ i, i < 8 → q.slot i = none) ∧ q.g = k.g
    k.runtime = false → k.inFlight = [] → engineMoves s e = [] → unreadPoison k = none →
      completes (.tend (.eng e) ra true) s (fun t => ended t ((k.readG ra).v.toNat % 2 ^ 32) 0) ∧
      completes (.yield (.eng e) true) s fun t => ended t 0 1 ∧
        (d % 128 = 0 → cisternBase ≤ d → d + 128 ≤ 0x4040000000 →
          (∀ i, i < 8 → (t.view (dieOf e.val)).word (d + 16 + 8 * i) = (k.readG (BitVec.ofNat 5 (i + 1))).v) ∧
          bitsOf ((t.view (dieOf e.val)).word d) 39 0 = (k.pc + 4) % 2 ^ 40)

/-! ## The V class -/

/-- The binary vector instructions of R84 that name an element type. -/
def vecTable : List ((Fin 256 → BitVec 5 → BitVec 5 → BitVec 5 → BitVec 5 → BitVec 3 → Instr) × VecOp) :=
  [(fun e vd va vb et pg => .vadd (.eng e) vd va vb et pg 0 true, .add), (fun e vd va vb et pg => .vsub (.eng e) vd va vb et pg 0 true, .sub),
   (fun e vd va vb et pg => .vmul (.eng e) vd va vb et pg 0 true, .mul), (fun e vd va vb et pg => .vmin (.eng e) vd va vb et pg true, .min),
   (fun e vd va vb et pg => .vmax (.eng e) vd va vb et pg true, .max)]

/-- A vector register whose elements of w bytes are given: enabled ones by a function, the others as they were. -/
def elementsAre (w : Nat) (pg : Word) (old new : VReg) (f : Nat → Nat) (p : Nat → Bool) : Prop :=
  ∀ i, i < 64 / w → (pg.getLsbD (w * i) = true → new.el w i = f i % 2 ^ (8 * w) ∧ new.psn w i = p i) ∧
    (pg.getLsbD (w * i) = false → new.el w i = old.el w i ∧ (new.psn w i = true ↔ old.psn w i = true))

/-- The flags of the enabled elements. -/
def flagsOf (w : Nat) (pg : Word) (f : Nat → Flags) : Flags :=
  (upFrom 0 (64 / w)).foldl (fun a i => if pg.getLsbD (w * i) then a ||| f i else a) 0

/-- On a ready engine each binary vector instruction of an accepted element type completes: every enabled element of vd is
the operation of R84 on the elements of va and vb at clause start, rounded in FMODE for floating point, and poisoned if
either is; disabled elements stand; the flags of enabled elements are ORed into FFLAGS; the residue check, which finds
nothing, reports nothing. Every other register stands, and the pc passes the word. -/
def Obligations.VectorArithmetic : Prop :=
  ∀ (s : State) (e : Fin 256) (vd va vb et : BitVec 5) (pg : BitVec 3) (ty : ElTy), still s = true →
    ready s (.eng e) = true → arithTy et = some ty → ∀ p ∈ vecTable,
    let k := s.core (.eng e)
    let w := ty.bytes
    let r := fun i => tyOp p.2 k.mode ty [(k.readV va).el w i, (k.readV vb).el w i]
    ∃ new : VReg,
      exec (p.1 e vd va vb et pg) s = .next (s.begin.setCore (.eng e)
        (((advanced k).writeV vd new).orFlags (flagsOf w (k.readP pg) fun i => (r i).2))) ∧
      elementsAre w (k.readP pg) (k.readV vd) new (fun i => (r i).1)
        (fun i => (k.readV va).psn w i || (k.readV vb).psn w i)

/-- The fused multiply-add instructions of R84. -/
def fmaTable : List ((Fin 256 → BitVec 5 → BitVec 5 → BitVec 5 → BitVec 5 → BitVec 3 → Instr) × FFmt) :=
  [(fun e vd va vb vc pg => .vfmaF32 (.eng e) vd va vb vc pg 0 true, .f32), (fun e vd va vb vc pg => .vfmaBf16 (.eng e) vd va vb vc pg 0 true, .bf16),
   (fun e vd va vb vc pg => .vfmaF16 (.eng e) vd va vb vc pg 0 true, .f16), (fun e vd va vb vc pg => .vfmaF64 (.eng e) vd va vb vc pg 0 true, .f64)]

/-- The bitwise instructions of R84. -/
def vbitTable : List ((Core → BitVec 5 → BitVec 5 → BitVec 5 → BitVec 3 → Bool → Instr) × (Nat → Nat → Nat)) :=
  [(.vand, fun a b => a &&& b), (.vor, fun a b => a ||| b), (.vxor, fun a b => a ^^^ b)]

/-- On a ready engine: vdiv and vsqrt of FP32 elements, vfma of each of its four formats, and vand, vor and vxor per byte
lane complete with each enabled element the rounded quotient, root or fused multiply-add, or the bitwise result, poisoned
if a source element is; disabled elements stand; the enabled elements' flags (none for the bitwise ones) go into FFLAGS;
every other register stands. -/
def Obligations.VectorDivideFmaBitwise : Prop :=
  ∀ (s : State) (e : Fin 256) (vd va vb vc : BitVec 5) (pg : BitVec 3), still s = true → ready s (.eng e) = true →
    let k := s.core (.eng e)
    let el := fun x w i => (k.readV x).el w i
    let psn := fun x w i => (k.readV x).psn w i
    let does := fun (i : Instr) (w : Nat) (r : Nat → Nat × Flags) (p : Nat → Bool) => ∃ new : VReg,
      exec i s = .next (s.begin.setCore (.eng e)
        (((advanced k).writeV vd new).orFlags (flagsOf w (k.readP pg) fun j => (r j).2))) ∧
      elementsAre w (k.readP pg) (k.readV vd) new (fun j => (r j).1) p
    does (.vdiv (.eng e) vd va vb 0 pg true) 4 (fun j => fDiv .f32 k.mode (el va 4 j) (el vb 4 j))
      (fun j => psn va 4 j || psn vb 4 j) ∧
    does (.vsqrt (.eng e) vd va 0 pg true) 4 (fun j => fSqrt .f32 k.mode (el va 4 j)) (fun j => psn va 4 j) ∧
    (∀ p ∈ fmaTable, does (p.1 e vd va vb vc pg) (p.2.width / 8)
      (fun j => fFma p.2 k.mode (el va (p.2.width / 8) j) (el vb (p.2.width / 8) j) (el vc (p.2.width / 8) j))
      (fun j => psn va (p.2.width / 8) j || psn vb (p.2.width / 8) j || psn vc (p.2.width / 8) j)) ∧
    (∀ p ∈ vbitTable, does (p.1 (.eng e) vd va vb pg true) 1 (fun j => (p.2 (el va 1 j) (el vb 1 j), 0))
      (fun j => psn va 1 j || psn vb 1 j))

/-- The predicate instructions of R84 with two sources. -/
def popTable : List ((Core → BitVec 3 → BitVec 3 → BitVec 3 → Bool → Instr) × (Word → Word → Word)) :=
  [(.popAnd, fun a b => a &&& b), (.popOr, fun a b => a ||| b), (.popXor, fun a b => a ^^^ b),
   (.popAndn, fun a b => a &&& ~~~b)]

/-- On a ready engine: vcmp of clean operands, an accepted type and condition sets in pd all byte lanes of exactly the
elements that compare true, and ORs the comparisons' flags into FFLAGS; pop.and, pop.or, pop.xor, pop.andn and pop.not write their bitwise
result; pmov moves a clean scalar register into a predicate and a predicate into a scalar register. p0 reads as all ones
and is not written. Nothing else changes but the pc. -/
def Obligations.ComparesAndPredicates : Prop :=
  ∀ (s : State) (e : Fin 256) (pd pa pb : BitVec 3) (va vb g : BitVec 5), still s = true → ready s (.eng e) = true →
    let k := s.core (.eng e)
    let done := fun (q : CoreSt) => Host.Outcome.next (φ := Fault) (ρ := Refusal) (s.begin.setCore (.eng e) q)
    (∀ (cc : BitVec 3) (et : BitVec 5) (ty : ElTy), arithTy et = some ty → ccOk cc.toNat ty = true →
      (k.readV va).p = 0 → (k.readV vb).p = 0 →
      let w := ty.bytes
      let c := fun i => tyCmp cc.toNat k.mode ty ((k.readV va).el w i) ((k.readV vb).el w i)
      ∃ m : Word, exec (.vcmp (.eng e) pd va vb cc et 0 true) s =
          done (((advanced k).writeP pd m).orFlags ((upFrom 0 (64 / w)).foldl (fun a i => a ||| (c i).2) 0)) ∧
        ∀ j, j < 64 → m.getLsbD j = (c (j / w)).1) ∧
    (∀ p ∈ popTable, exec (p.1 (.eng e) pd pa pb true) s = done ((advanced k).writeP pd (p.2 (k.readP pa) (k.readP pb)))) ∧
    exec (.popNot (.eng e) pd pa true) s = done ((advanced k).writeP pd (~~~(k.readP pa))) ∧
    ((k.readG g).p = false → exec (.pmovTo (.eng e) pd g true) s = done ((advanced k).writeP pd (k.readG g).v)) ∧
    exec (.pmovFrom (.eng e) g pa true) s = done ((advanced k).writeG g ⟨k.readP pa, false⟩)

/-- On a ready engine: vbcast puts the low bits of a scalar into every element with its mark; vget of a clean index writes
the indexed element, extended by its type's sign, with its mark; vcvt of a permitted pair of types converts the leading
elements and leaves the others zero; vld of a clean address that passes the checks of alignment, reach and allotment and meets no
verb's destination loads the enabled byte lanes with their words' marks; vst of such an address to the engine's own cluster's Basins stores
the enabled lanes and leaves every other byte as it was. -/
def Obligations.VectorMoves : Prop :=
  ∀ (s : State) (e : Fin 256) (vd va ga gd : BitVec 5), still s = true → ready s (.eng e) = true →
    let k := s.core (.eng e)
    let g := k.readG ga
    (∀ (et : BitVec 5) (ty : ElTy), elTy et = some ty → ∃ new : VReg,
      exec (.vbcast (.eng e) vd ga et true) s = .next (s.begin.setCore (.eng e) ((advanced k).writeV vd new)) ∧
      ∀ i, i < 64 / ty.bytes → new.el ty.bytes i = g.v.toNat % 2 ^ (8 * ty.bytes) ∧ new.psn ty.bytes i = g.p) ∧
    (∀ (et : BitVec 5) (ty : ElTy), elTy et = some ty → g.p = false →
      let i := g.v.toNat % (64 / ty.bytes)
      let raw := (k.readV va).el ty.bytes i
      exec (.vget (.eng e) gd va ga et true) s = .next (s.begin.setCore (.eng e) ((advanced k).writeG gd
        ⟨match ty with
          | .int w true => BitVec.ofInt 64 (bitsInt (8 * w) true raw)
          | _ => w64 raw, (k.readV va).psn ty.bytes i⟩))) ∧
    (∀ (dst src : BitVec 5) (a : ElTy) (b : ElTy × Bool) (f : Nat → Nat × Flags), elTy src = some a →
      cvtDst dst = some b → cvtEl k.mode b.2 a b.1 = some f → ∃ (new : VReg) (fl : Flags),
      exec (.vcvt (.eng e) vd va dst src true) s = .next (s.begin.setCore (.eng e) (((advanced k).writeV vd new).orFlags fl)) ∧
      ∀ i, i < 64 / b.1.bytes → new.el b.1.bytes i =
        (if i < 64 / a.bytes then (f ((k.readV va).el a.bytes i)).1 % 2 ^ (8 * b.1.bytes) else 0)) ∧
    (∀ (pg : BitVec 3) (off : BitVec 10),
      let a := effAddr g.v (off.toInt * 64)
      let v := s.view (dieOf e.val)
      g.p = false → a % 64 = 0 → accessOkV s e .rd a 64 = true → loadWaits k (span a 64) = false → ∃ new : VReg,
        exec (.vld (.eng e) vd ga pg off true) s = .next (s.begin.setCore (.eng e) ((advanced k).writeV vd new)) ∧
        elementsAre 1 (k.readP pg) (k.readV vd) new (fun i => (v.byte (a + i)).toNat) (fun i => v.mark (a + i))) ∧
    (∀ (pg : BitVec 3) (off : BitVec 10),
      let a := effAddr g.v (off.toInt * 64)
      g.p = false → a % 64 = 0 → accessOkV s e .wr a 64 = true → storeWaits k (span a 64) = false →
      (∃ x, s.region a = .basin x) →
        completes (.vst (.eng e) va ga pg off true) s fun t =>
          t.core (.eng e) = advanced k ∧
          (∀ i, i < 64 → (k.readP pg).getLsbD i = true → (t.byte (a + i)).toNat = (k.readV va).el 1 i) ∧
          (∀ b, (b < a ∨ a + 64 ≤ b ∨ (k.readP pg).getLsbD (b - a) = false) → t.byte b = s.byte b))

/-! ## Verbs -/

/-- A verb instruction with the kind it issues, the control words it refuses, the nouns it names with the rights it needs
there, and its own checks with the traps they raise. -/
abbrev VerbRow := Instr × VerbKind × (Word → Bool) × VerbNouns × (Word → List Noun → List (Bool × Trap))

/-- The verbs that issue from three nouns, or from an accumulator and two. -/
def verbRows (x : Ctx) (u : State) (e : Fin 256) (gt : BitVec 5) (nd na nb : BitVec 6) (acc : BitVec 3) : List VerbRow :=
  let d := nd.toNat
  let a := na.toNat
  let b := nb.toNat
  let two := [(a, Right.rd), (b, Right.rd)]
  let three := [(d, Right.wr), (a, Right.rd), (b, Right.rd)]
  let strict := strictFor u (.eng e)
  [(.mma (.eng e) gt acc na nb true, .mma false acc.toNat, outside (maskBits 47 0), two, mmaChecks x.b a b false acc.toNat),
   (.mmaSet (.eng e) gt acc na nb true, .mma true acc.toNat, outside (maskBits 47 0), two, mmaChecks x.b a b true acc.toNat),
   (.conv (.eng e) gt nd na nb true, .conv false, outside (maskBits 21 0 ||| maskBits 26 24), three, convChecks x u e false false d a b),
   (.convAccumulate (.eng e) gt nd na nb true, .conv true, outside (maskBits 21 0 ||| maskBits 26 24), three, convChecks x u e true false d a b),
   (.dwconv (.eng e) gt nd na nb true, .dwconv false, outside (maskBits 21 0 ||| maskBits 26 24), three, convChecks x u e false true d a b),
   (.dwconvAccumulate (.eng e) gt nd na nb true, .dwconv true, outside (maskBits 21 0 ||| maskBits 26 24), three, convChecks x u e true true d a b),
   (.smax (.eng e) gt nd na nb true, .smax false, outside (maskBits 31 0), [(d, .wr), (a, .rd), (b, .wr)], fun _ ns => smaxChecks d a b ns),
   (.smaxFromStats (.eng e) gt nd na nb true, .smax true, outside (maskBits 31 0), three, fun _ ns => smaxChecks d a b ns),
   (.normLayer (.eng e) gt nd na nb true, .norm false, outside (maskBits 31 0), three, fun _ ns => normChecks 0 d a b ns),
   (.normRms (.eng e) gt nd na nb true, .norm true, outside (maskBits 31 0), three, fun _ ns => normChecks 0 d a b ns),
   (.gath (.eng e) gt nd na nb true, .gath, outside 0, three, fun _ ns => sliceChecks d d b (ns.getD 1 (nounOf [])) (ns.getD 0 (nounOf [])) (ns.getD 2 (nounOf []))),
   (.scatStore (.eng e) gt nd na nb true, .scat 0, outside 0, three, fun _ ns => scatChecks strict 0 d a b ns),
   (.scatAdd (.eng e) gt nd na nb true, .scat 1, outside 0, three, fun _ ns => scatChecks strict 1 d a b ns),
   (.scatAtomicAdd (.eng e) gt nd na nb true, .scat 2, outside 0, three, fun _ ns => scatChecks strict 2 d a b ns),
   (.cvt (.eng e) gt nd na true, .cvt, cvtCtlBad, [(d, .wr), (a, .rd)], cvtChecks x u e d false),
   (.cvtFromAccumulator (.eng e) gt nd acc true, .cvtAcc acc.toNat, cvtCtlBad, [(d, .wr)], cvtChecks x u e d true)]

/-- The verb that a row issues on a core (R58, R86). -/
def verbOf (k : CoreSt) (gt : BitVec 5) (kind : VerbKind) (ns : VerbNouns) : Verb :=
  { kind := kind, seq := 0, ctl := (k.readG gt).v, nidx := ns.map Prod.fst, nouns := ns.map fun n => k.noun n.1,
    fmode := k.special 0x008, srseed := k.special 0x00A }

/-- The core once the verb has taken slot i: its token is in g[gt] (R58, R59). -/
def issued (k : CoreSt) (gt : BitVec 5) (i : Nat) (v : Verb) : CoreSt :=
  ({ k.setSlot i (some { v with seq := k.seq }) with seq := (k.seq + 1) % 2 ^ 24 }).writeG gt
    ⟨w64 (i + k.seq % 2 ^ 24 * 2 ^ 8), false⟩

/-- A verb of engine e passes its issue checks and waits for nothing (R50, R56, R60, R86). -/
def verbPasses (s : State) (e : Fin 256) (gt : BitVec 5) (kind : VerbKind) (bad : Word → Bool) (ns : VerbNouns)
    (own : Word → List Noun → List (Bool × Trap)) : Prop :=
  let k := s.core (.eng e)
  let x : Ctx := ⟨.eng e, 0, k, storesAccepted s e.val, false⟩
  let v := verbOf k gt kind ns
  gt ≠ 0 ∧ (k.readG gt).p = false ∧ bad (k.readG gt).v = false ∧ nounChecks x s e ns = .ok () ∧
    (∀ c ∈ own v.ctl (v.nouns.map nounOf), c.1 = false) ∧ verbWaits k v = false ∧
    (∀ a, verbAcc v = some a → accBusy k a = false)

/-- On a ready engine with a free token slot, mma, conv, dwconv, smax, norm, gath, scat and cvt in each of their forms, with
gt not g0, a clean control word that the verb defines, nouns that pass the checks of R86, the verb's own checks passed and no
overlap or busy accumulator to wait for, complete: the lowest free slot holds the verb with the control word, nouns, FMODE
and seed its clause read; g[gt] holds the token of slot and sequence number; the sequence number has advanced modulo 2^24;
nothing else has changed but the pc: no byte of memory, no accumulator, no other register. -/
def Obligations.VerbIssue : Prop :=
  ∀ (s : State) (e : Fin 256) (gt : BitVec 5) (nd na nb : BitVec 6) (acc : BitVec 3) (i : Nat), still s = true →
    ready s (.eng e) = true →
    let k := s.core (.eng e)
    freeSlot k = some i → ∀ r ∈ verbRows ⟨.eng e, 0, k, storesAccepted s e.val, false⟩ s e gt nd na nb acc,
    verbPasses s e gt r.2.1 r.2.2.1 r.2.2.2.1 r.2.2.2.2 →
    exec r.1 s = .next (s.begin.setCore (.eng e) (issued (advanced k) gt i (verbOf k gt r.2.1 r.2.2.2.1)))

/-- On a ready engine with a free token slot, attn, attn in its recompute form (all its noun numbers at most 63) and crop,
passing the checks of R86 and their own and waiting for nothing, complete: the lowest free slot holds the verb, a crop with
the next place in the order of its sampler's queue; g[gt] holds its token, the sequence number has advanced, the pc has
passed the word, no other register of a core and no byte of memory has changed; the cluster's self-test target has neither
an idle window nor a slice in progress. -/
def Obligations.AttnAndCropIssue : Prop :=
  ∀ (s : State) (e : Fin 256) (gt : BitVec 5) (nd na nb : BitVec 6) (i : Nat), still s = true →
    ready s (.eng e) = true →
    let k := s.core (.eng e)
    let x : Ctx := ⟨.eng e, 0, k, storesAccepted s e.val, false⟩
    let does := fun (c : Instr) (v : Verb) => completes c s fun t =>
      t.core (.eng e) = issued (advanced k) gt i v ∧ (∀ c, c ≠ .eng e → t.core c = s.core c) ∧
      (∀ b, t.byte b = s.byte b) ∧ (∀ r j, t.reg r j = s.reg r j) ∧
      (tget (fun _ => {}) t.drd.tests (0x100 + e.val / 16)).idleEnd = none ∧
      (tget (fun _ => {}) t.drd.tests (0x100 + e.val / 16)).running = false
    freeSlot k = some i →
    (∀ rc : Bool,
      let ns := attnEntries (k.readG gt).v rc nd.toNat na.toNat nb.toNat
      (∀ n ∈ ns, n.1 ≤ 63) →
      verbPasses s e gt (.attn rc) (outside (maskBits 12 0 ||| maskBits 63 32)) ns
        (attnChecks x s e rc nd.toNat na.toNat nb.toNat) →
      does ((if rc then Instr.attnRecompute else Instr.attn) (.eng e) gt nd na nb true) (verbOf k gt (.attn rc) ns)) ∧
    (let ns := cropNouns (k.readG gt).v nd.toNat na.toNat nb.toNat
     verbPasses s e gt .crop (outside (maskBits 3 0)) ns (cropChecks nd.toNat na.toNat nb.toNat) →
     does (.crop (.eng e) gt nd na nb true) { verbOf k gt .crop ns with order := s.cropSeq })

/-- The completion commands of R61 but those of attn and crop, without an injected mismatch: the kinds that each covers. -/
def verbEnds (e : Fin 256) (slot : Fin 8) : List (Instr × (VerbKind → Bool) × (VerbKind → Bool)) :=
  [(.mmaComplete e slot false, isMma, usesMatrix), (.convComplete e slot false, isConv, usesMatrix),
   (.dwconvComplete e slot false, isDwconv, usesMatrix), (.smaxComplete e slot, isSmax, anyOrder),
   (.normComplete e slot, isNorm, anyOrder), (.cvtComplete e slot, isCvt, isCvt),
   (.gathScatComplete e slot, isSlice, anyOrder)]

/-- When nothing is under way, the completion command of a verb in flight in a slot, of the command's kind and with no verb
before it that must complete first, completes; a verb that takes poison as an index raises a detection of class 18 for its
engine. Without one the slot still holds the verb, now done, with the status word of what it
delivers and the first noun with PSN 1 that gave poison; the accumulators hold what it delivers; every other register of the
engine and every other slot stand. What it delivers is what its verb computes on memory as the engine's die observes it;
where every byte of that lies in Basins, those bytes are in memory and no other has changed; where it lies in the Cistern,
the engine's die observes those bytes and no other change. -/
def Obligations.VerbCompletion : Prop :=
  ∀ (s : State) (e : Fin 256) (slot : Fin 8) (v : Verb), still s = true → ∀ r ∈ verbEnds e slot,
    let k := s.core (.eng e)
    let o := verbRun false (s.begin.view (dieOf e.val)) e.val v
    k.slot slot.val = some v → v.done = false → r.2.1 v.kind = true → isOldest k v r.2.2 = true →
    (∀ a, o.eaten = some a → completes r.1 s fun t => reacted s t 18 e.val) ∧
    (o.eaten = none → completes r.1 s fun t =>
      let q := t.core (.eng e)
      q.slot slot.val = some { v with done := true, status := o.word, psn := o.psn } ∧
      (∀ j, j ≠ slot.val → q.slot j = k.slot j) ∧ q.a = (putAccs k o.acc o.tag).a ∧
      q.aInt = (putAccs k o.acc o.tag).aInt ∧ q.g = k.g ∧ q.v = k.v ∧ q.p = k.p ∧ q.n = k.n ∧ q.sp = k.sp ∧ q.pc = k.pc ∧
      ((∀ b ∈ o.bulk, ∃ c, s.region b.1 = .basin c) →
        ∀ a, t.byte a = (s.write (Bulk.plain o.bulk) fun _ => false).byte a) ∧
      ((∀ b ∈ o.bulk, s.region b.1 = .cistern) → (∀ a, t.byte a = s.byte a) ∧ ∀ a,
        (t.view (dieOf e.val)).byte a = ((s.begin.view (dieOf e.val)).write (Bulk.plain o.bulk) fun _ => false).byte a))

/-- When nothing is under way: ATTN_COMPLETE of the oldest matrix verb in flight runs the sequences not yet begun and leaves
in its slot the verb with what its sequences have come to; once all have completed or ended it is done with the status word
of R242, while a stalled one keeps it in flight. CROP_COMPLETE of the crop whose turn it is in its sampler's queue leaves it
done with the status word of what it delivers. Every other slot and register stands. Where either has taken poison as an
address or as a box, a detection of class 18 for its engine is raised instead. -/
def Obligations.AttnAndCropCompletion : Prop :=
  ∀ (s : State) (e : Fin 256) (slot : Fin 8) (v : Verb), still s = true →
    let k := s.core (.eng e)
    let stands := fun (q : CoreSt) => (∀ j, j ≠ slot.val → q.slot j = k.slot j) ∧ q.g = k.g ∧ q.v = k.v ∧ q.p = k.p ∧
      q.n = k.n ∧ q.sp = k.sp ∧ q.pc = k.pc
    k.slot slot.val = some v → v.done = false →
    (∀ rc, v.kind = .attn rc → isOldest k v usesMatrix = true →
      let x := runSeqs (shapeOf v) e rc false (fun q => ! q.begun) { s := s.begin.view (dieOf e.val), acc := v.att } (initSeqs v)
      let w := { v with seqs := x.2, att := x.1.acc }
      (attnOver w = true → x.1.acc.eaten ≠ none → completes (.attnComplete e slot false) s fun t => reacted s t 18 e.val) ∧
      ((attnOver w = true → x.1.acc.eaten = none) → completes (.attnComplete e slot false) s fun t =>
        stands (t.core (.eng e)) ∧ ∃ y, (t.core (.eng e)).slot slot.val = some y ∧
          (attnOver w = false → y = w) ∧
          (attnOver w = true → y.done = true ∧ y.status = attnStatus w ∧ y.seqs = w.seqs))) ∧
    (v.kind = .crop → samplerTurn s e.val v = true →
      let o := cropRun (s.begin.view (dieOf e.val)) e.val v
      (∀ a, o.eaten = some a → completes (.cropComplete e slot) s fun t => reacted s t 18 e.val) ∧
      (o.eaten = none → completes (.cropComplete e slot) s fun t =>
        stands (t.core (.eng e)) ∧
        (t.core (.eng e)).slot slot.val = some { v with done := true, status := o.word, psn := o.psn }))

/-- On a ready engine, with the accumulator named by no verb in flight: arv of a clean row word below 64 writes the sixteen
elements of that half row into vd with their marks; awv writes them from vs; azro zeroes the accumulator and sets its tag.
waitv of a token whose slot holds its verb, done and without poison through a PSN noun, writes its status word into gd,
ORs its flags into FFLAGS and frees the slot. Nothing else changes but the pc. -/
def Obligations.AccumulatorsAndWaitv : Prop :=
  ∀ (s : State) (e : Fin 256) (vd gr gd : BitVec 5) (acc : BitVec 3), still s = true → ready s (.eng e) = true →
    let k := s.core (.eng e)
    let w := (k.readG gr).v.toNat
    let at_ := fun (q : CoreSt) => Host.Outcome.next (φ := Fault) (ρ := Refusal) (s.begin.setCore (.eng e) q)
    let elem := fun (q : CoreSt) (a i j : Nat) => q.acc a i j
    (accBusy k acc.toNat = false → (k.readG gr).p = false → w < 64 →
      (∃ new : VReg, exec (.arv (.eng e) vd acc gr true) s = at_ ((advanced k).writeV vd new) ∧
        ∀ j, j < 16 → new.el 4 j = (elem k acc.toNat (w % 32) (16 * (w / 32) + j)).v.toNat ∧
          new.psn 4 j = (elem k acc.toNat (w % 32) (16 * (w / 32) + j)).p) ∧
      (∃ q : CoreSt, exec (.awv (.eng e) acc vd gr true) s = at_ q ∧ q = { advanced k with a := q.a } ∧
        (∀ j, j < 16 → elem q acc.toNat (w % 32) (16 * (w / 32) + j) =
          ⟨BitVec.ofNat 32 ((k.readV vd).el 4 j), (k.readV vd).psn 4 j⟩) ∧
        ∀ a i j, a < 8 → i < 32 → j < 32 → (a ≠ acc.toNat ∨ i ≠ w % 32 ∨ j / 16 ≠ w / 32) → elem q a i j = elem k a i j)) ∧
    (accBusy k acc.toNat = false → ∀ tag : Bool,
      ∃ q : CoreSt, exec (.azro (.eng e) acc tag true) s = at_ q ∧ q = { advanced k with a := q.a, aInt := q.aInt } ∧
        (∀ i j, i < 32 → j < 32 → elem q acc.toNat i j = {}) ∧
        (∀ a i j, a ≠ acc.toNat → i < 32 → j < 32 → elem q a i j = elem k a i j) ∧
        ∀ a, (q.aInt.contains a = if a = acc.toNat then tag else k.aInt.contains a)) ∧
    (∀ v, tokenOk k (k.readG gr).v = true → k.slot (bitsOf (k.readG gr).v 2 0) = some v → v.done = true → v.psn = none →
      exec (.waitv (.eng e) gd gr true) s =
        at_ ((((advanced k).setSlot (bitsOf (k.readG gr).v 2 0) none).writeG gd ⟨v.status, false⟩).orFlags
          (statusFlags v.status)))

/-! ## Units with an EN field -/

/-- The control register that holds a unit's EN, and the unit's instance of it (R488). -/
def ctlOf : DrainUnit → RegName × Nat
  | .engine e => (.FE_CTL, e.val)
  | .mover m => (.CST_MVR_CTL, m.val)
  | .edge x => (.EDG_CTL, x.val)
  | .channel c => (.ING_CH_CTL, c.val)
  | .forebay => (.ING_FB_CTL, 0)
  | .lane l => (.SLV_LANE_CTL, l.val)
  | .loop n => (.SRV_LP_CTL, n.val)
  | .eth p => (.ETH_CTL, p.val)
  | .dvoril p => (.DVL_CTL, p.val)
  | .can c => (.CB_CTL, c.val)
  | .journal => (.JNL_CTL, 0)
  | .aes => (.SEC_AES_RING, 0)

/-- State of a unit: 0 ENABLED, 1 DRAINING, 2 DISABLED, 3 FAILED. -/
def stateOf (s : State) (u : DrainUnit) : Option Nat := unitState s (ctlOf u).1 (ctlOf u).2

/-- The command that writes EN = 1, with the value written; the journal's carries its own. -/
def enableCmd (src : BitVec 16) (v : Word) (i : Instr) : DrainUnit → Prop
  | .engine e => i = .feEnable src e
  | .mover m => i = .moverEnable src m
  | .edge x => i = .edgeEnable src x
  | .channel c => i = .intakeChannelEnable src c
  | .forebay => i = .forebayEnable src
  | .lane l => i = .solverLaneEnable src l
  | .loop n => i = .servoLoopEnable src n
  | .eth p => i = .ethEnable src p
  | .dvoril p => i = .dvorilLinkEnable src p
  | .can c => i = .canEnable src c
  | .journal => i = .journalEnable src v
  | .aes => False

/-- The command that writes EN = 0. -/
def drainCmd (src : BitVec 16) (i : Instr) : DrainUnit → Prop
  | .engine e => i = .feDrain src e
  | .mover m => i = .moverDrain src m
  | .edge x => i = .edgeDrain src x
  | .channel c => i = .intakeChannelDrain src c
  | .forebay => i = .forebayDrain src
  | .lane l => i = .solverLaneDrain src l
  | .loop n => i = .servoLoopDrain src n
  | .eth p => i = .ethDrain src p
  | .dvoril p => i = .dvorilDrain src p
  | .can c => i = .canDrain src c
  | .journal => i = .journalDrain src
  | .aes => False

/-- The command that writes ABORT = 1. -/
def abortCmd (src : BitVec 16) (i : Instr) : DrainUnit → Prop
  | .engine e => i = .feAbort src e
  | .mover m => i = .moverAbort src m
  | .edge x => i = .edgeAbort src x
  | .channel c => i = .intakeChannelAbort src c
  | .forebay => i = .forebayAbort src
  | .lane l => i = .solverLaneAbort src l
  | .loop n => i = .servoLoopAbort src n
  | .eth p => i = .ethAbort src p
  | .dvoril p => i = .dvorilAbort src p
  | .can c => i = .canAbort src c
  | .journal => i = .journalAbort src
  | .aes => i = .aesAbort src

/-- Nothing of the unit is in flight. -/
def noWork (s : State) : DrainUnit → Prop
  | .engine e => (s.core (.eng e)).inFlight = []
  | .mover m => (s.mover (.ring m)).prog = []
  | .edge x => s.edgeJob x.val = none
  | .channel c => (s.chan c.val).frames = []
  | .forebay => filling s = []
  | .lane l => (s.lane l.val).prob = none
  | .loop n => (s.loop n.val).released = [] ∧ (s.loop n.val).sel = none
  | .eth p => (s.port p.val).wire = none
  | .dvoril p => (s.dv p.val).replay = []
  | .can c => (s.canSt c.val).wire = none
  | .journal => s.jnl.held = [] ∧ s.jnl.out = []
  | .aes => s.sec.aes = none

/-- A unit's own checks of its configuration as it stands pass (R288, R345, R373, R395). -/
def configOk (s : State) : DrainUnit → Prop
  | .channel c => chanOk s c.val = true
  | .loop n => loopBad s n.val = false
  | .can c => canCfgBad s c.val (s.reg .CB_CTL c.val) = false
  | .journal => s.fld JNL_STG.SIZE 0 ≠ 0
  | _ => True

/-- What enabling a unit leaves besides its state: an engine starts in runtime mode at TRAPVEC with EPC, ECAUSE 0 and
EDETAIL 2 (R521); a lane's registers are zero and it starts at ENTRY (R313; assumption log 46); a loop's filters start from 0 (R345); CAN error
counters are 0 (R388); the Forebay's batch statistics start anew; a Dvoril port trains (R218). -/
def begun (s t : State) : DrainUnit → Prop
  | .engine e =>
    let k := s.core (.eng e)
    let q := t.core (.eng e)
    q.runtime = true ∧ q.pc = bitsOf (k.special 0x023) 39 0 ∧ q.special 0x020 = w64 k.pc ∧ q.special 0x021 = 0 ∧
      q.special 0x022 = 2 ∧ q.g = k.g ∧ q.v = k.v ∧ q.p = k.p ∧ q.n = k.n ∧ q.a = k.a
  | .lane l => t.core (.lane l) = { pc := laneBase l.val + s.fld SLV_LANE_CTL.ENTRY l.val / 4 * 4 }
  | .loop n => ∀ i, i < 8 → t.reg .SRV_LP_STATE0 (8 * n.val + i) = 0 ∧ t.reg .SRV_LP_STATE1 (8 * n.val + i) = 0
  | .can c => t.fld CB_STAT.TEC c.val = 0 ∧ t.fld CB_STAT.REC c.val = 0
  | .forebay => t.fb.mean = [0, 0, 0]
  | .dvoril p => t.fld DVL_STAT.STATE p.val = 1
  | _ => True

/-- When nothing is under way, the enable command of a DISABLED unit whose configuration passes its checks, as a write that
takes effect (the value of the journal's a whole register value with EN 1 and ABORT 0), completes and leaves the unit
ENABLED, EN reading 1, and what the unit starts from in place. -/
def Obligations.UnitEnable : Prop :=
  ∀ (s : State) (src : BitVec 16) (u : DrainUnit) (c : Instr) (v : Word), still s = true →
    enableCmd src v c u → stateOf s u = some 2 → configOk s u →
    taken s src (ctlOf u).1 (ctlOf u).2 (if u = .journal then putBits v 1 0 1 else kept s (ctlOf u).1 (ctlOf u).2 ||| 1) = true →
    completes c s fun t =>
      stateOf t u = some 0 ∧ (t.reg (ctlOf u).1 (ctlOf u).2).getLsbD 0 = true ∧ begun s t u

/-- When nothing is under way, the drain command of an ENABLED unit (a Dvoril port that is UP), as a write that takes effect,
completes and leaves the unit DRAINING with EN reading 0; an engine keeps its mode, its registers and its verbs in flight;
a lane's queued problems are gone. The abort command of a unit that is ENABLED or DRAINING, as a write that takes effect,
completes and leaves the unit DISABLED with nothing in flight; an engine keeps its registers and its pc, and its token slots
are free; a lane's queue is empty. -/
def Obligations.UnitDrainAndAbort : Prop :=
  ∀ (s : State) (src : BitVec 16) (u : DrainUnit) (c : Instr), still s = true →
    (drainCmd src c u → stateOf s u = some 0 → (∀ p, u = .dvoril p → s.fld DVL_STAT.STATE p.val = 2) →
      taken s src (ctlOf u).1 (ctlOf u).2 (kept s (ctlOf u).1 (ctlOf u).2 &&& ~~~1) = true →
      completes c s fun t =>
        stateOf t u = some 1 ∧ (t.reg (ctlOf u).1 (ctlOf u).2).getLsbD 0 = false ∧
        (∀ e, u = .engine e → t.core (.eng e) = { s.core (.eng e) with state := 1 }) ∧
        (∀ l, u = .lane l → (t.lane l.val).fifo = [])) ∧
    (abortCmd src c u → (stateOf s u = some 0 ∨ stateOf s u = some 1) →
      taken s src (ctlOf u).1 (ctlOf u).2
        (kept s (ctlOf u).1 (ctlOf u).2 ||| (if u = .aes then bit64 57 else 2)) = true →
      completes c s fun t =>
        stateOf t u = some 2 ∧ noWork t u ∧
        (∀ e, u = .engine e → let q := t.core (.eng e); let k := s.core (.eng e)
          q.slots = [] ∧ q.g = k.g ∧ q.v = k.v ∧ q.p = k.p ∧ q.n = k.n ∧ q.sp = k.sp ∧ q.pc = k.pc ∧ q.runtime = k.runtime) ∧
        (∀ l, u = .lane l → (t.lane l.val).fifo = [] ∧ (t.lane l.val).run = none))

/-- When nothing is under way, for a DRAINING unit other than the AES unit: DRAIN_COMPLETE with nothing in flight (a Dvoril
port whose frames are all acknowledged; the journal once it is sealed or in replay) completes and leaves it DISABLED; an
engine's it leaves as it was, whose drain ends instead at its first clause in runtime mode that dispatches or takes a task: a
ready engine's disp then leaves it DISABLED at that clause, still in runtime mode. DRAIN_TIMEOUT, an intake channel with no
frame open, completes and leaves the unit DISABLED with nothing in flight. SOLVER_DRAIN_TIMEOUT of a DRAINING lane ends its
problem. -/
def Obligations.DrainsEnd : Prop :=
  ∀ (s : State) (u : DrainUnit), still s = true → stateOf s u = some 1 → u ≠ .aes →
    (noWork s u → (∀ e, u ≠ .engine e) → (u = .journal → s.jnl.sealed = true ∨ s.bit JNL_CTL.MODE 0 = true) →
      completes (.drainComplete u) s fun t => stateOf t u = some 2) ∧
    (∀ e, u = .engine e → exec (.drainComplete u) s = .next s.begin ∧
      ∀ ra, ready s (.eng e) = true → (s.core (.eng e)).runtime = true → completes (.disp (.eng e) ra true) s fun t =>
        stateOf t u = some 2 ∧ (t.core (.eng e)).runtime = true ∧ (t.core (.eng e)).pc = (s.core (.eng e)).pc) ∧
    ((∀ c, u = .channel c → openFrame s c.val = none) →
      completes (.drainTimeout u) s fun t => stateOf t u = some 2 ∧ noWork t u) ∧
    (∀ l, u = .lane l → completes (.solverDrainTimeout l) s fun t => (t.lane l.val).prob = none)

/-! ## The X class -/

/-- On a ready engine: nld of a clean 64-byte-aligned address whose words are readable, clear of the destinations of verbs
in flight and not poisoned, puts its eight words into the noun entry; nst to such an address in a Basin, clear of every
footprint, stores the entry's eight words there and changes no other byte; nrd reads one word of an entry into gr, clean;
nwr of a clean gr writes one word; nadd of a clean gr copies an entry with gr added to BASE modulo 2^40. No other entry, no
other register and no other byte changes. -/
def Obligations.NounTable : Prop :=
  ∀ (s : State) (e : Fin 256) (nd na : BitVec 6) (w : BitVec 3) (gr : BitVec 5), still s = true →
    ready s (.eng e) = true →
    let k := s.core (.eng e)
    let g := k.readG gr
    let a := g.v.toNat
    let view := s.begin.view (dieOf e.val)
    let at_ := fun (q : CoreSt) => Host.Outcome.next (φ := Fault) (ρ := Refusal) (s.begin.setCore (.eng e) q)
    let entry := fun (q : CoreSt) (ws : List Word) => q = { advanced k with n := q.n } ∧ q.noun nd.toNat = ws ∧
      ∀ i, i < 64 → i ≠ nd.toNat → q.noun i = k.noun i
    (g.p = false → a % 64 = 0 → accessOkV s e .rd a 64 = true → loadWaits k (span a 64) = false →
      view.firstPoison a 64 = none →
      ∃ q, exec (.nld (.eng e) nd gr true) s = at_ q ∧ entry q (view.words a 8)) ∧
    (g.p = false → a % 64 = 0 → accessOkV s e .wr a 64 = true → storeWaits k (span a 64) = false →
      (∃ x, s.region a = .basin x) →
      completes (.nst (.eng e) na gr true) s fun t => t.core (.eng e) = advanced k ∧
        (∀ i, i < 8 → t.word (a + 8 * i) = (k.noun na.toNat).getD i 0) ∧
        (∀ b, b < a ∨ a + 64 ≤ b → t.byte b = s.byte b) ∧ ∀ r i, t.reg r i = s.reg r i) ∧
    exec (.nrd (.eng e) gr na w true) s = at_ ((advanced k).writeG gr ⟨(k.noun na.toNat).getD w.toNat 0, false⟩) ∧
    (g.p = false → ∃ q, exec (.nwr (.eng e) nd w gr true) s = at_ q ∧ entry q ((k.noun nd.toNat).set w.toNat g.v)) ∧
    (g.p = false → ∃ q, exec (.nadd (.eng e) nd na gr true) s = at_ q ∧ entry q
      (putBits ((k.noun na.toNat).getD 0 0) 39 0 ((bitsOf ((k.noun na.toNat).getD 0 0) 39 0 + a) % 2 ^ 40) ::
        (k.noun na.toNat).tail))

/-- On a ready engine: move with a clean valid gate handle, nouns that pass the checks of R98, a mover of R98 with room, and
no earlier move on another mover with the same kind of destination, completes: the descriptor of the copy, which signals the
gate by 1 and names the engine as requester, is the newest of that mover (in progress on the engine's own, in the handoff
queue of a quadrant mover), and the engine has counted the move and, where its own mover has accepted it, the writes it
charges (R198). pref with a noun that passes the same checks completes and changes nothing but the pc. No byte of memory
and no register changes. -/
def Obligations.MoveAndPrefetch : Prop :=
  ∀ (s : State) (e : Fin 256) (nd na : BitVec 6) (gr : BitVec 5) (m : MoverId), still s = true →
    ready s (.eng e) = true →
    let k := s.core (.eng e)
    let x : Ctx := ⟨.eng e, 0, k, storesAccepted s e.val, false⟩
    let src := k.noun na.toNat
    let dst := k.noun nd.toNat
    let h := (k.readG gr).v
    let d := buildDesc (.engine e.val k.moves) true (handleOfEngine e.val h) (engineQ s e.val) e.val 0 src dst
    ((k.readG gr).p = false → moveChecks x s [(nd.toNat, .wr), (na.toNat, .rd)] = .ok () →
      moveReason s e (nounOf src) (nounOf dst) = none → moveRoute s e (nounOf src) (nounOf dst) = some m →
      handleOkEngine h false = true → (∀ v ∈ engineMoves s e, v.1 = m ∨ moveMem s v.2.2 ≠ moveMem s d) →
      moverFull s m = false →
      completes (.move (.eng e) nd na gr true) s fun t =>
        t.core (.eng e) = { advanced k with
          moves := k.moves + 1
          fence := match m with
            | .engine _ => ((chargeDesc s m d).core (.eng e)).fence
            | .ring _ => k.fence } ∧
        t.mover m = (match m with
          | .engine _ => { s.mover m with prog := (s.mover m).prog ++ [d] }
          | .ring _ => { s.mover m with handoff := (s.mover m).handoff ++ [d] }) ∧
        (∀ m', moverKey m' ≠ moverKey m → t.mover m' = s.mover m') ∧ (∀ b, t.byte b = s.byte b) ∧
        ∀ r i, t.reg r i = s.reg r i) ∧
    (moveChecks x s [(na.toNat, .rd)] = .ok () →
      exec (.pref (.eng e) na true) s = .next (s.begin.setCore (.eng e) (advanced k)))

/-- A direct write of a gate's word takes effect: that of a die gate always does (R160, R194). -/
def gateTaken (s : State) (src : BitVec 16) (g : GateId) (v : Word) : Bool :=
  match g with
  | .cluster _ _ => taken s src .CST_CGATE (gateKey g) v
  | .die _ _ => true
  | .module i => taken s src .CST_MGATE i.val v

/-- On a ready engine with a valid handle of a cluster or module gate: gsig with its earlier stores accepted and no verb
with a memory destination in flight adds the low 32 bits of gb, signed and saturating, sets LASTSRC and, when it saturates,
OVF, and lets waiters take from the sum in order; gwait of a clean amount below 2^31 at a gate without waiters takes it from
a value that is at least as large and issues, and from a smaller one takes nothing: the engine then waits at its clause as
the gate's only waiter, until a GATE_WRITE of a large enough value lets its clause issue. A GATE_WRITE that takes effect
puts VALUE, flags and LASTSRC as written and lets waiters take from the written VALUE. The waiters left, and WAITERS, are
those not served. -/
def Obligations.GateSignalAndWait : Prop :=
  ∀ (s : State) (e : Fin 256) (ga gb : BitVec 5) (src : BitVec 16) (g : GateId) (v : Word), still s = true →
    let k := s.core (.eng e)
    let h := handleKey (handleOfEngine e.val (k.readG ga).v)
    let sum := gateValue (gateWord s h) + ((k.readG gb).v.setWidth 32).toInt
    let put := max (-(2 ^ 31)) (min (2 ^ 31 - 1) sum)
    let served := fun (t : State) (key : Nat) (x : Int) (old : Word) =>
      let r := serveList x (s.waiters key)
      gateValue (gateWord t key) = r.1 ∧ t.waiters key = r.2.1 ∧
        bitsOf (gateWord t key) 40 32 = min 256 r.2.1.length ∧ bitsOf (gateWord t key) 42 42 = bitsOf old 42 42
    (ready s (.eng e) = true → handleOkEngine (k.readG ga).v false = true → bitsOf (k.readG ga).v 11 10 ≠ 1 →
      (k.readG ga).p = false →
      ((k.readG gb).p = false → storesAccepted s e.val = true → memVerbs k = false →
        completes (.gsig (.eng e) ga gb true) s fun t =>
          served t h put (gateWord s h) ∧ bitsOf (gateWord t h) 63 48 = e.val ∧
          (gateWord t h).getLsbD 41 = ((gateWord s h).getLsbD 41 || decide (sum ≠ put)) ∧
          t.core (.eng e) = advanced k) ∧
      (∀ amt, (k.readG gb).v.toNat = amt → amt < 2 ^ 31 → s.waiters h = [] →
        ((amt : Int) ≤ gateValue (gateWord s h) → completes (.gwait (.eng e) ga gb true) s fun t =>
          gateValue (gateWord t h) = gateValue (gateWord s h) - amt ∧ t.waiters h = [] ∧
          t.core (.eng e) = { advanced k with sync := s.accSeq }) ∧
        (gateValue (gateWord s h) < amt → completes (.gwait (.eng e) ga gb true) s fun t =>
          gateValue (gateWord t h) = gateValue (gateWord s h) ∧ t.waiters h = [⟨e.val, amt, k.pc⟩] ∧
          (t.core (.eng e)).pc = k.pc ∧ (t.core (.eng e)).waiting = true ∧ (t.core (.eng e)).g = k.g ∧
          (h = gateKey g → gateTaken t src g v = true → (amt : Int) ≤ gateValue v →
            completes (.gateWrite src g v) t fun u => gateValue (gateWord u h) = gateValue v - amt ∧ u.waiters h = [] ∧
              u.core (.eng e) = { advanced k with sync := s.accSeq })))) ∧
    (gateTaken s src g v = true → completes (.gateWrite src g v) s fun t =>
       served t (gateKey g) (gateValue v) v ∧ bitsOf (gateWord t (gateKey g)) 63 48 = bitsOf v 63 48 ∧
       (gateWord t (gateKey g)).getLsbD 41 = v.getLsbD 41)

/-- On a ready engine with a clean valid handle of a cluster or module check whose PART is not 0, with nobody counted or
held there and no departure under way, its earlier stores accepted and no memory verb in flight: chka completes its arrival,
counted as 1 in the oldest round, and the engine waits at its clause; where PART is 1, CHECK_DEPARTURE_RELEASE then releases
it: its clause has issued, the round's count is 0 again and the round number has grown by 1 modulo 2^32. A CHECK_WRITE
that takes effect leaves word 0 with PART, both counts and DIRTY as written, and word 1 with ROUND and EARLY as written
and DEP, LEFT and HELD as they were. -/
def Obligations.ChecksMeet : Prop :=
  ∀ (s : State) (e : Fin 256) (ga : BitVec 5) (src : BitVec 16) (c : CheckId) (v : Word), still s = true →
    let k := s.core (.eng e)
    let h := checkKey c
    (ready s (.eng e) = true → handleOkEngine (k.readG ga).v true = true → bitsOf (k.readG ga).v 11 10 ≠ 1 →
      (k.readG ga).p = false → handleKey (handleOfEngine e.val (k.readG ga).v) = h → partOf s h ≠ 0 →
      storesAccepted s e.val = true → memVerbs k = false → (s.chk h).even = [] → (s.chk h).odd = [] →
      (s.chk h).held = [] → chkCount s h (roundOdd s h) = 0 → (checkWord s h 1).getLsbD 32 = false →
      completes (.chka (.eng e) ga true) s fun t =>
        chkCount t h (roundOdd s h) = 1 ∧ partOf t h = partOf s h ∧ (t.core (.eng e)).pc = k.pc ∧
        (t.core (.eng e)).waiting = true ∧ (t.core (.eng e)).g = k.g ∧
        (partOf s h = 1 → completes (.checkDepartureRelease c) t fun u =>
          u.core (.eng e) = { advanced k with sync := s.accSeq } ∧ chkCount u h (roundOdd s h) = 0 ∧
          bitsOf (checkWord u h 1) 31 0 = (bitsOf (checkWord s h 1) 31 0 + 1) % 2 ^ 32)) ∧
    (∀ w : Bool,
      (match c with
        | .cluster x i => taken s src (if w then .CST_CCHK1 else .CST_CCHK0) (64 * x.val + i.val) v
        | .die _ _ => true
        | .module i => taken s src (if w then .CST_MCHK1 else .CST_MCHK0) i.val v) = true →
      completes (.checkWrite src c w v) s fun t =>
        if w then bitsOf (checkWord t h 1) 31 0 = bitsOf v 31 0 ∧ bitsOf (checkWord t h 1) 63 50 = bitsOf v 63 50 ∧
          bitsOf (checkWord t h 1) 49 32 = bitsOf (checkWord s h 1) 49 32
        else partOf t h = bitsOf v 8 0 ∧ chkCount t h false = bitsOf v 24 16 ∧ chkCount t h true = bitsOf v 40 32 ∧
          bitsOf (checkWord t h 0) 41 41 = bitsOf v 41 41)

/-- On a ready engine: post of a clean valid handle, with no memory verb or Basin move of its own under way and every other move
accepted, completes: in this module, to a gate whose cluster is not isolated and with room in the sluice, the sluice's newest
post holds the engine, its clause, the handle, the low 32 bits of gb and the engine's four data-fence counts, and OCC counts it;
to another module the first UP port linked to it has the post's frame as its newest, with the handle, the amount, the engine and
whether both ports' counts are carried, and with no such port the post is reported. fence.rel with stores accepted and no
verb or move of its own under way, and fence.acq with every write accepted before the engine's last synchronisation
performed, complete and change nothing but the pc. SLUICE_RELEASE of a held post whose writes have been performed, with no
earlier post of its source held and a valid handle of a cluster or module gate, not isolated and without waiters, completes: the
post has left, and the gate holds the saturated sum and its source. GATE_DEBUG_CAPTURE leaves the selected object's eight words
in CST_GDBG and the first on the wire; GATE_DEBUG_SELECT that takes effect leaves the selection. -/
def Obligations.PostsAndFences : Prop :=
  ∀ (s : State) (e : Fin 256) (ga gb : BitVec 5) (src : BitVec 16) (n : Nat) (p : Post) (v : Word), still s = true →
    let k := s.core (.eng e)
    let h := (k.readG ga).v
    let md := bitsOf h 18 17
    let carries := fun (q : Nat) => dvUp s q = true ∧ dvReaches s md q = true
    (ready s (.eng e) = true → (k.readG ga).p = false → (k.readG gb).p = false → handleOkPost h = true →
      memVerbs k = false → (∀ m ∈ engineMoves s e, (moveMem s m.2.2).isBasin = false ∧ m.2.1 = true) →
      (postLocal s h = true → keyIsolated s (handleKey (putBits h 19 17 0)) = false → s.sluice.length < 64 →
        completes (.post (.eng e) ga gb true) s fun t =>
          t.sluice = s.sluice ++ [⟨e.val, k.pc, h, (k.readG gb).v.setWidth 32,
            (upFrom 0 4).map fun q => tget (fun _ => 0) k.fence q, none, s.totalNs⟩] ∧
          t.fld CST_SLUICE.OCC 0 = s.sluice.length + 1 ∧ t.core (.eng e) = advanced k) ∧
      (postLocal s h = false →
        (¬ carries 0 → ¬ carries 1 → completes (.post (.eng e) ga gb true) s fun t => told s t (engineQ s e.val) ∧
          (∀ q, (t.dv q).queue = (s.dv q).queue) ∧ t.core (.eng e) = advanced k) ∧
        ∀ q, q = 0 ∨ q = 1 ∧ ¬ carries 0 → carries q → completes (.post (.eng e) ga gb true) s fun t =>
          t.core (.eng e) = advanced k ∧ (t.dv q).queue.dropLast = (s.dv q).queue ∧
          ∃ f, (t.dv q).queue.getLast? = some f ∧ f.vc = 1 ∧
            bitsOf (f.words.getD 2 0) 20 0 = bitsOf h 20 0 ∧ bitsOf (f.words.getD 2 0) 63 32 = bitsOf (k.readG gb).v 31 0 ∧
            (f.words.getD 2 0).getLsbD 21 = dvReaches s md (1 - q) ∧ bitsOf (f.words.getD 3 0) 15 0 = e.val)) ∧
    (ready s (.eng e) = true → storesAccepted s e.val = true → memVerbs k = false → engineMoves s e = [] →
      exec (.fenceRel (.eng e) true) s = .next (s.begin.setCore (.eng e) (advanced k))) ∧
    (ready s (.eng e) = true → (∀ w ∈ s.pend, w.slot ≠ none → k.sync ≤ w.seq) →
      exec (.fenceAcq (.eng e) true) s = .next (s.begin.setCore (.eng e) (advanced k))) ∧
    (s.sluice[n]? = some p → postReady s p = true → (∀ q ∈ s.sluice.take n, ¬ (q.src = p.src ∧ q.remote = p.remote)) →
      let g := handleKey p.here
      handleOkUnit p.here false = true → keyIsolated s g = false → bitsOf p.here 11 10 ≠ 1 → s.waiters g = [] →
      completes (.sluiceRelease n) s fun t =>
        t.sluice = s.sluice.eraseIdx n ∧
        gateValue (gateWord t g) = max (-(2 ^ 31)) (min (2 ^ 31 - 1) (gateValue (gateWord s g) + p.amt.toInt)) ∧
        bitsOf (gateWord t g) 63 48 = p.src % 2 ^ 16) ∧
    (completes (.gateDebugCapture src) s fun t =>
      (∀ i, i < 8 → t.reg .CST_GDBG i = (debugView s.begin (s.reg .CST_GDBG_SEL 0)).getD i 0) ∧
      t.out = [.readData src.toNat ((debugView s.begin (s.reg .CST_GDBG_SEL 0)).getD 0 0)]) ∧
    (taken s src .CST_GDBG_SEL 0 v = true → completes (.gateDebugSelect src v) s fun t =>
      t.reg .CST_GDBG_SEL 0 = storedValue s .CST_GDBG_SEL 0 v)

/-! ## Tasks, movers and arbitration -/

/-- When nothing is under way: a TASK_PUSH that takes effect, of the address of a well-formed descriptor in the Cistern onto
a queue that is not full, copies the descriptor as the owner's die sees it into the slot at TAIL and advances TAIL and COUNT;
onto a full queue, or of an address or descriptor that breaks a check of R186, it leaves the queue as it was and appends
FE-TQ-REFUSED. A TASK_TAKE by the engine itself, with a valid running slot and not ending a drain, copies the task at HEAD
of its own queue into the running slot and frees its slot, or with an empty queue the newest task of the first eligible
victim in the order of R189, and the word read names the victim, the kind and FOUND; with nothing to take it reads 0. -/
def Obligations.TaskQueues : Prop :=
  ∀ (s : State) (src : BitVec 16) (e : Fin 256) (v : Word), still s = true →
    let n := s.fld FE_TQ.COUNT e.val
    let tail := s.fld FE_TQ.TAIL e.val
    let head := s.fld FE_TQ.HEAD e.val
    let run := s.fld FE_TQ_RUN.RUN e.val
    let a := bitsOf v 39 0
    let view := s.begin.view (dieOf e.val)
    let ok := taskPlace a = true ∧ taskBad (view.words a 16) = false
    (taken s src .FE_TQ_PUSH e.val v = true →
      (n < 64 → ok → completes (.taskPush src e v) s fun t =>
        (∀ i, i < 16 → t.word (slotOf e.val tail + 8 * i) = view.word (a + 8 * i)) ∧
        t.fld FE_TQ.TAIL e.val = (tail + 1) % 64 ∧ t.fld FE_TQ.COUNT e.val = n + 1) ∧
      (64 ≤ n ∨ ¬ ok → completes (.taskPush src e v) s fun t =>
        t.reg .FE_TQ e.val = s.reg .FE_TQ e.val ∧ told s t (engineQ s e.val))) ∧
    (src.toNat = e.val → ((s.core (.eng e)).state ≠ 1 ∨ (s.core (.eng e)).runtime = false) → taskPlace run = true →
      (0 < n → completes (.taskTake src e) s fun t =>
        (∀ i, i < 16 → t.word (run + 8 * i) = view.word (slotOf e.val head + 8 * i)) ∧
        t.fld FE_TQ.HEAD e.val = (head + 1) % 64 ∧ t.fld FE_TQ.COUNT e.val = n - 1 ∧
        t.out = [.readData e.val (w64 (e.val + 2 ^ 10))]) ∧
      (n = 0 → ∀ x, (victims e.val).find? (fun x => (tailFlags s x.1).testBit x.2.2) = some x →
        completes (.taskTake src e) s fun t =>
          let last := (s.fld FE_TQ.TAIL x.1 + 63) % 64
          (∀ i, i < 16 → t.word (run + 8 * i) = view.word (slotOf x.1 last + 8 * i)) ∧
          t.fld FE_TQ.TAIL x.1 = last ∧ t.fld FE_TQ.COUNT x.1 = s.fld FE_TQ.COUNT x.1 - 1 ∧
          t.out = [.readData e.val (w64 (x.1 + x.2.1 * 2 ^ 8 + 2 ^ 10))]) ∧
      (n = 0 → (victims e.val).find? (fun x => (tailFlags s x.1).testBit x.2.2) = none →
        completes (.taskTake src e) s fun t => t.out = [.readData e.val 0] ∧ ∀ i, t.reg .FE_TQ i = s.reg .FE_TQ i))

/-- When nothing is under way: a MOVER_RING_POST that takes effect completes and leaves TAIL as written and HEAD as it was.
MOVER_TAKE_DESCRIPTOR at an ENABLED ring mover with room completes: it takes the descriptor at HEAD of its ring and advances
HEAD, or, when its turn has come, the first of its handoff queue; a descriptor that passes the checks of R168 is in progress
as the newest, one that fails leaves the descriptors in progress as they were, is told to its event queue, and a ring entry's
CODE is 3 with the reason. MOVER_DESCRIPTOR_COMPLETE of the oldest descriptor in progress, not a send, no store to its source
still to be performed, no part of it outbound, and not of a running decryption, completes: it writes its bytes and outside the
runtime area no others, takes it out of progress, and leaves the CODE of a ring entry at 1, or 2 if it wrote poison. -/
def Obligations.MoversWork : Prop :=
  ∀ (s : State) (src : BitVec 16) (m : Fin 12) (v : Word) (mv : MoverId) (d : MvDesc) (rest : List MvDesc), still s = true →
    let k := s.mover (.ring m)
    let head := s.fld CST_MVR_PTR.HEAD m.val
    let tail := s.fld CST_MVR_PTR.TAIL m.val
    let turns := head ≠ tail ∧ (k.handoff = [] ∨ k.fromHand = false)
    let first : MvDesc := ⟨.ring head, s.words (ringEntry m.val head) 24⟩
    let refused := fun (d : MvDesc) => descReason s (.ring m) true d
    (taken s src .CST_MVR_PTR m.val v = true → completes (.moverRingPost src m v) s fun t =>
      t.fld CST_MVR_PTR.TAIL m.val = bitsOf v 6 0 ∧ t.fld CST_MVR_PTR.HEAD m.val = head) ∧
    (s.fld CST_MVR_PTR.STATE m.val = 0 → k.prog.length < moverDepth (.ring m) →
      (turns → completes (.moverTakeDescriptor (.ring m)) s fun t =>
        t.fld CST_MVR_PTR.HEAD m.val = (head + 1) % 128 ∧ (t.mover (.ring m)).handoff = k.handoff ∧
        (refused first = none → (t.mover (.ring m)).prog = k.prog ++ [first]) ∧
        ∀ r, refused first = some r → (t.mover (.ring m)).prog = k.prog ∧ told s t first.evq ∧
          bitsOf (t.word (ringEntry m.val head + 32)) 15 0 = 3 + r % 256 * 2 ^ 8) ∧
      (¬ turns → k.handoff = d :: rest → completes (.moverTakeDescriptor (.ring m)) s fun t =>
        t.fld CST_MVR_PTR.HEAD m.val = head ∧ (t.mover (.ring m)).handoff = rest ∧
        (refused d = none → (t.mover (.ring m)).prog = k.prog ++ [d]) ∧
        (refused d ≠ none → (t.mover (.ring m)).prog = k.prog ∧ told s t d.evq))) ∧
    ((s.mover mv).prog = d :: rest → sendPort mv = none → sourcePending s d = false →
      s.region d.srcN.base ≠ .outbound → s.region d.dstN.base ≠ .outbound → (s.sec.aes = none ∨ d.ofUnit aesSrc = false) →
      let b := descBulk (s.begin.view (moverPt mv)) d []
      completes (.moverDescriptorComplete mv false []) s fun t =>
        (∀ a, apart s 0x403F000000 0x4040000000 a → t.byte a = (s.begin.write (Bulk.plain b) fun _ => false).byte a) ∧
        (t.mover mv).prog = rest ∧
        ∀ i r, d.origin = .ring i → mv = .ring r → i < 128 →
          bitsOf (t.word (ringEntry r.val i + 32)) 7 0 = if b.final.marked = [] then 1 else 2)

/-- When nothing is under way: a CISTERN_BANK_GRANT of a bank that is not under fallback and has presented requests performs
the oldest one, among equals that of the slot nearest after the last granted: its bytes are in memory and, die gate words
apart, no others have changed; GRANTS has counted it, the bank's quadrant has counted it for its engine, and its slot is the
last granted. An HBM_PSEUDO_CHANNEL_GRANT with an access of a quadrant presented as the oldest takes it and leaves the
others, one older at every fourth grant. A BASIN_SUBBANK_GRANT of the sub-bank of a slot offset, offset bits [9:6], serves a
sibling access that has waited 32 clocks, else the owner, else a sibling access. -/
def Obligations.ArbitersGrant : Prop :=
  ∀ (s : State) (b : Fin 128) (w : PWrite), still s = true →
    (inFallback s b.val = false → pickGrant s b.val = some w → w.bank = b.val →
      completes (.cisternBankGrant b) s fun t =>
        (∀ a, apart s 0x403F200000 0x403F204000 a → t.byte a = (s.begin.write w.bytes fun _ => false).byte a) ∧
        t.fld CST_ARB_STAT.GRANTS b.val = (s.fld CST_ARB_STAT.GRANTS b.val + 1) % 2 ^ 32 ∧
        (w.src < 256 → tget (fun _ => 0) t.perf (65536 * (b.val / 32) + w.src) =
          (tget (fun _ => 0) s.perf (65536 * (b.val / 32) + w.src) + 1) % 2 ^ 24) ∧
        (tget bankDefault t.banks b.val).last = w.slot.getD 0) ∧
    (∀ (st : Fin 2) (pc : Fin 64) (arr : List (BitVec 2)) (r : HbmReq),
      let a := hbmArrive s st.val pc.val (arr.map BitVec.toNat) (tget (fun _ => {}) s.hbmArb (64 * st.val + pc.val))
      let q := hbmPresent a.wait a
      hbmPick q = some r → r.wr = none → completes (.hbmPseudoChannelGrant st pc arr) s fun t =>
        tget (fun _ => {}) t.hbmArb (64 * st.val + pc.val) =
          { q with reqs := (q.reqs.filter fun x => x.slot != r.slot).map fun x =>
                     if q.sub = 3 then { x with age := min 63 (x.age + 1) } else x,
                   last := r.slot, sub := if q.sub = 3 then 0 else q.sub + 1,
                   cool := if q.sub = 3 then [] else q.cool ++ [r.slot] }) ∧
    (∀ (e : Fin 256) (o : Fin 1572864) (owner : Bool) (sibs : List (BitVec 4)),
      let a := tget (fun _ => {}) s.basinArb (16 * e.val + o.val / 64 % 16)
      let own := a.owner + (if owner then 1 else 0)
      let wait := ((sibs.map BitVec.toNat).filter fun k => k != e.val % 16).foldl sibJoin a.sibs
      completes (.basinSubbankGrant e o owner sibs) s fun t =>
        let r := tget (fun _ => {}) t.basinArb (16 * e.val + o.val / 64 % 16)
        let served := fun k => r.sibs = (wait.filter fun x => x.1 != k).map fun x => (x.1, x.2 + 1)
        ((∃ x ∈ wait, 32 ≤ x.2) → r.owner = own ∧ ∃ x ∈ wait, 32 ≤ x.2 ∧ served x.1) ∧
        ((∀ x ∈ wait, x.2 < 32) → 0 < own → r.owner = own - 1 ∧ r.sibs = wait.map fun x => (x.1, x.2 + 1)) ∧
        ((∀ x ∈ wait, x.2 < 32) → own = 0 → wait ≠ [] → r.owner = 0 ∧ ∃ x ∈ wait, served x.1))

/-! ## The Solver Array -/

/-- The signature of a problem is the final z of the mixing steps of R150 with a seed of 0 and i the word w that holds NVAR,
NCON, NSTAGE and PATID; two problems with the same dimensions and different PATID have different signatures. -/
def Obligations.SignatureOfAProblem : Prop :=
  let mix := fun (i : Word) =>
    let z := i * 0x9E3779B97F4A7C15
    let z := (z ^^^ (z >>> 30)) * 0xBF58476D1CE4E5B9
    let z := (z ^^^ (z >>> 27)) * 0x94D049BB133111EB
    z ^^^ (z >>> 31)
  let dims := fun (p : Problem) => (bitsOf (p.w 0) 15 0, bitsOf (p.w 0) 31 16, bitsOf (p.w 0) 39 32)
  (∀ p : Problem, p.sig = mix (w64 (bitsOf (p.w 0) 15 0 ||| bitsOf (p.w 0) 31 16 <<< 16 ||| bitsOf (p.w 0) 39 32 <<< 32 |||
    bitsOf (p.w 0) 63 40 <<< 40))) ∧
  ∀ p q : Problem, dims p = dims q → bitsOf (p.w 0) 63 40 ≠ bitsOf (q.w 0) 63 40 → p.sig ≠ q.sig

/-- A lane's problem ends with a code: no problem or primitive is left, the code is the lane's last and, as no check of
results is enabled for the lane, stands in the header's first byte. -/
def endsWith (s t : State) (l : Fin 64) (p : Problem) (code : Nat) : Prop :=
  (t.lane l.val).prob = none ∧ (t.lane l.val).run = none ∧ t.fld SLV_LANE_STAT.LASTCODE l.val = code ∧
    t.fld SLV_LANE_CNT.DONE l.val = (s.fld SLV_LANE_CNT.DONE l.val + 1) % 2 ^ 32 ∧
    bitsOf (t.word (laneBase l.val + p.res)) 7 0 = code

/-- The lane's results are not checked by the seal unit (R422). -/
def unchecked (s : State) (l : Fin 64) : Prop := (s.reg .DRD_SLV_EN 0).getLsbD l.val = false

/-- On a ready lane: with a problem in progress, sdone accepts code 0 and codes 64 to 255, g[ga] being 0 or naming a block
in the gang memory, and the problem ends with that code; with any other code it raises ILLEGAL: the problem ends with code
FAULT and ECAUSE 1. With no problem in progress, sdone and keep raise ILLEGAL: the lane has no problem to end and is
FAILED. (Where the seal unit does not check the lane's results, its queue is empty, and the problem signals no gate.) -/
def Obligations.SdoneCodes : Prop :=
  ∀ (s : State) (l : Fin 64) (ga gb : BitVec 5), still s = true → ready s (.lane l) = true → unchecked s l →
    (s.lane l.val).fifo = [] →
    let k := s.core (.lane l)
    let code := bitsOf (k.readG gb).v 7 0
    let a := (k.readG ga).v.toNat
    (∀ p, (s.lane l.val).prob = some p → p.res % 8 = 0 → (p.w 12).getLsbD 21 = false →
      ((code = 0 ∨ 64 ≤ code) → (a = 0 ∨ a % 8 = 0 ∧ inGang s l.val a (32 + 8 * p.klen) = true) →
        completes (.sdone l ga gb true) s fun t => endsWith s t l p code ∧ t.core (.lane l) = advanced k) ∧
      (0 < code → code < 64 → completes (.sdone l ga gb true) s fun t =>
        endsWith s t l p 6 ∧ bitsOf (t.word (laneBase l.val + p.res + 48)) 7 0 = 1)) ∧
    ((s.lane l.val).prob = none → ∀ i ∈ [Instr.sdone l ga gb true, .keep l ga true],
      completes i s fun t => t.fld SLV_LANE_STAT.STATE l.val = 3 ∧ (t.lane l.val).prob = none)

/-- When nothing is under way, a SOLVER_DOORBELL that takes effect, at an ENABLED leader with a 128-byte-aligned offset and
room, queues the offset as the newest; otherwise it queues nothing and is reported. On a ready lane: snext with no problem in
progress and an oldest offset whose descriptor passes the checks of R316 and sets no deadline begins that problem, gd holding
its offset and FFLAGS 0, started warm from a slot that fits it, rejected from one that does not; prim of a record that passes
its checks is in progress; keep of a block with a clean merit counts the offer and, if the merit is a number less than the kept
one, begins to copy the block, which is the kept one, in the other half, after the next command (the model's moment for the end
of the copy, log 46: shown by ATTEST_DONE with no report under way, which does nothing else). -/
def Obligations.ProblemsBeginAndOffer : Prop :=
  ∀ (s : State) (l : Fin 64) (src : BitVec 16) (v : Word) (gd ga : BitVec 5), still s = true →
    let k := s.core (.lane l)
    let x := s.lane l.val
    let off := bitsOf v 21 0
    let a := (k.readG ga).v.toNat
    (taken s src .SLV_DOOR l.val v = true → completes (.solverDoorbell src l v) s fun t =>
      if isMember s l.val = false ∧ s.fld SLV_LANE_STAT.STATE l.val = 0 ∧ x.fifo.length < 8 ∧ off % 128 = 0 then
        (t.lane l.val).fifo = x.fifo ++ [off] ∧ t.fld SLV_LANE_STAT.FIFO l.val = x.fifo.length + 1
      else t.lane l.val = x ∧ told s t (s.fld SLV_CTL.EVQ 0)) ∧
    (ready s (.lane l) = true → x.prob = none → ∀ o r, x.fifo = o :: r →
      let p := postedProblem s.begin l.val o
      let w1 := s.word (slotEntry l.val p.wslot + 8)
      problemBad s l.val p = none → (p.w 1).getLsbD 32 = false →
      completes (.snext l gd true) s fun t =>
        t.core (.lane l) = ((advanced k).setSpecial 0x009 0).writeG gd ⟨w64 o, false⟩ ∧ (t.lane l.val).fifo = r ∧
        ∃ q, (t.lane l.val).prob = some q ∧ q.desc = o ∧ q.words = p.words ∧
          (p.wuse = false ∨ w1.getLsbD 63 = false → q = p) ∧
          (p.wuse = true → w1.getLsbD 63 = true →
            (s.word (slotEntry l.val p.wslot) = p.sig ∧ bitsOf w1 45 32 = p.klen → q = { p with warm := true, kept := some 0, seed := true }) ∧
            (s.word (slotEntry l.val p.wslot) ≠ p.sig ∨ bitsOf w1 45 32 ≠ p.klen → q = { p with rejected := true }))) ∧
    (ready s (.lane l) = true → a % 8 = 0 → inGang s l.val a 64 = true →
      primTrap s (primCtx s l.val (s.words a 8)) = none →
      completes (.prim l gd ga true) s fun t =>
        (t.lane l.val).run = some ⟨gd, a, s.words a 8, s.mark (a + 56), k.pc⟩ ∧ t.core (.lane l) = advanced k) ∧
    (ready s (.lane l) = true → ∀ p, x.prob = some p → s.fld SLV_LANE_STAT.STATE l.val = 0 → a % 8 = 0 →
      inGang s l.val a (32 + 8 * p.klen) = true → s.poisoned a 8 = false →
      let half := (p.kept.map fun h => 1 - h).getD 0
      let m := fDecode .f64 (s.load a 8)
      let q := { p with offers := p.offers + 1, clauses := p.clauses + 1 }
      completes (.keep l ga true) s fun t => t.core (.lane l) = advanced k ∧ (∀ b, t.byte b = s.byte b) ∧
        if m.isNaN = false ∧ fLt m (fDecode .f64 p.merit.toNat) = true then
          (t.lane l.val).prob = some { p with offers := p.offers + 1 } ∧ (t.lane l.val).keep.isSome = true ∧
          (s.bit SEC_ATT.BUSY 0 = false → completes .attestDone t fun u => (u.lane l.val).keep = none ∧
            (u.lane l.val).prob = some { q with kept := some half, seed := false, merit := s.word a, retained := p.retained + 1 } ∧
            ∀ i, i < 32 + 8 * p.klen → u.byte (laneBase l.val + p.kbuf + half * p.half + i) = s.byte (a + i))
        else (t.lane l.val).prob = some q ∧ (t.lane l.val).keep = none)

/-- The completion commands of the primitives with their operations (R326). -/
def primEnds (l : Fin 64) (bad : Bool) : List (Instr × Nat) :=
  [(.primChol l bad, 0x01), (.primLdlt l bad, 0x02), (.primBtri l bad, 0x03), (.primTrsv l bad, 0x04), (.primBtsol l bad, 0x05),
   (.primSchur l bad, 0x06), (.primGemm l bad, 0x07), (.primAxpby l bad, 0x08), (.primElem l bad, 0x09), (.primDot l bad, 0x0A),
   (.primNrmi l bad, 0x0B), (.primRatio l bad, 0x0C)]

/-- When nothing is under way, the completion command of the primitive that a lane runs, its record in the gang memory, no
deadline or budget being reached and no residue mismatch injected, completes. If no pivot rule stops it, memory holds what the
primitive computes, gd holds REGULARIZED and the pivots it regularised, its flags are in FFLAGS, the clause counts in the problem
and no primitive runs; if a pivot is singular or a result overflows, the problem, whose results are not checked, which signals
no gate and whose lane has nothing queued, has ended with code SINGULAR or OVERFLOW. -/
def Obligations.PrimitivesComplete : Prop :=
  ∀ (s : State) (l : Fin 64) (r : PrimRun), still s = true → (s.lane l.val).run = some r → (s.lane l.val).keep = none → inGang s l.val r.addr 64 = true →
    preempted s l.val = none →
    ∀ c ∈ primEnds l false, bitsOf (r.words.getD 0 0) 7 0 = c.2 →
      let k := s.core (.lane l)
      let o := runPrim (primCtx s.begin l.val r.words) r.addr r.psn { s := s.begin }
      (o.stop = none → completes c.1 s fun t =>
        (∀ a, t.byte a = o.s.byte a) ∧ (t.lane l.val).run = none ∧
        t.core (.lane l) = (k.setSpecial 0x009 (k.special 0x009 ||| w64 o.fl.toNat)).writeG r.gd
          ⟨w64 ((if o.reg = 0 then 0 else 1) + min 65535 o.reg * 2 ^ 16), false⟩ ∧
        (t.lane l.val).prob = (s.lane l.val).prob.map fun q => { q with pivots := q.pivots + o.reg, clauses := q.clauses + 1 }) ∧
      (∀ p, (s.lane l.val).prob = some p → unchecked s l → (s.lane l.val).fifo = [] → (p.w 12).getLsbD 21 = false →
        p.res % 8 = 0 →
        (o.stop = some .singular → completes c.1 s fun t => endsWith s t l p 2) ∧
        (o.stop = some .overflow → completes c.1 s fun t => endsWith s t l p 3))

/-- When nothing is under way, on a lane with nothing queued and no primitive or keep in progress, whose results are not
checked and whose problem signals no gate: once the problem's deadline is reached and strict mode does not bar it, SOLVER_DEADLINE ends the problem with code DEADLINE;
once its clause budget is reached, the deadline not being so, SOLVER_BUDGET_REACHED ends it with code DEADLINE and BYCOUNT.
The lane's registers are zero and it continues at ENTRY. Before that, neither command changes anything. -/
def Obligations.SolverPreemption : Prop :=
  ∀ (s : State) (l : Fin 64) (p : Problem), still s = true → (s.lane l.val).prob = some p → (s.lane l.val).run = none →
    (s.lane l.val).keep = none → (s.lane l.val).fifo = [] → unchecked s l → (p.w 12).getLsbD 21 = false → p.res % 8 = 0 →
    let late := (p.w 1).getLsbD 32 = true ∧ s.bit DET_STAT.STRICTNOW 0 = false ∧
      (s.stamp + 2 ^ 32 - bitsOf (p.w 1) 31 0) % 2 ^ 32 < 2 ^ 31
    let spent := bitsOf (p.w 2) 31 0 ≠ 0 ∧ bitsOf (p.w 2) 31 0 ≤ p.clauses
    let stopped := fun (t : State) => endsWith s t l p 1 ∧
      t.core (.lane l) = { pc := laneBase l.val + s.fld SLV_LANE_CTL.ENTRY l.val / 4 * 4 }
    (late → completes (.solverDeadline l) s stopped) ∧
    (¬ late → exec (.solverDeadline l) s = .next s.begin) ∧
    (¬ late → spent → completes (.solverBudgetReached l) s fun t => stopped t ∧
      (t.word (laneBase l.val + p.res)).getLsbD 12 = true) ∧
    (¬ late → ¬ spent → exec (.solverBudgetReached l) s = .next s.begin)

/-! ## Functional safety -/

/-- When nothing is under way, each of these commands leaves its class with one more detection and takes the class's
reaction: DETECTION of any class and unit; the Ditch Rider's lock-step mismatch (class 0); the expiry of its running
firmware watchdog, which stops (1); a window watchdog whose window has closed, which then waits (2); the end of a golden
window without PASS (17); SAFE_FORCE that takes effect, for the writer (24); a safe line read back wrong (22); a target's
interval without a self-test pass (15); dflag on the ready Ditch Rider, for its class and unit. A count alone changes nothing
else; reaction 1 adds an inbox record where there is room; reaction 2 isolates an engine or a lane; reaction 3, and reaction 2
for a unit that no row of R432 covers, is safe state with the first cause kept. -/
def Obligations.DetectionsReact : Prop :=
  ∀ (s : State), still s = true →
    (∀ (k : Fin 26) (u : BitVec 16), completes (.detection k u) s fun t => reacted s t k.val u.toNat) ∧
    completes .drdLockstepMismatch s (fun t => reacted s t 0 0xA000) ∧
    (∀ x : SafeLine, completes (.safeLineReadbackFault x) s fun t => reacted s t 22 0xA000) ∧
    (s.drd.fwRun = true → completes .fwWatchdogExpire s fun t => reacted s t 1 0xA000 ∧ t.drd.fwRun = false) ∧
    (∀ src : BitVec 16, taken s src .DRD_SAFE 0 2 = true → completes (.safeForce src) s fun t => reacted s t 24 src.toNat) ∧
    (∀ w : Fin 64, s.bit DRD_WD0.EN w.val = true → s.bit DRD_WD1.RUN w.val = true →
      s.fld DRD_WD0.MAX w.val ≤ wdSince s w.val →
      completes (.watchdogMiss w) s fun t => reacted s t 2 0xA000 ∧ t.bit DRD_WD1.RUN w.val = false) ∧
    (s.reached (goldenEnd s % 2 ^ 32) = true → s.bit DRD_GOLD_PASS.PASS 0 = false →
      completes .goldenWindowEnd s fun t => reacted s t 17 0xA000) ∧
    (∀ u : BitVec 16, (sliceCount u.toNat).isSome = true →
      (s.selfTest u.toNat).since + s.fld DRD_ST_CTL.STDL 0 * 1000000 ≤ s.totalNs →
      completes (.selftestStarved u) s fun t => reacted s t 15 u.toNat ∧
        (t.selfTest u.toNat).since = (s.selfTest u.toNat).since + s.fld DRD_ST_CTL.STDL 0 * 1000000) ∧
    (∀ ga gb, ready s .drd = true → bitsOf ((s.core .drd).readG ga).v 7 0 < 26 →
      completes (.dflag ga gb true) s fun t =>
        reacted s t (bitsOf ((s.core .drd).readG ga).v 7 0) (bitsOf ((s.core .drd).readG gb).v 15 0) ∧
        t.core .drd = advanced (s.core .drd))

/-- On the ready Ditch Rider: dnext with a waiting inbox record takes the oldest: gd holds its address and one record fewer
waits; dverd of a ticket that is not pending counts it in STALEV and changes no stream, of a pending one ends its ticket;
dpet restarts the firmware watchdog; each passes its word. DRD_ARM that takes effect, ARM having been 0, leaves ARM 1 and the
firmware watchdog running. DRD_ISO_WRITE by the Ditch Rider that takes effect isolates the engine or lane it names.
SAFE_HEARTBEAT toggles SAFE_HB while OKNOW is 1, and otherwise changes nothing. -/
def Obligations.DitchRiderInstructions : Prop :=
  ∀ (s : State) (ga gb : BitVec 5) (src : BitVec 16) (v : Word), still s = true →
    let k := s.core .drd
    let ticket := bitsOf (k.readG ga).v 15 0
    (ready s .drd = true →
      (s.drd.rd < s.drd.wr → completes (.dnext ga true) s fun t =>
        t.core .drd = (advanced k).writeG ga ⟨w64 (0x3F000 + 16 * (s.drd.rd % 256)), false⟩ ∧
        t.drd = { s.drd with rd := s.drd.rd + 1 } ∧
        t.fld DRD_STAT.WAITING 0 = min 255 (s.drd.wr - s.drd.rd - 1)) ∧
      ((∀ i, i < 64 → (s.sealSt i).ticket ≠ some ticket) → completes (.dverd ga gb true) s fun t =>
        t.fld DRD_STAT.STALEV 0 = min DRD_STAT.STALEV.top (s.fld DRD_STAT.STALEV 0 + 1) ∧ t.drd = s.drd ∧
        t.core .drd = advanced k) ∧
      (∀ i, i < 64 → (s.sealSt i).ticket = some ticket → (∀ j, j < i → (s.sealSt j).ticket ≠ some ticket) →
        completes (.dverd ga gb true) s fun t =>
          (t.sealSt i).ticket = none ∧ (∀ j, j < 64 → j ≠ i → t.sealSt j = s.sealSt j) ∧ t.core .drd = advanced k) ∧
      completes (.dpet true) s fun t => t.drd = { s.drd with fwRun := true } ∧ t.core .drd = advanced k) ∧
    (taken s src .DRD_CTL 0 (kept s .DRD_CTL 0 ||| 1) = true → s.bit DRD_CTL.ARM 0 = false →
      completes (.drdArm src) s fun t => t.bit DRD_CTL.ARM 0 = true ∧ t.drd.fwRun = true) ∧
    (src = 0xA000 → taken s src .DRD_ISO 0 v = true → coreUnit (bitsOf v 15 0) →
      completes (.drdIsoWrite src v) s fun t => isolated t (bitsOf v 15 0)) ∧
    completes .safeHeartbeat s fun t =>
      t.drd.hb = (if s.bit DRD_SAFE.OKNOW 0 then ! s.drd.hb else s.drd.hb) ∧ ∀ r i, t.reg r i = s.reg r i

/-- When nothing is under way: WATCHDOG_CHECKIN at an enabled watchdog that waits, or within its window, starts a window at
the present stamp for its source; before t + MIN it is a detection of class 2 after which the watchdog waits; at a disabled
one it does nothing. stage on a ready engine of a clean number below 64 checks in the same way in the engine's name.
DETECTION_LEAK takes 1 from COUNT where LEAK is not 0. STARTUP_INJECTION, not run since the start and with every row passed,
records the rows and that all have run. -/
def Obligations.WatchdogsAndInjection : Prop :=
  ∀ (s : State) (w : Fin 64) (u : BitVec 16) (k : Fin 26) (e : Fin 256) (ra : BitVec 5), still s = true →
    let opened := fun (t : State) (who : Nat) => t.bit DRD_WD1.RUN w.val = true ∧
      t.fld DRD_WD1.LAST w.val = s.stamp ∧ t.fld DRD_WD1.SRC w.val = who
    let run := s.bit DRD_WD1.RUN w.val
    let since := wdSince s w.val
    let inside := run = false ∨ s.fld DRD_WD0.MIN w.val ≤ since ∧ since ≤ s.fld DRD_WD0.MAX w.val
    (s.bit DRD_WD0.EN w.val = true →
      (inside → completes (.watchdogCheckin w u) s fun t => opened t u.toNat) ∧
      (run = true → since < s.fld DRD_WD0.MIN w.val → since ≤ s.fld DRD_WD0.MAX w.val →
        completes (.watchdogCheckin w u) s fun t => t.bit DRD_WD1.RUN w.val = false ∧ reacted s t 2 0xA000) ∧
      (inside → ready s (.eng e) = true → ((s.core (.eng e)).readG ra).p = false →
        ((s.core (.eng e)).readG ra).v = w64 w.val →
        completes (.stage (.eng e) ra true) s fun t => opened t e.val ∧ t.core (.eng e) = advanced (s.core (.eng e)))) ∧
    (s.bit DRD_WD0.EN w.val = false → exec (.watchdogCheckin w u) s = .next s.begin) ∧
    completes (.detectionLeak k) s (fun t => t.fld DRD_REACT.COUNT k.val =
      s.fld DRD_REACT.COUNT k.val - if s.fld DRD_REACT.LEAK k.val = 0 then 0 else 1) ∧
    (s.boot.injDone = false → completes (.startupInjection 0x3FF) s fun t =>
      t.fld DRD_INJ.ROWS 0 = 0x3FF ∧ t.bit DRD_INJ.ALL 0 = true ∧ t.bit SEC_BOOT.READY 0 = s.boot.loaded)

/-- When nothing is under way, for a self-test target: SELFTEST_IDLE_DECLARE that takes effect opens an idle window of the
written length in µs, or with length 0 ends it and any slice; SELFTEST_SLICE_START inside an idle window that lasts more than
20 µs, with no safety-task window open or soon to begin, starts a slice; SELFTEST_SLICE_DONE of a passing slice counts it,
the last one completing the pass, of a failing one is a detection of class 14; SELFTEST_SLICE_ABORT of a slice whose idle
window is over ends it uncounted. GOLDEN_URGENT at the latest start without PASS sets URGENT; GOLDEN_WINDOW_END after
PASS begins the next window with PASS and URGENT 0. BANK_FALLBACK_COPY_DONE makes the fallback active, every byte of the bank
reading as before from its reserved, 8 MiB-aligned HBM region. -/
def Obligations.SelfTestsAndGolden : Prop :=
  ∀ (s : State) (src u : BitVec 16) (v : Word) (n : Nat), still s = true →
    let x := s.selfTest u.toNat
    (sliceCount u.toNat = some n →
      (taken s src .DRD_ST_IDLE 0 v = true → bitsOf v 15 0 = u.toNat →
        completes (.selftestIdleDeclare src v) s fun t => t.selfTest u.toNat =
          if bitsOf v 31 16 = 0 then { x with idleEnd := none, running := false }
          else { x with idleEnd := some (s.totalNs + 1000 * bitsOf v 31 16) }) ∧
      (∀ z, x.idleEnd = some z → s.totalNs + 20000 < z → x.running = false → inWindowNow s = false → windowSoon s = false →
        completes (.selftestSliceStart u) s fun t => t.selfTest u.toNat = { x with running := true }) ∧
      (x.running = true →
        completes (.selftestSliceDone u true) s (fun t => t.selfTest u.toNat =
          if x.passed + 1 = n then { x with running := false, passed := 0, since := s.totalNs }
          else { x with running := false, passed := x.passed + 1 }) ∧
        completes (.selftestSliceDone u false) s (fun t => reacted s t 14 u.toNat) ∧
        (∀ z, x.idleEnd = some z → z ≤ s.totalNs → completes (.selftestSliceAbort u) s fun t =>
          t.selfTest u.toNat = { x with running := false }))) ∧
    (s.bit DRD_GOLD_PASS.PASS 0 = false →
      s.reached ((goldenEnd s - s.fld DRD_GOLD_BUD.BUD 0 * s.fld DRD_GOLD_GWIN.GWIN 0 / 1000) % 2 ^ 32) = true →
      completes .goldenUrgent s fun t => t.bit DRD_GOLD_URGENT.URGENT 0 = true) ∧
    (s.bit DRD_GOLD_PASS.PASS 0 = true → s.reached (goldenEnd s % 2 ^ 32) = true →
      completes .goldenWindowEnd s fun t => t.drd.golden = s.drd.golden + 1 ∧ t.bit DRD_GOLD_PASS.PASS 0 = false ∧
        t.bit DRD_GOLD_URGENT.URGENT 0 = false) ∧
    (s.fld CST_BANKFB.STATE 0 = 1 → s.fld CST_BANKFB.BASE 0 % 2 ^ 23 = 0 → s.fld CST_BANKFB.BASE 0 < 0x4000000000 →
      completes .bankFallbackCopyDone s fun t => t.fld CST_BANKFB.STATE 0 = 2 ∧
        (∀ a, inBank (s.fld CST_BANKFB.BANK 0) a = true → t.byte a = s.byte a ∧
          t.home a = fallbackAt (s.fld CST_BANKFB.BASE 0) a) ∧
        ∀ a, inBank (s.fld CST_BANKFB.BANK 0) a = false →
          (a < s.fld CST_BANKFB.BASE 0 ∨ s.fld CST_BANKFB.BASE 0 + 2 ^ 23 ≤ a) → t.byte a = s.byte a)

/-- When nothing is under way, for the Cistern or the HBM pass: SCRUB_GO that takes effect over a non-empty 128-byte-aligned
range of the populated memory starts a pass at BASE with its summary zero, over another leaves STATUS 3; SCRUB_CODE_WORD of a
running pass (the Cistern's not while a bank is copied) that has the cycle visits the word at PROG and moves PROG past it,
counting one that carries a mark in PSN, and after the last leaves BUSY 0 and STATUS 1; without the cycle it changes nothing; SCRUB_ABORT of a running pass
leaves BUSY 0, STATUS 2 and PROG as it was; SCRUB_RESUME after that continues. No byte of memory changes but by an event.
ECC_BUCKET_LEAK takes 1 from LEVEL where LEAK is not 0. -/
def Obligations.ScrubPasses : Prop :=
  ∀ (s : State) (src : BitVec 16) (h : ScrubId), still s = true →
    let r := scrubRegs h
    let reg := r.busy.reg
    let ok := s.fld r.base 0 % 128 = 0 ∧ s.fld r.len 0 % 128 = 0 ∧ s.fld r.len 0 ≠ 0 ∧
      s.within (scrubRegion h) (s.fld r.base 0) (s.fld r.len 0) = true
    let running := fun (t : State) => t.bit r.busy 0 = true ∧ t.fld r.status 0 = 0
    let last := s.fld r.base 0 + s.fld r.len 0 ≤ s.fld r.prog 0 + codeSize (scrubRegion h)
    (taken s src reg 0 (kept s reg 0 ||| 1) = true → completes (.scrubGo src h) s fun t =>
      if ok then running t ∧ t.fld r.prog 0 = s.fld r.base 0 ∧ t.fld r.corr 0 = 0 ∧ t.fld r.uncorr 0 = 0 ∧ t.fld r.psn 0 = 0
      else t.fld r.status 0 = 3 ∧ t.bit r.busy 0 = s.bit r.busy 0) ∧
    (taken s src reg 0 (kept s reg 0 ||| 3) = true → completes (.scrubResume src h) s fun t =>
      running t ∧ t.fld r.prog 0 = s.fld r.prog 0 ∧ t.fld r.corr 0 = s.fld r.corr 0) ∧
    (s.bit r.busy 0 = true →
      (taken s src reg 0 (kept s reg 0 ||| 4) = true → completes (.scrubAbort src h) s fun t =>
        t.bit r.busy 0 = false ∧ t.fld r.status 0 = 2 ∧ t.fld r.prog 0 = s.fld r.prog 0) ∧
      (scrubTurn s h (s.fld r.prog 0) = false → exec (.scrubCodeWord h) s = .next s.begin) ∧
      (¬ (h = .cistern ∧ s.fld CST_BANKFB.STATE 0 = 1) → scrubTurn s h (s.fld r.prog 0) = true → s.fld r.prog 0 + codeSize (scrubRegion h) < 2 ^ 40 →
        completes (.scrubCodeWord h) s fun t =>
          t.fld r.prog 0 = s.fld r.prog 0 + codeSize (scrubRegion h) ∧
          (∀ a, apart s 0x403F210000 0x403F290000 a → t.byte a = s.byte a) ∧
          t.fld r.psn 0 = min r.psn.top (s.fld r.psn 0 + if s.poisoned (s.fld r.prog 0) (codeSize (scrubRegion h)) then 1 else 0) ∧
          (last → t.bit r.busy 0 = false ∧ t.fld r.status 0 = 1) ∧ (¬ last → t.bit r.busy 0 = true))) ∧
    (∀ q : Fin 4, completes (.eccBucketLeak (.cistern q)) s fun t => t.fld CST_ECC_BKT.LEVEL q.val =
      s.fld CST_ECC_BKT.LEVEL q.val - if s.fld CST_ECC_BKT.LEAK q.val = 0 then 0 else 1) ∧
    (∀ k : Fin 2, completes (.eccBucketLeak (.hbm k)) s fun t => t.fld HBM_ECC_BKT.LEVEL k.val =
      s.fld HBM_ECC_BKT.LEVEL k.val - if s.fld HBM_ECC_BKT.LEAK k.val = 0 then 0 else 1)

/-! ## CAN -/

/-- No guarded stream judges the frames of a mailbox, or of a servo slot (R415). -/
def unguarded (s : State) (kind unit mbx : Nat) : Prop := streamOf s kind unit mbx = none

/-- When nothing is under way: a valid frame that a controller hears goes to its lowest matching mailbox, which holds header,
zero-filled payload, the stamp of the frame's SOF and NEW, or, where LOCK is 1, to the mailbox's shadow buffer; with no match
NOMATCH counts it, and REC falls by 1 except in MODE 2, where it has not passed 127. CAN_MBX_UNLOCK moves a shadow frame into the mailbox. Recovery begins at a bus-off
controller by RECOVER and ends error active with zero counters. A bus fault is recorded, faults 1-3 cutting the controller
off until CLR after the condition is gone. Termination measurements are requested, classified and reported; swapped lines
are detected. CAN_TXTS_POP reads the oldest stamp and removes it, or reads 0. -/
def Obligations.CanReception : Prop :=
  ∀ (s : State) (c : Fin 8) (n : Fin 128) (src : BitVec 16) (f : CanFrame) (ago : Nat), still s = true →
    let i := mbxAt c.val n.val
    let x := s.canSt c.val
    let holds := fun (t : State) (id : Nat) (data : List Byte) (stamp : Nat) =>
      t.reg .CB_MBX_RXID i = w64 id ∧ t.bit CB_MBX_STAT.NEW i = true ∧ t.fld CB_MBX_STAT.STAMP i = stamp ∧
      ∀ w, w < 8 → t.reg .CB_MBX_DATA (8 * i + w) = w64 (leNat ((data.drop (8 * w)).take 8))
    let sof := (s.stamp + 2 ^ 32 - ago % 2 ^ 32) % 2 ^ 32
    let id := (frameWord f).toNat
    (f.wellFormed = true → canHears s c.val = true → (s.bit CB_CTL.FDEN c.val = true ∨ f.fdf = false) →
      ((upFrom 0 128).find? (rxMatch s c.val (frameWord f)) = some n.val →
        completes (.canFrameReceive c f ago) s fun t =>
          (s.bit CB_MBX_CMD.LOCK i = false → holds t id f.data sof) ∧
          (s.bit CB_MBX_CMD.LOCK i = true → (t.mbxSt c.val n.val).shadow = some (id, f.data, sof) ∧
            t.bit CB_MBX_STAT.SHADOW i = true ∧ t.reg .CB_MBX_RXID i = s.reg .CB_MBX_RXID i) ∧
          (t.arrivalsOf 1 c.val n.val).head? = some ⟨sof, f.data, s.arrNum⟩) ∧
      ((∀ m, m < 128 → rxMatch s c.val (frameWord f) m = false) → completes (.canFrameReceive c f ago) s fun t =>
        t.fld CB_CNT.NOMATCH c.val = min CB_CNT.NOMATCH.top (s.fld CB_CNT.NOMATCH c.val + 1) ∧
        (s.fld CB_CTL.MODE c.val ≠ 2 → x.recHigh = false → t.fld CB_STAT.REC c.val = s.fld CB_STAT.REC c.val - 1))) ∧
    (∀ fid data stamp, (s.mbxSt c.val n.val).shadow = some (fid, data, stamp) → s.bit CB_MBX_CMD.LOCK i = true →
      stamp < 2 ^ 32 → taken s src .CB_MBX_CMD i 0 = true → completes (.canMbxUnlock src c n) s fun t =>
        holds t fid data stamp ∧ (t.mbxSt c.val n.val).shadow = none ∧ t.bit CB_MBX_STAT.SHADOW i = false) ∧
    (canEst s c.val = 2 → s.bit CB_CTL.EN c.val = decide (s.fld CB_CTL.STATE c.val = 0) → taken s src .CB_CTL c.val (kept s .CB_CTL c.val ||| bit64 8) = true →
      completes (.canRecover src c) s fun t => t.canSt c.val = { x with recover := true } ∧ canEst t c.val = 2) ∧
    (canEst s c.val = 2 → x.recover = true → completes (.canBusOn c) s fun t =>
      canEst t c.val = 0 ∧ t.fld CB_STAT.TEC c.val = 0 ∧ t.fld CB_STAT.REC c.val = 0 ∧ (t.canSt c.val).recover = false ∧
        told s t (s.fld CB_CTL.EVQ c.val)) ∧
    (∀ k : BitVec 4, 1 ≤ k.toNat → k.toNat ≤ 6 → completes (.canBusFault c k) s fun t =>
      t.fld CB_PHY.FAULT c.val = k.toNat ∧
        (k.toNat ≤ 3 → canEst t c.val = 3 ∧ (t.canSt c.val).wire = none ∧ (t.canSt c.val).cond = true) ∧
        (3 < k.toNat → canEst t c.val = canEst s c.val)) ∧
    (∀ gone, canEst s c.val = 3 → taken s src .CB_PHY c.val (kept s .CB_PHY c.val ||| 4) = true →
      completes (.canPhyClr src c gone) s fun t =>
        if gone = true ∨ x.cond = false then canEst t c.val = 0 ∧ t.fld CB_STAT.TEC c.val = 0 ∧ t.fld CB_STAT.REC c.val = 0
        else canEst t c.val = 3) ∧
    (taken s src .CB_PHY c.val (kept s .CB_PHY c.val ||| 2) = true → completes (.canTermMeasure src c) s fun t =>
      t.bit CB_PHY.MBUSY c.val = true) ∧
    (s.fld CB_PHY.MPER c.val ≠ 0 → completes (.canTermMeasurePeriodic c) s fun t => t.bit CB_PHY.MBUSY c.val = true) ∧
    (s.bit CB_PHY.MBUSY c.val = true → ∀ ohms, completes (.canTermMeasureDone c ohms) s fun t =>
      t.fld CB_PHY.RTERM c.val = (if 2000 < ohms then 0xFFFF else ohms) ∧ t.bit CB_PHY.MBUSY c.val = false ∧
      (ohms < 45 → t.fld CB_PHY.TERM c.val = 3 ∧ t.fld CB_PHY.FAULT c.val = 6) ∧
      (45 ≤ ohms → ohms ≤ 75 → t.fld CB_PHY.TERM c.val = 0) ∧
      (90 ≤ ohms → ohms ≤ 150 → t.fld CB_PHY.TERM c.val = 1 ∧ t.fld CB_PHY.FAULT c.val = 4) ∧
      (500 ≤ ohms → t.fld CB_PHY.TERM c.val = 2 ∧ t.fld CB_PHY.FAULT c.val = 4)) ∧
    completes (.canPolarityCheck c true) s (fun t => t.bit CB_PHY.SWAPDET c.val = true ∧ t.fld CB_PHY.FAULT c.val = 5) ∧
    exec (.canPolarityCheck c false) s = .next s.begin ∧
    (x.txts = [] → completes (.canTxtsPop src c) s fun t => t.out = [.readData src.toNat 0]) ∧
    (∀ fid stamp l, x.txts = (fid, stamp) :: l → completes (.canTxtsPop src c) s fun t =>
      t.out = [.readData src.toNat (w64 (fid + 2 ^ 16 + stamp * 2 ^ 32))] ∧ t.canSt c.val = { x with txts := l })

/-- When nothing is under way: QUEUE at an enabled TX mailbox of an ENABLED controller on the bus copies the template into
the launch buffer, PENDING, ready when it has no launch time or a reached one, or while the mailbox's frame is on the wire
into the held request; at another mailbox QREF counts it. A guarded stream without firmware checks seals what passes its
checks. CANCEL takes off a frame that is not on the wire. A reached launch time makes the buffer ready. CAN_FRAME_START puts
the buffer chosen by R377 and R378 on the wire, or detects the poison of one with class 18; CAN_FRAME_END ends it SENT, or SENT_LATE,
with its stamp, TEC less by 1 and a transmit stamp where one is asked for; lost arbitration leaves it to be retried, or ends
it ONESHOT_FAILED; an own error raises TEC by 8 and above 255 leaves the controller bus-off; EXP µs without a start end it
EXPIRED; a dominant timeout counts as a bit error. -/
def Obligations.CanLaunch : Prop :=
  ∀ (s : State) (c : Fin 8) (n : Fin 128) (src : BitVec 16), still s = true →
    let i := mbxAt c.val n.val
    let x := s.canSt c.val
    let m := s.mbxSt c.val n.val
    let lt := if s.bit CB_MBX_CTL.LTEN i then some (s.fld CB_MBX_LT.LT i) else none
    let b := template s c.val n.val lt s.stamp false
    let go := lt.isNone || lt.any fun t => s.reached t
    let ends := fun (t : State) (code reason : Nat) => (t.mbxSt c.val n.val).launch = none ∧
      t.fld CB_MBX_STAT.CODE i = code ∧ t.fld CB_MBX_STAT.REASON i = reason
    let up := s.fld CB_CTL.STATE c.val = 0 ∧ canDown s c.val = false
    let tec := fun (t : State) => t.fld CB_STAT.TEC c.val = min 255 (s.fld CB_STAT.TEC c.val + 8)
    let off := fun (t : State) => 255 < s.fld CB_STAT.TEC c.val + 8 → canDown s c.val = false → canEst t c.val = 2
    (up → taken s src .CB_MBX_CMD i (kept s .CB_MBX_CMD i ||| 1) = true →
      (mbxSends s c.val n.val = false → completes (.canMbxQueue src c n) s fun t =>
        t.fld CB_STAT.QREF c.val = min CB_STAT.QREF.top (s.fld CB_STAT.QREF c.val + 1) ∧ t.mbxSt c.val n.val = m) ∧
      (mbxSends s c.val n.val = true → onWire s c.val n.val = true → completes (.canMbxQueue src c n) s fun t =>
        t.mbxSt c.val n.val = { m with held := some b }) ∧
      (mbxSends s c.val n.val = true → onWire s c.val n.val = false →
        (unguarded s 1 c.val n.val → completes (.canMbxQueue src c n) s fun t =>
          t.mbxSt c.val n.val = { m with launch := some { b with ready := go } } ∧
          t.fld CB_MBX_STAT.CODE i = 1 ∧ t.fld CB_MBX_STAT.REASON i = 0 ∧
          t.fld CB_CNT.SUPER c.val = min CB_CNT.SUPER.top (s.fld CB_CNT.SUPER c.val + if m.launch.isSome then 1 else 0)) ∧
        (∀ g, streamOf s 1 c.val n.val = some g → s.bit DRD_GS0.FW g = false →
          (judge s g b.data s.stamp = 0 ∨ judge s g b.data s.stamp = 7) → completes (.canMbxQueue src c n) s fun t =>
            t.mbxSt c.val n.val = { m with launch := some { b with
              data := sealed s g b.data (judge s g b.data s.stamp), ready := go } } ∧
            t.fld DRD_GS7.LAST g = judge s g b.data s.stamp))) ∧
    (∀ l, m.launch = some l →
      taken s src .CB_MBX_CMD i (kept s .CB_MBX_CMD i ||| 2) = true → completes (.canMbxCancel src c n) s fun t =>
        (t.mbxSt c.val n.val).held = none ∧
        (onWire s c.val n.val = false → ends t 9 0) ∧ (onWire s c.val n.val = true → (t.mbxSt c.val n.val).launch = some l)) ∧
    (∀ l, m.launch = some l → unguarded s 1 c.val n.val →
      (∀ z, l.lt = some z → s.reached z = true → l.ready = false → canDown s c.val = false →
        completes (.canLaunchTimeReached c n) s fun t =>
          t.mbxSt c.val n.val = { m with launch := some { l with ready := true } }) ∧
      (up → x.wire = none → (s.fld CB_CTL.MODE c.val = 0 ∨ s.fld CB_CTL.MODE c.val = 3) → canPick s c.val = some (n.val, l) →
        (l.psn = [] → completes (.canFrameStart c) s fun t =>
          t.canSt c.val = { x with wire := some (n.val, if replaying s then l.lt.getD s.stamp else s.stamp) }) ∧
        (∀ w ∈ l.psn, 8 * w < idLen l.id → completes (.canFrameStart c) s fun t => reacted s t 18 (0x7000 + c.val))) ∧
      (∀ z, x.wire = some (n.val, z) → m.held = none →
        (up → s.fld CB_CTL.MODE c.val ≠ 3 → z < 2 ^ 32 → completes (.canFrameEnd c) s fun t =>
          let late := l.lt.any fun y => decide ((nomClocks (s.reg .CB_NBT c.val) * 25 : Int) < 4 * stampDiff y z)
          ends t (if late then 3 else 2) 0 ∧ (t.canSt c.val).wire = none ∧ t.fld CB_MBX_STAT.STAMP i = z ∧
          t.fld CB_STAT.TEC c.val = s.fld CB_STAT.TEC c.val - 1 ∧
          (replaying s = false → OutMsg.canFrame c.val (frameOf s c.val l) ∈ t.out) ∧
          (s.bit CB_MBX_CTL.TSREQ i = true → x.txts.length < 16 →
            (t.canSt c.val).txts = x.txts ++ [(bitsOf l.id 63 48, z)])) ∧
        (s.fld CB_CTL.STATE c.val = 0 → completes (.canFrameError c .arbitration) s fun t =>
          (t.canSt c.val).wire = none ∧
          if s.bit CB_MBX_CTL.ONESHOT i then ends t 4 1 else t.mbxSt c.val n.val = m) ∧
        (∀ why counted, completes (.canFrameError c (.own why counted)) s fun t => (t.canSt c.val).wire = none ∧
          if counted then tec t ∧ off t else t.fld CB_STAT.TEC c.val = s.fld CB_STAT.TEC c.val) ∧
        completes (.canDominantTimeout c) s fun t => (t.canSt c.val).wire = none ∧ tec t ∧ off t) ∧
      (l.exp ≠ 0 → onWire s c.val n.val = false → s.reached l.deadline = true → canDown s c.val = false →
        completes (.canFrameExpire c n) s fun t => ends t 5 0 ∧
          t.fld CB_CNT.EXPIRED c.val = min CB_CNT.EXPIRED.top (s.fld CB_CNT.EXPIRED c.val + 1))) ∧
    ∀ eight : Bool, canHears s c.val = true → s.fld CB_CTL.MODE c.val ≠ 2 →
      completes (.canFrameError c (.received eight)) s fun t =>
        t.fld CB_STAT.REC c.val = min 127 (s.fld CB_STAT.REC c.val + if eight then 8 else 1)

/-! ## Ethernet and the Timebase -/

/-- A range of Cistern addresses below the runtime's own areas. -/
def plainRange (s : State) (a n : Nat) : Prop := s.within .cistern a n = true ∧ a + n ≤ 0x403F000000

/-- When nothing is under way, at an ENABLED port: with the link up, a received frame that is not valid is counted in DISC; one
for another destination changes nothing; a valid one for the port is latched by its lowest matching servo slot, or without a
slot goes to its receive queue, whose descriptor and buffer it fills, or with no buffer or no hub mover is counted in OVR. A
post of one good descriptor makes it ready, or with a launch time waiting until TXLAT before it, then ready, late after it, or
with the link down ended; a refused one gets CODE 3. A reached launch time makes a queue's or a servo slot's frame ready, late
while another is on the wire. Of the ready frames, those with launch times first and by priority, the first that ends before
every pending launch time goes onto the wire, a poisoned slot's being a detection of class 18; with none that fits nothing
does, and a ready slot is late. The end of transmission ends the descriptor SENT or LATE with its stamp and sends the frame.
The oldest stamp is read and removed. A link change sets LINK; when the link goes down ready servo frames leave their slots. -/
def Obligations.EthernetPorts : Prop :=
  ∀ (s : State) (p : Fin 4) (q : Fin 4) (j : Fin 16) (src : BitVec 16) (v : Word) (f : EthFrame) (ago : Nat),
    still s = true → s.fld ETH_CTL.STATE p.val = 0 →
    let x := s.port p.val
    let b := f.bytes
    let sound := f.fcsOk = true ∧ 60 ≤ b.length ∧ b.length ≤ maxLen s p.val ∧ isPause b = false
    let stamp := (s.stamp + 2 ^ 32 - (ago + s.fld ETH_LAT.RXLAT p.val) % 2 ^ 32) % 2 ^ 32
    let rq := if etherType b = s.fld ETH_RXCLS.ETYPE1 p.val then 1 else 0
    let i := 2 * p.val + rq
    let head := s.fld ETH_RXQ1.HEAD i
    let d := s.fld ETH_RXQ0.BASE i / 32 * 32 + 32 * head
    let buf := bitsOf (s.word d) 39 0
    let k := 4 * p.val + q.val
    let th := s.fld ETH_TXQ1.HEAD k
    let w := txWords s p.val q.val th
    let desc := txDesc s p.val q.val th
    let others := ∀ r, r < 4 → r ≠ q.val → s.bit ETH_TXQ1.EN (4 * p.val + r) = false
    (replaying s = false → s.bit ETH_LINK.LINK p.val = true →
      (¬ sound → completes (.ethFrameReceive p f ago) s fun t =>
        t.fld ETH_LINK.DISC p.val = min ETH_LINK.DISC.top (s.fld ETH_LINK.DISC p.val + 1)) ∧
      (sound → destOk s p.val b = false → exec (.ethFrameReceive p f ago) s = .next s.begin) ∧
      (sound → destOk s p.val b = true →
        ((upFrom 0 16).find? (slotMatch s p.val b) = some j.val → s.bit ETH_RXSV0.COPY (16 * p.val + j.val) = false →
          completes (.ethFrameReceive p f ago) s fun t =>
            let l := (ethPayload b).take 64
            (t.arrivalsOf 2 p.val j.val).head? = some ⟨stamp, l ++ List.replicate (64 - l.length) 0, s.arrNum⟩) ∧
        ((∀ m, m < 16 → slotMatch s p.val b m = false) →
          (head = s.fld ETH_RXQ1.TAIL i ∨ hubCarries s = false → completes (.ethFrameReceive p f ago) s fun t =>
            t.fld ETH_RXQ1.HEAD i = head ∧ t.fld ETH_STAT.OVR p.val = min ETH_STAT.OVR.top (s.fld ETH_STAT.OVR p.val + 1)) ∧
          (head ≠ s.fld ETH_RXQ1.TAIL i → hubCarries s = true → b.length ≤ 128 * s.fld ETH_RXQ0.BUFSZ i → plainRange s buf b.length →
            plainRange s d 32 → (buf + b.length ≤ d ∨ d + 32 ≤ buf) → s.bit ETH_RXQ2.GEN i = false →
            completes (.ethFrameReceive p f ago) s fun t =>
              t.fld ETH_RXQ1.HEAD i = (head + 1) % 256 ∧ t.bytes buf b.length = b ∧
              t.word (d + 8) = w64 (b.length + (if ethTagged b then 2 ^ 14 else 0) + stamp * 2 ^ 32))))) ∧
    (headOf s p.val q.val = 0 → x.wire = none → hubCarries s = true → v.getLsbD 16 = true → bitsOf v 7 0 = (th + 1) % 256 → others →
      taken s src .ETH_TXQ1 k v = true → plainRange s desc 32 → completes (.ethTxqPost src p q v) s fun t =>
        let ended := fun (code : Nat) => t.fld ETH_TXQ1.HEAD k = (th + 1) % 256 ∧ t.word (desc + 16) = w64 code
        let seen := fun (h : Nat) => t.fld ETH_TXQ1.HEAD k = th ∧ headOf t p.val q.val = h
        (txBad s p.val w = true → ended 3) ∧
        (txBad s p.val w = false → (txLt w = none → seen 2) ∧
          ∀ z, txLt w = some z → (launchDue s p.val z = false → seen 1) ∧
            (launchDue s p.val z = true → if ethUp s p.val then seen (if s.reached z then 3 else 2) else ended 6))) ∧
    (headOf s p.val q.val = 1 → ∀ z, txLt w = some z → launchDue s p.val z = true → ethUp s p.val = true →
      completes (.ethLaunchTimeReached p (.queue q)) s fun t =>
        headOf t p.val q.val = (if x.wire.isSome then 3 else 2) ∧ (t.port p.val).wire = x.wire) ∧
    (∀ e z, s.ethSlot p.val j.val = some e → e.ready = false → e.lt = some z → launchDue s p.val z = true →
      (ethUp s p.val = true → unguarded s 2 p.val j.val → completes (.ethLaunchTimeReached p (.servo j)) s fun t =>
        t.ethSlot p.val j.val = some { e with ready := true, late := x.wire.isSome }) ∧
      (ethUp s p.val = false → completes (.ethLaunchTimeReached p (.servo j)) s fun t =>
        t.ethSlot p.val j.val = none ∧
          t.fld ETH_STAT.LINKDOWN p.val = min ETH_STAT.LINKDOWN.top (s.fld ETH_STAT.LINKDOWN p.val + 1))) ∧
    (x.wire = none → ethUp s p.val = true →
      ((ethReady s p.val).find? (fun y => ethFits s p.val y.2) = none → completes (.ethFrameTransmit p) s fun t =>
        (t.port p.val).wire = none ∧ ∀ e, s.ethSlot p.val j.val = some e → e.ready = true →
          t.ethSlot p.val j.val = some { e with late := true }) ∧
      (∀ e n, (ethReady s p.val).find? (fun y => ethFits s p.val y.2) = some (.slot j.val, n) →
        s.ethSlot p.val j.val = some e →
        (e.psn = true → completes (.ethFrameTransmit p) s fun t => reacted s t 18 (0x8000 + p.val)) ∧
        (e.psn = false → unguarded s 2 p.val j.val → completes (.ethFrameTransmit p) s fun t =>
          (t.port p.val).wire = some (.slot j.val, e, txStamp s p.val e.lt) ∧ t.ethSlot p.val j.val = none)) ∧
      (∀ n, (ethReady s p.val).find? (fun y => ethFits s p.val y.2) = some (.queue q.val th, n) →
        s.firstPoison (bitsOf w.1 39 0) (bitsOf w.1 53 40) = none → completes (.ethFrameTransmit p) s fun t =>
          ∃ y, (t.port p.val).wire = some (.queue q.val th, y, txStamp s p.val (txLt w)) ∧
            y.data = s.bytes (bitsOf w.1 39 0) (bitsOf w.1 53 40))) ∧
    (∀ y z, x.wire = some (.queue q.val th, y, z) → z < 2 ^ 32 → (th + 1) % 256 = s.fld ETH_TXQ1.TAIL k → others →
      plainRange s desc 32 →
      completes (.ethTxComplete p) s fun t => (t.port p.val).wire = none ∧ t.fld ETH_TXQ1.HEAD k = (th + 1) % 256 ∧
        t.word (desc + 16) = w64 ((if y.late then 2 else 1) + z * 2 ^ 32) ∧
        (replaying s = false → OutMsg.ethFrame p.val y.data ∈ t.out) ∧
        (w.1.getLsbD 55 = true → x.txts.length < 32 → (t.port p.val).txts = x.txts ++ [(bitsOf w.2 47 32, z)])) ∧
    (∀ y z, x.wire = some (.slot j.val, y, z) → completes (.ethTxComplete p) s fun t => (t.port p.val).wire = none ∧
      (replaying s = false → OutMsg.ethFrame p.val y.data ∈ t.out)) ∧
    (x.txts = [] → completes (.ethTxtsPop src p) s fun t => t.out = [.readData src.toNat 0]) ∧
    (∀ fid z l, x.txts = (fid, z) :: l → completes (.ethTxtsPop src p) s fun t =>
      t.out = [.readData src.toNat (w64 (fid + 2 ^ 16 + z * 2 ^ 32))] ∧ t.port p.val = { x with txts := l }) ∧
    (s.bit ETH_LINK.LINK p.val = true → completes (.ethLinkDown p) s fun t =>
      t.bit ETH_LINK.LINK p.val = false ∧ ∀ e, s.ethSlot p.val j.val = some e → e.ready = true →
        t.ethSlot p.val j.val = none) ∧
    (s.bit ETH_LINK.LINK p.val = false → ∀ r, completes (.ethLinkUp p r) s fun t =>
      t.bit ETH_LINK.LINK p.val = true ∧ t.bit ETH_LINK.POLREV p.val = r ∧ told s t (s.fld ETH_CTL.EVQ p.val))

/-! ## The Servo Engine -/

/-- When nothing is under way: a reached instant of an ENABLED loop is released and the next one is PER later; otherwise the
release changes nothing. At 1 µs after a released instant the loop selects its inputs, those in use or the values last used,
counting those not usable in STALE; in safe state it selects none; in strict mode it waits for a KIND 4 input that is not fresh
until it is. An evaluation in its turn of a loop that the injector leaves alone, without a rate limit, gives U = clamp of
c + i + f to the limits and I = i + KI e in automatic, with neither a division by the feed-forward input, anti-windup, a preset
nor a child in manual; in manual U is MANUAL within the limits and I stays; one with a stale input that STALEPOL does not
use leaves U and I; other loops keep theirs. COEF2 makes the three words of a stage take effect. An enabled SPI port sends
TXLEN bytes and latches RXLEN. GO starts an injection that the settings permit, or a capture; STOP ends it; a finished capture
gives T0 and is reported. -/
def Obligations.ServoLoops : Prop :=
  ∀ (s : State) (n : Fin 192) (src : BitVec 16) (v : Word) (st : Fin 8) (p : Fin 4) (data : List Byte), still s = true →
    let l := s.loop n.val
    let num := fun (f : Fld) => (BitVec.ofNat 32 (s.fld f n.val) : Bfv)
    let selects := fun (z : Nat) (t : State) =>
      let input := fun r => readInput s n.val r z
      (t.loop n.val).sel = some
        { t := z, meas := (inputVal s n.val 0 (input 0)).1, sp := (inputVal s n.val 1 (input 1)).1,
          ff := (inputVal s n.val 2 (input 2)).1, stale := ! (input 0).ok,
          sat := (upFrom 0 3).any fun r => (inputVal s n.val r (input r)).2,
          uses := (upFrom 0 3).map fun r => if (input r).ok then (input r).use else none,
          ffStale := ! (input 2).ok } ∧
      t.fld SRV_LP_CNT.STALE n.val = min SRV_LP_CNT.STALE.top
        (s.fld SRV_LP_CNT.STALE n.val + ((upFrom 0 3).filter fun r => ! (input r).ok).length)
    let clean := fun (z : Nat) => ∀ r, r < 3 → (readInput s n.val r z).psn = none
    (if s.fld SRV_LP_CTL.STATE n.val = 0 ∧ s.reached l.next = true then
      completes (.servoInstantRelease n) s fun t => t.loop n.val =
        { l with released := l.released ++ [l.next], next := (l.next + s.fld SRV_LP_TIME.PER n.val) % 2 ^ 32 }
    else exec (.servoInstantRelease n) s = .next s.begin) ∧
    (∀ z r, l.released = z :: r → s.fld SRV_LP_CTL.STATE n.val = 0 → l.sel = none → l.waits = none →
      s.reached ((z + 1000) % 2 ^ 32) = true →
      (inSafe s = true → completes (.servoInputSelect n) s fun t =>
        (t.loop n.val).released = r ∧ (t.loop n.val).sel = none) ∧
      (inSafe s = false → srvStrict s = true → cellWaits s n.val z = true → completes (.servoInputSelect n) s fun t =>
        t.loop n.val = { l with released := r, waits := some z }) ∧
      (inSafe s = false → (srvStrict s = false ∨ cellWaits s n.val z = false) → clean z →
        completes (.servoInputSelect n) s fun t => (t.loop n.val).released = r ∧ selects z t)) ∧
    (∀ z, l.waits = some z →
      (cellWaits s n.val z = true → exec (.servoStrictInputFresh n) s = .next s.begin) ∧
      (cellWaits s n.val z = false → clean z → completes (.servoStrictInputFresh n) s fun t =>
        (t.loop n.val).waits = none ∧ selects z t)) ∧
    (∀ x, l.sel = some x → servoTurn s n.val x.t = true → injects s n.val = false →
      let c := kindOf (s.reg .SRV_LP_SPB n.val)
      let e := (bfSum [Bfv.term (if c = 6 then num SRV_LP_SP.SP else x.sp), (Bfv.term x.meas).neg]).1
      let ff := if s.fld SRV_LP_CTL.FFM n.val = 2 then (bfSum [bfMul (num SRV_LP_FF.KA) x.ff]).1 else 0
      let i : Bfv := num SRV_LP_VAL.I
      let limit := fun u => (bfClamp (num SRV_LP_LIM.UMIN) (num SRV_LP_LIM.UMAX) u).1
      let gives := fun (t : State) (u i : Bfv) => t.fld SRV_LP_VAL.U n.val = u.toNat ∧ t.fld SRV_LP_VAL.I n.val = i.toNat ∧
        (t.loop n.val).sel = none ∧ ∀ m, m < 192 → m ≠ n.val → t.reg .SRV_LP_VAL m = s.reg .SRV_LP_VAL m
      let used := x.stale = false ∨ s.fld SRV_LP_CTL.STALEPOL n.val = 0
      (¬ used → completes (.servoEvaluate n false) s fun t => gives t (num SRV_LP_VAL.U) i) ∧
      (used → Bfv.mant (num SRV_LP_RATE.RMAX) = 0 →
        (s.bit SRV_LP_MODE.MODE n.val = true → l.wasMan = true → completes (.servoEvaluate n false) s fun t =>
          gives t (limit (num SRV_LP_SP.MANUAL)) i ∧ t.bit SRV_LP_MODE.MODENOW n.val = true) ∧
        (s.bit SRV_LP_MODE.MODE n.val = false → l.preset = false → childManual s n.val = false → c ≠ 5 →
          s.fld SRV_LP_CTL.FFM n.val ≠ 1 → s.fld SRV_LP_CTL.AW n.val = 0 → completes (.servoEvaluate n false) s fun t =>
            gives t (limit (bfSum [(runStages s n.val e).1.term, Bfv.term i, Bfv.term ff]).1)
              (bfSum [Bfv.term i, bfMul (num SRV_LP_GAIN.KI) e]).1 ∧ t.bit SRV_LP_MODE.MODENOW n.val = false))) ∧
    (taken s src .SRV_LP_COEF2 (8 * n.val + st.val) v = true → completes (.servoCoefCommit src n st v) s fun t =>
      let k := 8 * n.val + st.val
      let now := fun w => tget (fun _ => 0) (t.loop n.val).coef w
      now (3 * st.val) = s.reg .SRV_LP_COEF0 k ∧ now (3 * st.val + 1) = s.reg .SRV_LP_COEF1 k ∧
      now (3 * st.val + 2) = t.reg .SRV_LP_COEF2 k ∧
      ∀ w, w / 3 ≠ st.val → now w = tget (fun _ => 0) l.coef w) ∧
    (data.length = 64 →
      if s.bit SRV_SPI.EN p.val then completes (.spiTransaction p data) s fun t =>
        t.out = [.spi p.val ((leBytes 8 (s.reg .SRV_SPI_TX p.val).toNat).take (s.fld SRV_SPI.TXLEN p.val))] ∧
        (replaying s = false → (t.arrivalsOf 3 p.val 0).head? =
          some ⟨s.stamp, data.take (s.fld SRV_SPI.RXLEN p.val), s.arrNum⟩)
      else exec (.spiTransaction p data) s = .next s.begin) ∧
    (taken s src .SRV_INJ_CTL 0 (putBits v 1 0 1) = true → s.bit SRV_INJ_CTL.BUSY 0 = false →
      completes (.injectGo src v) s fun t =>
        let w := t.fld SRV_INJ_CTL.WAVE 0
        if w < 5 ∧ t.fld SRV_INJ_CTL.POINT 0 ≠ 3 ∧ (w = 2 → t.fld SRV_INJ_CTL.NSAMP 0 ≠ 0) then
          t.bit SRV_INJ_CTL.BUSY 0 = true ∧
            t.inj = { prbs := s.fld SRV_INJ_PRBS.SEED 0 % 2 ^ t.fld SRV_INJ_CTL.ORDER 0 }
        else t.bit SRV_INJ_CTL.BUSY 0 = false) ∧
    (taken s src .SRV_INJ_CTL 0 (kept s .SRV_INJ_CTL 0 ||| 2) = true → completes (.injectStop src) s fun t =>
      t.bit SRV_INJ_CTL.BUSY 0 = false) ∧
    (taken s src .SRV_CAP_CTL 0 (putBits v 1 0 1) = true → s.bit SRV_CAP_CTL.BUSY 0 = false →
      completes (.captureGo src v) s fun t => t.bit SRV_CAP_CTL.BUSY 0 = true ∧ t.fld SRV_CAP_STAT.COUNT 0 = 0 ∧
        t.cap = { armed := t.bit SRV_CAP_CTL.SYNC 0 }) ∧
    (taken s src .SRV_CAP_CTL 0 (kept s .SRV_CAP_CTL 0 ||| 2) = true → completes (.captureStop src) s fun t =>
      t.cap = { s.cap with ended := true }) ∧
    (s.bit SRV_CAP_CTL.BUSY 0 = true → s.cap.ended = true → s.cap.t0 < 2 ^ 32 → completes .captureDone s fun t =>
      t.bit SRV_CAP_CTL.BUSY 0 = false ∧ t.fld SRV_CAP_STAT.T0 0 = s.cap.t0 ∧ told s t (s.fld SRV_CTL.EVQ 0))

/-! ## Dvoril, page walkers and edge engines -/

/-- When nothing is under way: a training port whose partner fits comes UP with its index, reports it and counts landings
from 0; with another group id, or an index outside the group, it is DOWN with REASON 2 or 3; DVORIL_TRAINING_TIMEOUT of a
training port leaves it DOWN with REASON 4, DVORIL_LOCK_LOSS of a port not DOWN with REASON 6, each a detection of class 20.
An UP port with room in its replay buffer sends the first frame of the highest class with credit. A received frame that fails
its CRC or sequence changes nothing of the port; one in order becomes the last received, a bulk frame in the receive window
waiting to land, one outside it counted in RXREF. Landing writes the payload and counts it. A resend sends every frame of the
replay buffer again, the eighth in a row taking the port DOWN with REASON 5. The oldest send leaves the port and its mover
once its last frame is acknowledged and landed (log 16). A time exchange measures OFFSET and, where DISC is set, keeps TB_INC
within 200 ppm of its nominal value, on the side that drives the offset towards 0. -/
def Obligations.DvorilLinks : Prop :=
  ∀ (s : State) (p : Fin 2) (q : DvPartner) (f : DvFrame) (t1 t2 t3 t4 : Nat), still s = true →
    let d := s.dv p.val
    let st := s.fld DVL_STAT.STATE p.val
    let down := fun (t : State) (reason : Nat) => t.fld DVL_STAT.STATE p.val = 0 ∧ t.fld DVL_STAT.REASON p.val = reason ∧
      reacted s t 20 (0x9000 + p.val) ∧ (t.dv p.val).queue = [] ∧ (t.dv p.val).replay = [] ∧ (t.dv p.val).sends = []
    let fits := q.gid.toNat = s.fld DVL_GRP.GID 0
    let near := q.idx.toNat ≠ s.fld DVL_GRP.IDX 0 ∧ q.idx.toNat ≤ s.fld DVL_GRP.SIZE 0
    let ws := f.words
    let seq := dvLseq ws
    (st = 1 →
      (fits → near → completes (.dvorilLinkUp p q) s fun t => t.fld DVL_STAT.STATE p.val = 2 ∧
        t.fld DVL_STAT.PIDX p.val = q.idx.toNat ∧ (s.bit DET_LS.EN 0 = false → told s t 0) ∧ (t.dv p.val).gotSeq = ({} : DvPort).gotSeq ∧
        ∀ k, k / 2 ^ 20 = p.val → tget (fun _ => 0) t.landed k = 0) ∧
      (¬ fits → completes (.dvorilLinkUp p q) s fun t => down t 2) ∧
      (fits → ¬ near → completes (.dvorilLinkUp p q) s fun t => down t 3) ∧
      completes (.dvorilTrainingTimeout p) s fun t => down t 4) ∧
    (st ≠ 0 → completes (.dvorilLockLoss p) s fun t => down t 6) ∧
    (st = 2 → d.replay.length < 64 → ∀ x, nextFrame d = some x → completes (.dvorilFrameSend p) s fun t =>
      t.out = [.dvFrame p.val (linkFrame x.words d.nextSeq d.ack d.back)] ∧
      (t.dv p.val).queue = d.queue.erase x ∧ (t.dv p.val).nextSeq = (d.nextSeq + 1) % 65536 ∧
      (t.dv p.val).replay.length = d.replay.length + 1 ∧ (t.dv p.val).cred = lmod (· - 1) d.cred x.vc) ∧
    (2 ≤ st → f.wellFormed = true →
      (dvCrcOk ws = false ∨ seq ≠ (d.gotSeq + 1) % 65536 → completes (.dvorilFrameReceive p f) s fun t =>
        t.dv p.val = d ∧ t.fld DVL_ERR.FECCOR p.val = min DVL_ERR.FECCOR.top (s.fld DVL_ERR.FECCOR p.val + f.fecFix)) ∧
      (dvCrcOk ws = true → seq = (d.gotSeq + 1) % 65536 → completes (.dvorilFrameReceive p f) s fun t =>
        (t.dv p.val).gotSeq = seq ∧
        (dvVc ws = 0 → inWindow s d ws = true →
          (t.dv p.val).landing.map Prod.fst = d.landing.map Prod.fst ++ [seq]) ∧
        (dvVc ws = 0 → inWindow s d ws = false → (t.dv p.val).landing = d.landing ∧
          t.fld DVL_ERR.RXREF p.val = min DVL_ERR.RXREF.top (s.fld DVL_ERR.RXREF p.val + 1)))) ∧
    (∀ x r, d.landing = x :: r → completes (.dvorilFrameLanded p) s fun t =>
      let k := landedKey p.val (dvSmod x.2.words) (dvSid x.2.words)
      (t.dv p.val).landing = r ∧ tget (fun _ => 0) t.landed k = (tget (fun _ => 0) s.landed k + 1) % 2 ^ 24 ∧
      ∀ a, apart s 0x403F200000 0x403F204000 a →
        t.byte a = (s.begin.write (dvPayload x.2.words).plain fun _ => false).byte a) ∧
    (2 ≤ st → d.replay ≠ [] →
      (d.resends + 1 ≠ 8 → completes (.dvorilResend p) s fun t =>
        t.out = d.replay.map (fun x => .dvFrame p.val (resealed d.ack x.2.words)) ∧
        (t.dv p.val).resends = d.resends + 1 ∧ t.fld DVL_STAT.STATE p.val = st) ∧
      (d.resends + 1 = 8 → completes (.dvorilResend p) s fun t => down t 5)) ∧
    (∀ n m b w r, d.sends = (n, m, b, w) :: r → d.sendLanded n = true → completes (.dvorilSendComplete p) s fun t =>
      (t.dv p.val).sends = r ∧
      (t.mover (.ring (Fin.ofNat 12 (8 + p.val)))).prog = (s.mover (.ring (Fin.ofNat 12 (8 + p.val)))).prog.tail) ∧
    (st = 2 → completes (.dvorilTimeExchange p t1 t2 t3 t4) s fun t =>
      let off : Int := Int.tdiv (((t2 : Int) - t1) - ((t4 : Int) - t3)) 2
      t.fld DVL_STAT.OFFSET p.val = (BitVec.ofInt 32 off).toNat ∧
      if s.bit DVL_CTL.DISC p.val then
        0x0280000000 - 0x0280000000 / 5000 ≤ t.fld TB_INC.INC 0 ∧ t.fld TB_INC.INC 0 ≤ 0x0280000000 + 0x0280000000 / 5000 ∧
          (0 < off → 0x0280000000 ≤ t.fld TB_INC.INC 0) ∧ (off < 0 → t.fld TB_INC.INC 0 ≤ 0x0280000000)
      else t.reg .TB_INC 0 = s.reg .TB_INC 0)

/-- When nothing is under way: PAGE_WALKER_FLUSH empties the look-aside buffer; where the stalled sequences are those of verbs
in flight of the cluster, CANCEL leaves none of it stalled and RESUME leaves stalled only some of those that were. EDGE_RING_POST leaves TAIL as written.
EDGE_JOB_TAKE at an ENABLED engine with no job takes the entry at HEAD: a job that fails a check leaves CODE 3 and its reason
in the entry, another is in progress, having taken its amount where the amount is 0. DIVERSE_JOB_GO marks the diverse job,
and the Tailwater engine, with no job, takes it and leaves its ring. EDGE_JOB_COMPLETE of a job that has taken its amount,
with every write accepted before it performed, ends the job, writes its output in the Cistern, and writes CODE 1, or 2 if it
wrote poison, into a ring job's entry. -/
def Obligations.WalkersAndEdgeEngines : Prop :=
  ∀ (s : State) (c : Fin 16) (x : Fin 2) (src : BitVec 16) (v : Word), still s = true →
    let known := ∀ y ∈ stallsOf s c.val, y.1 / 16 = c.val ∧ ∃ w, (s.core (engine y.1)).slot y.2.1 = some w ∧
      ∀ q ∈ w.seqs, q.stalled = true → q.ended = false → (y.1, y.2.1, q.idx) ∈ stallsOf s c.val
    let h := s.fld EDG_RING.HEAD x.val
    let j : EdgeJob := { idx := some h, words := s.words (edgeEntry x.val h) 24 }
    let div : EdgeJob := { idx := none, words := (upFrom 0 24).map fun i => s.reg .DRD_DIVJ i }
    let starts := fun (t : State) (j : EdgeJob) => ∃ k, t.edgeJob x.val = some k ∧ k.words = j.words ∧ k.idx = j.idx ∧
      t.bit EDG_RING.BUSY x.val = true ∧ (bitsOf (j.w 2) 63 32 = 0 → k.taken = true)
    (taken s src .CST_PW_CTL c.val 4 = true → completes (.pageWalkerFlush src c) s fun t =>
      tget (fun _ => []) t.walkers c.val = [] ∧ t.stalls = s.stalls) ∧
    (taken s src .CST_PW_CTL c.val 2 = true → known → stallsOf s c.val ≠ [] → completes (.pageWalkerCancel src c) s fun t =>
      stallsOf t c.val = [] ∧ t.fld CST_PW_STAT.STALLED c.val = 0) ∧
    (taken s src .CST_PW_CTL c.val 1 = true → known → completes (.pageWalkerResume src c) s fun t =>
      ∀ y ∈ stallsOf t c.val, y ∈ stallsOf s c.val) ∧
    (taken s src .EDG_RING x.val v = true → completes (.edgeRingPost src x v) s fun t =>
      t.fld EDG_RING.TAIL x.val = bitsOf v 6 0 ∧ t.fld EDG_RING.HEAD x.val = h) ∧
    (s.edgeJob x.val = none → (x.val = 0 ∨ s.bit DRD_DIV_CTL.BUSY 0 = false) → s.fld EDG_RING.STATE x.val = 0 →
      h ≠ s.fld EDG_RING.TAIL x.val →
      completes (.edgeJobTake x) s fun t => t.fld EDG_RING.HEAD x.val = (h + 1) % 128 ∧
        (∀ r, edgeReason s x.val true j = some r → t.edgeJob x.val = none ∧
          bitsOf (t.word (edgeEntry x.val h + 32)) 15 0 = 3 + r % 256 * 2 ^ 8) ∧
        (edgeReason s x.val true j = none → starts t j)) ∧
    (x.val = 1 → s.edgeJob 1 = none → s.bit DRD_DIV_CTL.BUSY 0 = true →
      completes (.edgeJobTake x) s fun t => t.fld EDG_RING.HEAD 1 = s.fld EDG_RING.HEAD 1 ∧
        (∀ r, edgeReason s 1 (decide (s.fld EDG_RING.STATE 1 = 0)) div = some r → t.edgeJob 1 = none ∧
          t.reg .DRD_DIV_CTL 0 = w64 (3 * 2 ^ 8 + r * 2 ^ 16)) ∧
        (edgeReason s 1 (decide (s.fld EDG_RING.STATE 1 = 0)) div = none → starts t div)) ∧
    (taken s src .DRD_DIV_CTL 0 1 = true → completes (.diverseJobGo src) s fun t => t.bit DRD_DIV_CTL.BUSY 0 = true) ∧
    (∀ k, s.edgeJob x.val = some k → k.taken = true → (∀ w ∈ s.pend, w.slot = none ∨ k.sync ≤ w.seq) →
      (∀ b ∈ (edgeRun s.begin x.val k).1, plainRange s b.1 1) →
      completes (.edgeJobComplete x) s fun t =>
        let b := (edgeRun s.begin x.val k).1
        t.edgeJob x.val = none ∧
        (∀ a, cisternBase ≤ a → a < 0x403F000000 → t.byte a = (s.begin.write b.plain fun _ => false).byte a) ∧
        ∀ i, k.idx = some i → i < 128 → bitsOf (t.word (edgeEntry x.val i + 32)) 7 0 = if b.marked = [] then 1 else 2)

/-! ## Intake and the Forebay -/

/-- When nothing is under way, at a channel that receives packets: a frame start on its virtual channel, the channel ENABLED,
with no frame open and a set free opens a frame with its stamp, number and the steering table in force; with no set free
DROPPED counts it and it is reported; a bad header is counted in ECCBAD, another virtual channel's frame end in OTHER. A row
packet adds its row to the open frame, or a row of zeros, counted in BADROWS, where it is bad. A frame end, 100 ms without a
packet, or the loss of lock, which is reported, ends the open frame with its stamp and as many rows as it must have. A lock
sets LOCK and GEARNOW. A pipe's next stripe is processed and its bytes written. The oldest ended frame with every stripe
processed is delivered: its stamps in the set's record, WR moved past it, and a detection of class 12 where it is frozen. With
power over coax on, a short or an open line shows in POCST and is reported. A steering write with GO starts a copy; the copy's
end fills the pending table from an aligned list of at most 64 boxes in the Cistern. -/
def Obligations.CameraFrames : Prop :=
  ∀ (s : State) (c : Fin 24) (p : Fin 4) (src : BitVec 16) (v : Word) (fnum : BitVec 16) (k : CsiPacket), still s = true →
    let x := s.chan c.val
    let n := x.frames.length
    let h0 := s.fld ING_CH_GEOM.H0 c.val
    let vc : BitVec 4 := BitVec.ofNat 4 (s.fld ING_CH_CTL.VC c.val)
    let out := (s.fld ING_CH_PTR.WR c.val + 256 - s.fld ING_CH_PTR.RD c.val) % 256
    let room := out + n < setCount s c.val ∧ n < 2
    let bad := k.crcOk = false ∨ k.bytes.length ≠ rowBytes (s.fld ING_CH_CTL.DT c.val) (s.fld ING_CH_GEOM.W0 c.val)
    let q := s.fld ING_FB_CTL.EVQ 0
    let ended := fun (t : State) (f : ChanFrame) (flags : Nat) => openFrame t c.val = none ∧
      ∃ g, (t.chan c.val).frames.getLast? = some g ∧ g.fs = f.fs ∧ g.fe = some s.stamp ∧
        g.rows = f.rows ++ List.replicate (h0 - f.rows.length) (zeroRow s c.val) ∧
        g.flags = f.flags ||| flags ||| (if h0 ≤ f.rows.length then 0 else 1)
    (hears s c.val = true →
      (openFrame s c.val = none → s.fld ING_CH_PTR.STATE c.val = 0 →
        (room → completes (.csi2FrameStart c vc fnum .clean) s fun t =>
          (t.chan c.val).frames.length = n + 1 ∧ t.fld ING_CH_PTR.HELD c.val = n + 1 ∧
          ∃ f, openFrame t c.val = some f ∧ f.fs = s.stamp ∧ f.fnum = fnum.toNat ∧ f.rows = [] ∧
            f.boxes = x.next.getD x.boxes) ∧
        (¬ room → completes (.csi2FrameStart c vc fnum .clean) s fun t => (t.chan c.val).frames = x.frames ∧
          t.fld ING_CH_STAT.DROPPED c.val = min ING_CH_STAT.DROPPED.top (s.fld ING_CH_STAT.DROPPED c.val + 1) ∧
          told s t q)) ∧
      (∀ w, completes (.csi2FrameStart c w fnum .bad) s fun t => t.chan c.val = x ∧
        t.fld ING_CH_STAT.ECCBAD c.val = min ING_CH_STAT.ECCBAD.top (s.fld ING_CH_STAT.ECCBAD c.val + 1)) ∧
      (∀ w, w ≠ vc → completes (.csi2FrameEnd c w .clean) s fun t => t.chan c.val = x ∧
        t.fld ING_CH_LINK.OTHER c.val = min ING_CH_LINK.OTHER.top (s.fld ING_CH_LINK.OTHER c.val + 1)) ∧
      (∀ f, openFrame s c.val = some f →
        (k.wellFormed = true → k.vc = vc → k.dt.toNat = s.fld ING_CH_CTL.DT c.val → k.ecc ≠ .bad → f.rows.length < h0 →
          rowBusy s c.val f f.rows.length = false → completes (.csi2RowReceive c k) s fun t =>
            (bad → (openFrame t c.val).map (·.rows) = some (f.rows ++ [zeroRow s c.val]) ∧
              t.fld ING_CH_STAT.BADROWS c.val = min ING_CH_STAT.BADROWS.top (s.fld ING_CH_STAT.BADROWS c.val + 1)) ∧
            (¬ bad → (openFrame t c.val).map (·.rows) =
              some (f.rows ++ [unpackRow (s.fld ING_CH_CTL.DT c.val) k.bytes]))) ∧
        completes (.csi2FrameEnd c vc .clean) s (fun t => ended t f 0) ∧
        completes (.frameTimeout c) s (fun t => ended t f 17))) ∧
    (s.bit ING_CH_LINK.LOCK c.val = true → completes (.aphyLockLoss c) s fun t =>
      t.bit ING_CH_LINK.LOCK c.val = false ∧ told s t q ∧
        (replaying s = false → ∀ f, openFrame s c.val = some f → ended t f 17)) ∧
    (∀ gear : BitVec 2, gear ≠ 3 → completes (.aphyLock c gear) s fun t =>
      t.bit ING_CH_LINK.LOCK c.val = true ∧ t.fld ING_CH_LINK.GEARNOW c.val = gear.toNat) ∧
    (∀ ch i o f, pipeNext s p.val = some (ch, i, o) → (s.chan ch).frames[i]? = some f → f.zeros = [] →
      completes (.pipeStripeDone p) s fun t =>
        (∃ g, (t.chan ch).frames[i]? = some g ∧ g.done = f.done + 1 ∧ g.rows = f.rows) ∧
        ∀ a, apart s 0x403F000000 0x4040000000 a →
          t.byte a = (s.begin.write (stripeBulk s ch (setAddr s ch (frameSet s ch i)) f).plain fun _ => false).byte a) ∧
    (∀ f l z, x.frames = f :: l → f.fe = some z → f.ready.length ≤ f.done → s.fld ING_CH_PTR.STATE c.val ≠ 2 →
      let wr := s.fld ING_CH_PTR.WR c.val
      let a := setAddr s c.val wr
      completes (.frameDeliver c) s fun t =>
        t.fld ING_CH_PTR.WR c.val = (wr + 1) % 256 ∧ (t.chan c.val).frames = l ∧ (t.chan c.val).drops = 0 ∧
        (plainRange s a 128 → t.word a = w64 (f.fs + z * 2 ^ 32)) ∧
        ((frozenCheck s c.val f).2 = (true, false) → reacted s t 12 (0x4000 + c.val))) ∧
    (s.bit ING_CH_CTL.POC c.val = true →
      (s.fld ING_CH_LINK.POCST c.val ≠ 3 → completes (.pocShort c) s fun t =>
        t.fld ING_CH_LINK.POCST c.val = 3 ∧ told s t q) ∧
      (s.fld ING_CH_LINK.POCST c.val = 1 → completes (.pocOpen c) s fun t =>
        t.fld ING_CH_LINK.POCST c.val = 2 ∧ told s t q)) ∧
    (s.bit ING_STEER.BUSY c.val = false → taken s src .ING_STEER c.val (v ||| bit64 48) = true →
      completes (.steerGo src c v) s fun t => t.bit ING_STEER.BUSY c.val = true ∧
        (t.chan c.val).steer = some (t.fld ING_STEER.ADDR c.val, t.fld ING_STEER.N c.val)) ∧
    (∀ a m, x.steer = some (a, m) → completes (.steerCopyDone c) s fun t =>
      t.bit ING_STEER.BUSY c.val = false ∧ (t.chan c.val).steer = none ∧
      (m ≤ 64 → a % 16 = 0 → s.within .cistern a (max 1 (16 * m)) = true → (t.chan c.val).next =
        some ((upFrom 0 m).map fun i => (s.word (a + 16 * i), s.word (a + 16 * i + 8), s.poisoned (a + 16 * i) 16))))

/-- When nothing is under way: a push of a sound descriptor to the ENABLED Forebay copies it into the lowest FREE slot, which
is FILLING and the newest in order; a push of another descriptor, or to a Forebay not ENABLED or with no FREE slot, is
counted in REFUSED and reported. A sample that ends within its budget, or in strict mode, keeps
its status (an image where some pipe has no stripe ready); outside strict mode one that reaches its budget, and every one open at the batch's
deadline, ends with status 5, LATE; once every sample has ended the slot is READY. A take of the oldest batch, READY, gives its slot and FOUND, and makes it TAKEN;
otherwise it reads 0. A release of a TAKEN slot makes it FREE. -/
def Obligations.ForebayBatches : Prop :=
  ∀ (s : State) (n : Fin 32) (i : Fin 256) (ns : Nat) (src : BitVec 16) (v : Word), still s = true →
    let x := s.fbSlot n.val
    let a := bitsOf v 39 0
    let b := slotBase s n.val
    let count := batchNs s n.val
    let area := plainRange s b (512 + count * bitsOf (fbWord s n.val 5) 31 0)
    let ends := fun (t : State) (code : Nat) => endOf t n.val i.val = some code ∧
      (∀ j, j ≠ i.val → endOf t n.val j = endOf s n.val j) ∧
      (t.fbSlot n.val).state = if ∀ j, j < count → j ≠ i.val → (endOf s n.val j).isSome = true then 2 else 1
    (taken s src .ING_FB_CMD 0 (putBits v 46 45 1) = true →
      (s.fld ING_FB_CTL.STATE 0 = 0 → (upFrom 0 32).find? (fun m => decide ((s.fbSlot m).state = 0)) = some n.val →
        batchBad s n.val a (s.words a 8) = false → completes (.forebayPush src v) s fun t =>
          t.fbSlot n.val = { state := 1, num := s.fb.num, trie := s.reg .ING_TOK_TRIE 0 } ∧
          t.fb.order = s.fb.order ++ [n.val] ∧ (plainRange s b 64 → ∀ j, j < 8 → t.word (b + 8 * j) = s.word (a + 8 * j))) ∧
      (s.fld ING_FB_CTL.STATE 0 ≠ 0 ∨ (∀ m, m < 32 → (s.fbSlot m).state ≠ 0) ∨
        ((upFrom 0 32).find? (fun m => decide ((s.fbSlot m).state = 0)) = some n.val ∧
          batchBad s n.val a (s.words a 8) = true) →
        completes (.forebayPush src v) s fun t => t.fb = s.fb ∧
          t.fld ING_FB_STAT.REFUSED 0 = min ING_FB_STAT.REFUSED.top (s.fld ING_FB_STAT.REFUSED 0 + 1) ∧
          told s t (s.fld ING_FB_CTL.EVQ 0))) ∧
    (taken s src .ING_FB_CMD 0 (putBits v 46 45 2) = true → bitsOf v 44 40 = n.val → x.state = 3 →
      completes (.forebayRelease src v) s fun t => t.fbSlot n.val = {}) ∧
    (∀ r, s.fb.order = n.val :: r → x.state = 2 → completes (.forebayTake src) s fun t =>
      t.fbSlot n.val = { x with state := 3 } ∧ t.fb.order = r ∧ OutMsg.readData src.toNat (w64 (n.val + 32)) ∈ t.out) ∧
    (s.fb.order = [] ∨ (∃ r, s.fb.order = n.val :: r ∧ x.state ≠ 2) → completes (.forebayTake src) s fun t =>
      t.out = [.readData src.toNat 0] ∧ t.fb = s.fb) ∧
    (sampleOpen s n.val i.val = true → area →
      (fbStrict s = true ∨ ns < fbBudget s n.val i.val → (sampleKind s n.val i.val = 1 → pipeIdle s = true) →
        completes (.forebaySampleDone n i ns) s fun t =>
        ends t (sampleRun s n.val i.val).status) ∧
      (fbStrict s = false → fbBudget s n.val i.val ≤ ns → completes (.forebaySampleLate n i ns) s fun t => ends t 5 ∧
        t.fld ING_FB_STAT.LATE 0 = min ING_FB_STAT.LATE.top (s.fld ING_FB_STAT.LATE 0 + 1))) ∧
    (x.state = 1 → area → fbStrict s = false → (fbWord s n.val 2).getLsbD 32 = true →
      s.reached (bitsOf (fbWord s n.val 2) 31 0) = true → completes (.forebayDeadline n) s fun t =>
        (t.fbSlot n.val).state = 2 ∧
        ∀ j, j < count → endOf t n.val j = some ((endOf s n.val j).getD 5))

/-! ## The journal, strict mode and lock-step -/

/-- When nothing is under way: JOURNAL_RECORD_WRITE of a journal that copies nothing takes the next held input in the order
of R397 and starts copying its record with the next sequence number, or, without room in the ring, counts it in LOST; a
draining journal without inputs starts its SEAL record. JOURNAL_RECORD_LANDED, the copies of a piece of the only record being
copied, not the SEAL and without STREAM, having ended well, moves WR past the record and counts it when the piece was the last,
and else leaves WR. JOURNAL_LOST_RECORD starts the record of the losses once there is room. JOURNAL_MARK of a recording journal
holds a MARK input. JOURNAL_FEED in replay starts a copy; its end moves WR and FOFF. In replay, REPLAY_PRESENT_RECORD starts the
ring again at a zero header, waits for a record's time, ends replay at one that says inputs are missing, latches an SPI record's
data, and passes that and the other records. A write of DET_CTL sets STRICT at once and STRICTNOW follows when applied; the key's
hash follows the settings, and a changed key of a recording journal is an input. -/
def Obligations.JournalAndReplay : Prop :=
  ∀ (s : State) (src : BitVec 16) (v : Word) (rows : List Byte), still s = true →
    let j := s.jnl
    let st := s.fld JNL_CTL.STATE 0
    let bytes := fun (r : JIn) (ooo : Bool) => recordBytes s r ooo j.seq
    let starts := fun (t : State) (r : JIn) (ooo isSeal : Bool) => t.jnl.seq = (j.seq + 1) % 2 ^ 32 ∧
      ∃ o, t.jnl.out.getLast? = some o ∧ o.bytes = bytes r ooo ∧ o.seq = some j.seq ∧ o.isSeal = isSeal
    let moved := fun (n : Nat) => (jnlWr s + n) % max 1 (ringSize s)
    let head := replayBytes s 32
    let w := fun i => w64 (leNat ((head.drop (8 * i)).take 8))
    let due := bitsOf (w 2) 47 0 * 1000000000 + bitsOf (w 3) 29 0 + bitsOf (w 3) 63 32
    let len := bitsOf (w 0) 63 32
    let body := (replayBytes s (32 + len)).drop 32
    let kind := bitsOf (w 0) 7 0
    let passed := fun (t : State) => t.fld JNL_PTR_RD.RD 0 = (jnlRd s + (32 + up32 len)) % max 1 (ringSize s)
    (j.out = [] → st ≠ 2 →
      (∀ r ooo, nextInput s = some (r, ooo) → completes .journalRecordWrite s fun t => t.jnl.held = j.held.erase r ∧
        (ringFits s (bytes r ooo).length = true → starts t r ooo false) ∧
        (ringFits s (bytes r ooo).length = false → t.jnl.out = [] ∧ t.jnl.lost = j.lost + 1 ∧
          t.fld JNL_STAT.LOST 0 = min JNL_STAT.LOST.top (s.fld JNL_STAT.LOST 0 + 1))) ∧
      (st = 1 → j.held = [] → j.sealed = false → s.bit JNL_CTL.MODE 0 = false →
        ringFits s (bytes (sealRecord s) false).length = true → completes .journalRecordWrite s fun t =>
          t.jnl.sealed = true ∧ starts t (sealRecord s) false true) ∧
      (j.lost ≠ 0 → ringFits s 64 = true → completes .journalLostRecord s fun t => t.jnl.lost = 0 ∧
        starts t (ownRecord s 0x09 (leBytes 8 j.lost)) false false)) ∧
    (∀ o tag code q, j.out = [o] → o.rows = false → o.tag = some tag → o.host = none → doneOf s tag = some code →
      code ≤ 2 → o.seq = some q → o.isSeal = false → s.bit JNL_CTL.STREAM 0 = false →
      completes .journalRecordLanded s fun t =>
        if o.bytes.length ≤ o.staged + o.piece then
          t.jnl.out = [] ∧ t.fld JNL_PTR_WR.WR 0 = (o.off + o.bytes.length) % max 1 (ringSize s) ∧
            t.fld JNL_STAT.RECS 0 = (s.fld JNL_STAT.RECS 0 + 1) % 2 ^ 32 ∧ t.jnl.lastSeq = q
        else t.fld JNL_PTR_WR.WR 0 = jnlWr s ∧ t.jnl.out.length = 1) ∧
    (taken s src .JNL_MARK 0 v = true → completes (.journalMark src v) s fun t => t.jnl.held =
      if recording s then j.held ++ [{ kind := 0x0B, src := 0xF001, stamp := s.stamp, payload := leBytes 8 v.toNat }]
      else j.held) ∧
    (taken s src .JNL_FEED 0 v = true → s.bit JNL_CTL.MODE 0 = true → bitsOf v 31 0 ≠ 0 →
      completes (.journalFeed src v) s fun t => t.bit JNL_FEED.BUSY 0 = true ∧
        ∃ tags, t.jnl.feed = some (bitsOf v 31 0, tags)) ∧
    (∀ n tags, j.feed = some (n, tags) → (∀ x ∈ tags, (doneOf s x).isSome = true) →
      completes .journalFeedDone s fun t => t.jnl.feed = none ∧ t.bit JNL_FEED.BUSY 0 = false ∧
        t.fld JNL_PTR_WR.WR 0 = moved n ∧
        t.fld JNL_FEED.FOFF 0 = (s.fld JNL_FEED.FOFF 0 + n) % max 1 (halfSize s)) ∧
    (replaying s = true → jnlRd s ≠ jnlWr s →
      (w 0 = 0 → completes (.replayPresentRecord rows) s fun t => t.fld JNL_PTR_RD.RD 0 = 0) ∧
      (w 0 ≠ 0 → s.totalNs < due → exec (.replayPresentRecord rows) s = .next s.begin) ∧
      (w 0 ≠ 0 → due ≤ s.totalNs →
        (kind = 9 ∨ kind = 1 ∧ (w 0).getLsbD 11 = true → completes (.replayPresentRecord rows) s fun t =>
          passed t ∧ replaying t = false ∧ t.fld JNL_CTL.STATE 0 = 2) ∧
        (kind = 5 → completes (.replayPresentRecord rows) s fun t => passed t ∧ replaying t = true ∧
          (t.arrivalsOf 3 (body.headD 0).toNat 0).head? = some ⟨bitsOf (w 1) 31 0, body.drop 8, s.arrNum⟩) ∧
        (kind ∈ [2, 3, 4, 7, 8, 10, 11, 16] → completes (.replayPresentRecord rows) s fun t =>
          passed t ∧ replaying t = true))) ∧
    (taken s src .DET_CTL 0 v = true → completes (.strictWrite src v) s fun t =>
      t.bit DET_CTL.STRICT 0 = v.getLsbD 0 ∧ t.bit DET_STAT.STRICTNOW 0 = s.bit DET_STAT.STRICTNOW 0) ∧
    completes .strictnowApplied s (fun t => t.bit DET_STAT.STRICTNOW 0 = s.bit DET_CTL.STRICT 0) ∧
    completes .detKeyRecompute s (fun t => t.fld DET_KEY.SH 0 = settingsHash s ∧
      t.jnl.held = j.held ++ (if recording s = true ∧ s.fld DET_KEY.SH 0 ≠ settingsHash s then
        [{ kind := 0x08, src := 0xF001, stamp := s.stamp, payload := leBytes 8 (t.reg .DET_KEY 0).toNat }] else []))

/-- When nothing is under way, with the comparison enabled: the digest of an epoch that has ended, all of whose designated
frames have their final codes, is kept, its frames are gone, and, with D1 UP and no digest of it from the partner yet, a frame
for it waits to be sent. While the comparison is active and D1 UP, a first digest of an epoch from the partner that differs from
the kept one is a detection of class 21, an equal one is kept and none; so is an epoch without one by 2 EPER after its end, or
with D1 down. -/
def Obligations.LockstepComparison : Prop :=
  ∀ (s : State) (k : Nat) (d e : List Byte), still s = true → s.bit DET_LS.EN 0 = true →
    let n := s.ls.epoch
    let found := s.ls.own.find? fun x => x.1 == k
    (s.reached (epochStart s (n + 1)) = true → (∀ f ∈ s.ls.frames, inEpoch s n f = true → f.code ≠ none) →
      completes .lockstepDigestSend s fun t => t.ls.epoch = n + 1 ∧ t.ls.own.getLast? = some (n, epochDigest s n) ∧
        t.ls.frames = (s.ls.frames.filter fun f => ! inEpoch s n f) ∧
        (dvUp s 1 = true → (s.ls.partner.find? fun x => x.1 == n) = none →
          (t.dv 1).queue.length = (s.dv 1).queue.length + 1)) ∧
    (d.length = 32 → dvUp s 1 = true → s.bit DET_LS.ACTIVE 0 = true → (∀ x ∈ s.ls.partner, x.1 ≠ k) → found = some (k, e) →
      completes (.lockstepDigestReceive k d) s fun t =>
        (e ≠ d → reacted s t 21 0xF002) ∧
        (e = d → t.drd = s.drd ∧ t.ls.partner.getLast? = some (k, d) ∧ ∀ r i, t.reg r i = s.reg r i)) ∧
    (s.bit DET_LS.ACTIVE 0 = true → (∀ x ∈ s.ls.partner, x.1 ≠ k) → s.reached (epochStart s (k + 1)) = true →
      (dvUp s 1 = false ∨ s.reached (epochStart s (k + 3)) = true) →
      completes (.lockstepDigestMissing k) s fun t => reacted s t 21 0xF002)

/-! ## Time, clocks and power -/

/-- Every adjustable island whose power exceeds its allowance is one clock step lower, the others stay (R480). -/
def lowered (s t : State) (isls : List Nat) : Prop :=
  ∀ i, i < 36 → t.fld WTM_ISL.NOW i =
    if isAdjustable i = true ∧ islandBudget s i < isls.getD i 0 then (stepBelow i (s.fld WTM_ISL.NOW i)).getD (s.fld WTM_ISL.NOW i)
    else s.fld WTM_ISL.NOW i

/-- When nothing is under way: TIMEBASE_TICK leaves the total as the pending load, or the old total, plus the pending
adjustments and the increment, modulo 2^48 s, with nothing pending; with a step pending, it and TB_STEP count it and append
TB-STEP, and without, TB_STEP does nothing. TB_INC takes a value in range that no discipline unit bars, and refuses
another, REFUSED then being set. TB_ADJ adds a signed adjustment and TB_LOADSEC sets a load, both pending until the tick. A
read of TB_NOW0 gives NS and the stamp, and TB_NOW1 SEC of the same tick. -/
def Obligations.TimebaseSteps : Prop :=
  ∀ (s : State) (src : BitVec 16) (v : Word), still s = true →
    let u := match s.tbPend.load with
      | some n => (n : Int) * 2 ^ 32
      | none => s.tb.units
    let ticked := fun (t : State) => t.tbPend = {} ∧
      t.tb.units = (u + s.tbPend.adj.sum * 2 ^ 32 + s.fld TB_INC.INC 0) % (2 ^ 48 * 1000000000 * 2 ^ 32) ∧
      t.tb.ns < 1000000000 ∧ t.tb.frac < 2 ^ 32
    let stepped := fun (t : State) => t.fld TB_STAT.STEPS 0 = min TB_STAT.STEPS.top (s.fld TB_STAT.STEPS 0 + 1) ∧ told s t 0
    completes .timebaseTick s (fun t => ticked t ∧
      if stepDue s then stepped t else t.reg .TB_STAT 0 = s.reg .TB_STAT 0) ∧
    (stepDue s = true → completes .tbStep s fun t => ticked t ∧ stepped t) ∧
    (stepDue s = false → exec .tbStep s = .next s.begin) ∧
    (taken s src .TB_INC 0 v = true → completes (.tbIncWrite src v) s fun t =>
      t.fld TB_INC.INC 0 = bitsOf v 39 0 ∧ t.tb = s.tb ∧ t.reg .TB_STAT 0 = s.reg .TB_STAT 0) ∧
    (mayWrite s src.toNat .TB_INC = true → regWaits s src.toNat .TB_INC 0 v = false →
      (bitsOf v 39 0 < 0x0200000000 ∨ 0x02FFFFFFFF < bitsOf v 39 0 ∨ disciplined s = true) →
      completes (.tbIncWrite src v) s fun t =>
        t.reg .TB_INC 0 = s.reg .TB_INC 0 ∧ t.bit TB_STAT.REFUSED 0 = true ∧ t.tb = s.tb) ∧
    (taken s src .TB_ADJ 0 (v ||| bit64 63) = true → completes (.tbAdjust src v) s fun t => t.tb = s.tb ∧
      t.tbPend = { s.tbPend with adj := s.tbPend.adj ++ [(v.extractLsb' 0 32).toInt] }) ∧
    (taken s src .TB_LOADSEC 0 (v ||| bit64 63) = true → completes (.tbLoad src v) s fun t => t.tb = s.tb ∧
      t.tbPend = { s.tbPend with load := some (bitsOf v 47 0 * 1000000000 + s.fld TB_LOADNS.LOADNS 0) }) ∧
    completes (.tbNowRead src) s (fun t => t.tb = s.tb ∧
      t.out = [.readData src.toNat (w64 (s.tb.ns + s.stamp * 2 ^ 32)), .readData src.toNat (w64 s.tb.sec)])

/-- When nothing is under way: on a ready engine a gwait that must wait leaves it waiting, and ENGINE_CLOCK_GATE gates its clock
once THRESH has passed unless NOGATE is set; on a ready lane with nothing queued snext waits and LANE_CLOCK_GATE gates it.
ISLAND_CLOCK_RESTORE ends GATED. A re-evaluation of an adjustable island decides down above the limit or the budget, up where
the next step fits both, else neither; a decided step moves NOW one step; a recall returns the lender's loan. Over CAP, or
320 W at the input, each adjustable island over its budget goes one step down, and the start of an excursion is told. A junction
above THR throttles its die, one above CRIT puts every adjustable island at its floor and class 11 is detected; at THR - 2 the
last die's throttling ends. A plate out of range is told once. An open sense line sets SENSEF. A change of a pin without an
earlier edge shows in IN, and a selected edge is told; one within 100 ns of an edge changes nothing. A push-pull pin that reads
otherwise than it drives sets FLT. -/
def Obligations.IslandClocksAndPower : Prop :=
  ∀ (s : State) (e : Fin 256) (l : Fin 64) (ga gb : BitVec 5) (i : Fin 36) (mw mwUp : Nat) (isls : List Nat)
    (die : DieSensor) (deg : Int) (pin : Fin 16) (level : Bool), still s = true →
    let k := s.core (.eng e)
    let h := handleKey (handleOfEngine e.val (k.readG ga).v)
    let now := s.fld WTM_ISL.NOW i.val
    let lim := clockLimit s i.val
    let budget := islandBudget s i.val
    let q := s.fld WTM_CTL.EVQ 0
    let wants := fun (t : State) => tget (fun _ => none) t.wtm.want i.val
    let thr : Int := s.fld WTM_THERM.THR 0
    let crit := (s.fld WTM_THERM.CRIT 0 : Int) < deg ∧ s.wtm.crit = false
    let last := tget (fun _ => none) s.wtm.edges pin.val
    let selected := s.fld WTM_GPIO_CFG.EDGE pin.val = 3 ∨ s.fld WTM_GPIO_CFG.EDGE pin.val = if level then 1 else 2
    (ready s (.eng e) = true → handleOkEngine (k.readG ga).v false = true → bitsOf (k.readG ga).v 11 10 ≠ 1 →
      (k.readG ga).p = false → s.waiters h = [] → (k.readG gb).v.toNat < 2 ^ 31 →
      gateValue (gateWord s h) < (k.readG gb).v.toNat → completes (.gwait (.eng e) ga gb true) s fun t =>
        (t.core (.eng e)).waiting = true ∧ ∀ time : TimeSt, let later := { t with tb := time }
          completes (.engineClockGate e) later fun u => u.core (.eng e) = { t.core (.eng e) with
            gated := ! s.bit FE_IDLE.NOGATE e.val && decide (s.totalNs + 100 * s.fld FE_IDLE.THRESH e.val ≤ later.totalNs) }) ∧
    (ready s (.lane l) = true → (s.lane l.val).prob = none → (s.lane l.val).fifo = [] →
      completes (.snext l ga true) s fun t => (t.core (.lane l)).waiting = true ∧
        completes (.laneClockGate l) t fun u => u.core (.lane l) = { t.core (.lane l) with gated := true }) ∧
    completes (.islandClockRestore i) (s.setBit WTM_ISL.GATED i.val true) (fun t => t.reg .WTM_ISL i.val = s.reg .WTM_ISL i.val) ∧
    (isAdjustable i.val = false → exec (.wtmReevaluate i mw mwUp) s = .next s.begin) ∧
    (isAdjustable i.val = true → completes (.wtmReevaluate i mw mwUp) s fun t => (∀ r x, t.reg r x = s.reg r x) ∧
      (lim < now ∨ budget < mw → wants t = if islandFloor i.val < now then some false else none) ∧
      (now ≤ lim → mw ≤ budget → wants t = match stepAbove i.val now with
        | some n => if n ≤ lim ∧ mwUp ≤ budget then some true else none
        | none => none)) ∧
    (∀ b n, wants s = some b → (if b then stepAbove i.val now else stepBelow i.val now) = some n →
      completes (.islandClockStep i b) s fun t => t.fld WTM_ISL.NOW i.val = n ∧ wants t = none) ∧
    (∀ x, s.wtm.loans.filter (fun x => x.lender == i.val) = [x] → x.borrower ≠ i.val →
      completes (.powerRecallComplete i) s fun t => t.fld WTM_ISL.LENT i.val = 0 ∧
        t.wtm.loans = s.wtm.loans.filter (fun x => x.lender != i.val) ∧
        t.fld WTM_ISL.BORROW x.borrower = s.fld WTM_ISL.BORROW x.borrower - x.amt) ∧
    (isls.length = 36 →
      completes (.powerCapExcursion mw isls) s (fun t => t.fld WTM_STAT.PKG 0 = min 65535 (mw / 10) ∧
        (mw ≤ 1000 * s.fld WTM_CTL.CAP 0 → t.wtm.capOver = false ∧ lowered s t []) ∧
        (1000 * s.fld WTM_CTL.CAP 0 < mw → t.wtm.capOver = true ∧ lowered s t isls ∧ (s.wtm.capOver = false → told s t q ∧
          t.fld WTM_STAT.CAPHITS 0 = min WTM_STAT.CAPHITS.top (s.fld WTM_STAT.CAPHITS 0 + 1)))) ∧
      completes (.inputPowerExcursion mw isls) s (fun t => t.fld WTM_STAT.INP 0 = min 65535 (mw / 10) ∧
        (mw ≤ 320000 → t.wtm.inpOver = false ∧ lowered s t []) ∧
        (320000 < mw → t.wtm.inpOver = true ∧ lowered s t isls ∧ (s.wtm.inpOver = false → told s t q)))) ∧
    completes (.thermalThrottle die deg) s (fun t =>
      (crit → reacted s t 11 0xB000 ∧ t.wtm.crit = true ∧ ∀ x, isAdjustable x = true →
        islandFloor x ≤ s.fld WTM_ISL.NOW x → t.fld WTM_ISL.NOW x = islandFloor x) ∧
      (thr < deg → (s.wtm.hot = [] → t.bit WTM_THERM.THROT 0 = true ∧ told s t q) ∧
        (¬ crit → ∀ x ∈ dieIslands (dieNum die), t.fld WTM_ISL.NOW x = (stepBelow x (s.fld WTM_ISL.NOW x)).getD (s.fld WTM_ISL.NOW x))) ∧
      (deg ≤ thr - 2 → s.wtm.hot = [dieNum die] → t.bit WTM_THERM.THROT 0 = false)) ∧
    completes (.plateRangeExcursion deg) s (fun t => t.fld WTM_THERM.TCP 0 = tempBits deg ∧
      t.wtm.plateOver = ! plateIn s.part deg ∧ (plateIn s.part deg = false → s.wtm.plateOver = false → told s t q)) ∧
    completes .senseOpen s (fun t => t.bit WTM_MOD.SENSEF 0 = true) ∧
    (s.bit WTM_GPIO_CFG.IN pin.val ≠ level →
      (last = none → completes (.gpioEdge pin level) s fun t =>
        t.bit WTM_GPIO_CFG.IN pin.val = level ∧ (selected → told s t q)) ∧
      (∀ x, last = some x → (s.stamp + 2 ^ 32 - x) % 2 ^ 32 < 100 → exec (.gpioEdge pin level) s = .next s.begin)) ∧
    (s.fld WTM_GPIO_CFG.MODE pin.val = 1 → s.bit WTM_GPIO_CFG.IN pin.val ≠ s.bit WTM_GPIO_CFG.OUT pin.val →
      completes (.gpioFlt pin false) s fun t => t.bit WTM_GPIO_CFG.FLT pin.val = true) ∧
    (s.fld WTM_GPIO_CFG.MODE pin.val ≠ 1 → exec (.gpioFlt pin false) s = .next s.begin)

/-! ## Host interface and security -/

/-- When nothing is under way: a window B request that a rule bars completes as Unsupported Request and changes no byte;
another write puts its bytes at BASE plus its offset, marked if EP was set, and a read gives the bytes as the hub
sees them, with EP where a word is poisoned. A window A request that does not reach, or a read of another size or
alignment, completes so too; a write that reaches, with the journal not recording, is the same REGISTER_WRITE by the function, an
aligned 8-byte read of a register without acting reads gives its contents and clears its RC fields. A doorbell of another function's ring is unsupported, one that would move TAIL
backward or past HEAD, or of a disabled ring, is counted and reported, and another sets TAIL and signals the ring's gate by
the advance. HST_IRQ sends its vector or leaves it pending, and a table write or MSI-X Enable sends what was pending. A
function reset disables the function's rings and window, empties its table and is reported. A register without acting reads
gives its contents to a read, which clears its RC fields. DBG_MARK is an event. A performed change-log line leaves staging. -/
def Obligations.HostInterface : Prop :=
  ∀ (s : State) (f : Fin 4) (off : BitVec 40) (data : List Byte) (ep : Bool) (n size : Nat) (ring : Fin 64) (tail : BitVec 16)
    (src : BitVec 16) (v addr : Word) (vec : BitVec 8) (on masked : Bool) (dat : BitVec 32), still s = true →
    let a := s.fld HST_WINB.BASE f.val + off.toNat
    let opens := f.val ≠ 2 ∧ s.bit HST_WINB.EN f.val = true ∧ s.bit SEC_BOOT.READY 0 = true
    let reaches := fun (n : Nat) => off.toNat + n ≤ 2 ^ 34 ∧ windowBRegion (s.region a) = true ∧
      windowBRegion (s.region (a + n - 1)) = true
    let writes := opens ∧ f.val ≠ 3 ∧ reaches data.length ∧ (replaying s = true → inFeedArea s a data.length = true)
    let view := s.begin.view 2
    let r := ring.val
    let m := 2 ^ s.fld HST_RING0.SIZE r
    let oldTail := s.fld HST_RING1.TAIL r
    let past := fun (x : Nat) => (x + 65536 * m - s.fld HST_RING1.HEAD r) % m
    let key := handleKey (w64 (s.fld HST_RING2.GATE r))
    let entry := fun (t : State) (x : Nat) => tget (fun _ => ({} : MsixEntry)) t.msix x
    let fn := fun (t : State) (x : Nat) => tget (fun _ => ({} : FnSt)) t.fns x
    let x := (fnVectors f.val).1 + vec.toNat
    let irq := bitsOf v 7 0
    (0 < data.length → data.length ≤ 512 →
      (¬ writes → completes (.hostWindowBWrite f off data ep) s fun t => t.out = [.unsupported] ∧ ∀ b, t.byte b = s.byte b) ∧
      (writes → plainRange s a data.length → completes (.hostWindowBWrite f off data ep) s fun t =>
        t.bytes a data.length = data ∧ (ep = true → t.poisoned a data.length = true) ∧
        ∀ b, apart s a (a + data.length) b → apart s 0x403F000000 0x4040000000 b → t.byte b = s.byte b)) ∧
    (0 < n → n ≤ 4096 →
      (¬ (opens ∧ reaches n) → completes (.hostWindowBRead f off n) s fun t => t.out = [.unsupported] ∧ t.mem = s.mem) ∧
      (opens → reaches n →
        (view.firstPoison a n = none → completes (.hostWindowBRead f off n) s fun t => t.out = [.hostData (view.bytes a n) false]) ∧
        (∀ w, view.firstPoison a n = some w → completes (.hostWindowBRead f off n) s fun t =>
          OutMsg.hostData (view.bytes a n) true ∈ t.out ∧ reacted s t 18 (0xC000 + f.val)))) ∧
    ((f.val = 1 ∨ f.val = 2 ∨ windowAReaches s off.toNat = false) → ∀ wr,
      completes (.hostWindowAAccess f off size wr) s fun t => t.out = [.unsupported] ∧ ∀ q i, t.reg q i = s.reg q i) ∧
    ((f.val = 0 ∨ f.val = 3) → windowAReaches s off.toNat = true → recording s = false →
      exec (.hostWindowAAccess f off size (some v)) s =
        exec (.registerWrite (BitVec.ofNat 16 (0xC000 + f.val)) (BitVec.ofNat 40 (0x6000000000 + off.toNat)) size v) s) ∧
    ((f.val = 0 ∨ f.val = 3) → ctlAligned (0x6000000000 + off.toNat) size = false → completes (.hostWindowAAccess f off size none) s fun t =>
      t.out = [.unsupported] ∧ ∀ q i, t.reg q i = s.reg q i) ∧
    (∀ q i, (f.val = 0 ∨ f.val = 3) → windowAReaches s off.toNat = true → RegName.addr q i = 0x6000000000 + off.toNat →
      regAt (RegName.addr q i) = some (q, i) → ctlAligned (RegName.addr q i) 8 = true → readActs s (0xC000 + f.val) q i true = none →
      completes (.hostWindowAAccess f off 8 none) s fun t =>
        t.out = [.hostData (leBytes 8 (regView s q i).toNat) false] ∧ t.reg q i = s.reg q i &&& ~~~(q.accMask [.rc])) ∧
    (s.bit SEC_BOOT.READY 0 = false ∨ f.val ≠ ringFn r → completes (.hostDoorbell f ring tail) s fun t =>
      t.out = [.unsupported] ∧ t.reg .HST_RING1 r = s.reg .HST_RING1 r) ∧
    (s.bit SEC_BOOT.READY 0 = true → f.val = ringFn r →
      ((past tail.toNat < past oldTail ∨ s.bit HST_RING0.EN r = false) → completes (.hostDoorbell f ring tail) s fun t =>
        t.reg .HST_RING1 r = s.reg .HST_RING1 r ∧ told s t 0 ∧
        t.fld HST_STAT.DBREF 0 = min HST_STAT.DBREF.top (s.fld HST_STAT.DBREF 0 + 1)) ∧
      (past oldTail ≤ past tail.toNat → s.bit HST_RING0.EN r = true → completes (.hostDoorbell f ring tail) s fun t =>
        t.fld HST_RING1.TAIL r = tail.toNat ∧ t.fld HST_RING1.HEAD r = s.fld HST_RING1.HEAD r ∧
        (s.bit HST_RING2.GEN r = true → handleOkUnit (w64 (s.fld HST_RING2.GATE r)) false = true → keyIsolated s key = false →
          s.waiters key = [] → gateValue (gateWord t key) = min (2 ^ 31 - 1) (gateValue (gateWord s key) +
            (((tail.toNat + 65536 * m - oldTail) % m : Nat) : Int))))) ∧
    (taken s src .HST_IRQ 0 v = true → completes (.hostIrq src v) s fun t =>
      if (entry s irq).masked = false ∧ (fn s (fnOfVec irq)).msix = true then t.out = [.msi irq] ∧ t.msix = s.msix
      else t.out = [] ∧ entry t irq = { entry s irq with pend := true }) ∧
    (vec.toNat < (fnVectors f.val).2 → completes (.msixTableWrite f vec masked addr dat) s fun t =>
      let sent := (entry s x).pend = true ∧ masked = false ∧ (fn s f.val).msix = true
      (entry t x).masked = masked ∧ (entry t x).addr = addr ∧ (entry t x).data = dat ∧
        (sent → (entry t x).pend = false ∧ OutMsg.msi x ∈ t.out) ∧ (¬ sent → (entry t x).pend = (entry s x).pend)) ∧
    ((fnVectors f.val).2 ≤ vec.toNat → completes (.msixTableWrite f vec masked addr dat) s fun t =>
      t.out = [.unsupported] ∧ t.msix = s.msix) ∧
    (vec.toNat < (fnVectors f.val).2 → completes (.pcieConfigurationRequest f masked on) s fun t =>
      fn t f.val = ⟨masked, on⟩ ∧ (on = true → (entry s x).pend = true → (entry s x).masked = false →
        (entry t x).pend = false ∧ OutMsg.msi x ∈ t.out)) ∧
    completes (.hostFlr f) s (fun t => t.bit HST_WINB.EN f.val = false ∧ fn t f.val = {} ∧ told s t 0 ∧
      (∀ q : Fin 64, t.bit HST_RING0.EN q.val = (s.bit HST_RING0.EN q.val && decide (ringFn q.val ≠ f.val))) ∧
      ∀ y, y < 256 → entry t y = if (fnVectors f.val).1 ≤ y ∧ y < (fnVectors f.val).1 + (fnVectors f.val).2 then {} else entry s y) ∧
    (∀ q i, regAt (RegName.addr q i) = some (q, i) → isControlAddr (RegName.addr q i) = true →
      ctlAligned (RegName.addr q i) 8 = true → readActs s src.toNat q i true = none →
      completes (.registerReadClear src (BitVec.ofNat 40 (RegName.addr q i)) 8) s fun t =>
        t.out = [.readData src.toNat (regView s q i)] ∧ t.reg q i = s.reg q i &&& ~~~(q.accMask [.rc])) ∧
    (taken s src .DBG_MARK 0 v = true → completes (.debugMark src v) s fun t =>
      let q := s.fld DBG_CTL.EVQ 0
      let wr := s.fld CST_EVQ.WR q
      told s t q ∧ ((wr + 1) % 4096 ≠ s.fld CST_EVQ.RD q →
        t.word (evqAddr q + 16 * wr) = w64 (s.stamp + src.toNat * 2 ^ 32 + 0xD001 * 2 ^ 48) ∧
        t.word (evqAddr q + 16 * wr + 8) = v)) ∧
    (∀ d, s.unitDone.find? (fun d => d.1 == 0xE003 && d.2.1 == s.clog.tag - 1) = some d → s.clog.line ≠ 0 →
      completes .changeLogLinePerformed s fun t =>
        if d.2.2 ≤ 2 then t.clog.staged = s.clog.staged.drop s.clog.line ∧
          t.fld CLG_PTR.WR 0 = (s.fld CLG_PTR.WR 0 + s.clog.line) % 2 ^ 20
        else t.clog.staged = s.clog.staged ∧ t.fld CLG_PTR.WR 0 = s.fld CLG_PTR.WR 0) ∧
    (s.unitDone.find? (fun d => d.1 == 0xE003 && d.2.1 == s.clog.tag - 1) = none →
      exec .changeLogLinePerformed s = .next s.begin)

/-! ## Boot, security and resets -/

/-- The module has chosen and run, or refused, the images that a start found, from the boot state k and the registers of r
(R462, R463, R465). -/
def booted (k : BootSt) (r t : State) (b : BootInput) : Prop :=
  let otp := max k.otp b.otpSvn.toNat
  let sl := fun (i : Nat) => slotView (if i = 0 then b.slotA else b.slotB) (k.recs.getD i none)
  let picked := fun (i : Nat) => slotValid (sl i) = true ∧ (slotValid (sl (1 - i)) = false ∨ (sl (1 - i)).seq.toNat < (sl i).seq.toNat)
  let ran := fun (i : Nat) => t.boot.loaded = true ∧ t.boot.slot = i ∧ t.boot.seq = (sl i).seq.toNat ∧
    t.boot.svn = (sl i).svn.toNat ∧ t.bit SEC_BOOT.READY 0 = k.injDone ∧ t.fld DET_KEY.UBUILD 0 = (sl i).ubuild.toNat ∧
    bitsOf (t.reg .SEC_ID 4) 23 16 = i ∧ bitsOf (t.reg .SEC_ID 4) 63 32 = (sl i).seq.toNat ∧
    ((∀ c ∈ (sl i).components, c.meas.val ≠ 0) →
      measBytes t 0 = sha256 (sha256 (measBytes r 0 ++ b.romDigest) ++ (sl i).manifestDigest))
  t.boot.otp = otp ∧ t.boot.waits = false ∧
    (∀ i, i < 2 → picked i →
      (slotAccepted (sl i) otp = true → ran i ∧ t.bit SEC_BOOT.FALLBACK 0 = r.bit SEC_BOOT.FALLBACK 0) ∧
      (slotAccepted (sl i) otp = false → slotAccepted (sl (1 - i)) otp = true →
        ran (1 - i) ∧ t.bit SEC_BOOT.FALLBACK 0 = true)) ∧
    (slotAccepted (sl 0) otp = false → slotAccepted (sl 1) otp = false →
      t.bit SEC_BOOT.RECOVERY 0 = true ∧ t.boot.loaded = k.loaded)

/-- What a warm reset leaves before any image runs: registers of warm, island and engine domain at reset, the time at zero, no
keys, the reset's kind and source in WTM_RSTREC (R352, R470, R484, R486). -/
def warmed (t : State) (kind src : Nat) : Prop :=
  (∀ q i, q.info.dom ≠ .cold → t.reg q i = State.reset.reg q i) ∧ t.tb = {} ∧ t.sec.keyed = [] ∧
    t.sec.aes = none ∧ t.reg .WTM_RSTREC 0 = w64 (kind + src * 2 ^ 16)

/-- An engine's core is at reset but for the counts of its writes and moves, and FAILED (R66, R198, R484). -/
def coreReset (s t : State) (e : Fin 256) : Prop :=
  let k := t.core (.eng e)
  k = { coreDefault e.val with
    fence := k.fence, moves := k.moves, sync := k.sync, state := if (s.core (.eng e)).state = 3 then 3 else 0 }

/-- No unit works on memory. -/
def restful (s : State) : Prop :=
  (∀ e : Fin 256, (s.core (.eng e)).inFlight = []) ∧ s.pend = [] ∧ s.movers = [] ∧ (∀ x, s.edgeJob x = none) ∧ s.sec.aes = none ∧
    s.fld JNL_CTL.STATE 0 = 2 ∧ s.clog.staged = [] ∧ s.bit SEC_FWC_CTL.BUSY 0 = false

/-- When nothing is under way: SEC_ATT with GO starts a report of an area in the Cistern or ends in error; ATTEST_DONE puts
the 480 bytes signed at ADDR and sets DONE. Word 3 of SEC_EXTEND extends measurement register 7. SVNLOCK raises the OTP SVN to
that of the running image. A post onto the decryption ring takes a sound job when none runs; a job whose tag agrees leaves
its plaintext and CODE DONE, and any other zeros with every mark, CODE AUTHFAIL and an event. A key write loads the
slot and leaves the running job as it was. Function 0 starts a commit; it ends REFUSED, VERIFYFAIL with the record erased, or
DONE with the record at the next SEQ; ABORT ends it ABORTED. -/
def Obligations.SecurityUnits : Prop :=
  ∀ (s : State) (src : BitVec 16) (v : Word) (k : Fin 8) (w : BitVec 2) (ok back : Bool) (j : AesJob) (mv : MoverId)
    (d : MvDesc) (rest : List MvDesc) (n : Fin 16), still s = true →
    let at0 := s.fld SEC_ATT.ADDR 0
    let got := bitsOf v 39 0
    let e := aesEntry s j.idx
    let head := s.fld SEC_AES_RING.HEAD 0 % 16
    let tail := bitsOf v 47 40 % 16
    let first := (bitsOf v 39 0) / 64 * 64 + 64 * head
    let words := s.words first 8
    let slot := bitsOf (words.getD 3 0) 2 0
    let job : AesJob := { idx := head, words := words, key := (upFrom (4 * slot) 4).map (tget (fun _ => 0) s.sec.keys) }
    let stg := aesStg s
    let ended := fun (t : State) (code : Nat) => t.bit SEC_FWC_CTL.BUSY 0 = false ∧ t.fld SEC_FWC_CTL.CODE 0 = code ∧ told s t 0
    let target := 1 - s.boot.slot
    (taken s src .SEC_ATT 0 (v ||| bit64 40) = true → completes (.attestGo src v) s fun t =>
      t.fld SEC_ATT.ADDR 0 = got ∧
      if got % 64 = 0 ∧ s.within .cistern got 17568 = true then
        t.bit SEC_ATT.BUSY 0 = true ∧ t.bit SEC_ATT.DONE 0 = false ∧ t.bit SEC_ATT.ERR 0 = false ∧ t.sec.report = reportBody t
      else t.bit SEC_ATT.DONE 0 = true ∧ t.bit SEC_ATT.ERR 0 = true ∧ ∀ a, apart s 0x403F000000 0x4040000000 a → t.byte a = s.byte a) ∧
    (s.bit SEC_ATT.BUSY 0 = false → exec .attestDone s = .next s.begin) ∧
    (s.bit SEC_ATT.BUSY 0 = true → completes .attestDone s fun t =>
      t.bit SEC_ATT.BUSY 0 = false ∧ t.bit SEC_ATT.DONE 0 = true ∧
      (plainRange s at0 17568 → s.sec.report.length = 480 → t.bytes at0 480 = s.sec.report)) ∧
    (taken s src .SEC_EXTEND 3 v = true → completes (.measurementExtend src v) s fun t =>
      src = 0xC000 ∧ measBytes t 7 = sha256 (measBytes s 7 ++
        ((upFrom 0 3).map (tget (fun _ => 0) s.sec.ext) ++ [v]).flatMap fun x => leBytes 8 x.toNat)) ∧
    (taken s src .SEC_BOOT 0 8 = true → completes (.svnLock src) s fun t =>
      (s.boot.loaded = false → t.boot = s.boot) ∧
      (s.boot.loaded = true → t.boot.otp = max s.boot.otp s.boot.svn ∧
        bitsOf (t.reg .SEC_ID 4) 31 24 = max s.boot.otp s.boot.svn % 256)) ∧
    (taken s src .SEC_AES_RING 0 v = true → v.getLsbD 57 = false → v.getLsbD 56 = true → s.sec.aes = none →
      completes (.aesRingPost src v) s fun t => t.fld SEC_AES_RING.TAIL 0 = bitsOf v 47 40 ∧
        (tail = head → t.sec.aes = none ∧ t.fld SEC_AES_RING.HEAD 0 = s.fld SEC_AES_RING.HEAD 0) ∧
        (tail ≠ head → aesBad s job = false → t.fld SEC_AES_RING.HEAD 0 = (head + 1) % 16 ∧
          ∃ x, t.sec.aes = some x ∧ x.idx = head ∧ x.words = words ∧ x.key = job.key ∧ x.pos = 0 ∧
            (0 < job.len → (s.mover (.ring (aesMover s job))).handoff.length < 32 → x.phase = 1 ∧
              ∃ d, (t.mover (.ring (aesMover s job))).handoff = (s.mover (.ring (aesMover s job))).handoff ++ [d] ∧
                d.origin = .unit aesSrc x.tag ∧ d.words.drop 8 = flatNoun job.src job.piece ++ flatNoun stg job.piece)) ∧
        (tail = (head + 1) % 16 → aesBad s job = true → plainRange s first 64 → t.sec.aes = none ∧ t.byte (first + 44) = 3)) ∧
    (s.sec.aes = some j → j.phase = 1 → j.bad = false → (s.mover mv).prog = d :: rest → d.origin = .unit aesSrc j.tag →
      sendPort mv = none → sourcePending s d = false → s.region d.srcN.base ≠ .outbound → s.region d.dstN.base ≠ .outbound →
      plainRange s stg j.piece →
      let u := s.begin.write (Bulk.plain (descBulk (s.begin.view (moverPt mv)) d [])) fun _ => false
      let c := (u.bytes stg j.piece).map BitVec.toNat
      completes (.moverDescriptorComplete mv false []) s fun t => ∃ x, t.sec.aes = some x ∧
        x.bad = t.poisoned stg j.piece ∧ (x.bad = false → x.hash = ghashRun (gcmKey j.schedule) j.hash c ∧
          t.bytes stg j.piece = (gcmPiece j.schedule j.iv j.pos c).map (BitVec.ofNat 8))) ∧
    (s.sec.aes = some j → 4 ≤ j.phase → j.idx = n.val → s.fld SEC_AES_RING.HEAD 0 % 16 = s.fld SEC_AES_RING.TAIL 0 % 16 →
      let good := gcmTag j.schedule j.iv j.hash j.len = ((leBytes 8 (j.w 6).toNat ++ leBytes 8 (j.w 7).toNat).map BitVec.toNat) ∧
        j.bad = false
      ((ok = true ↔ ¬ good) → exec (.aesJobComplete n ok) s = .next s.begin) ∧
      ((ok = true ↔ good) → completes (.aesJobComplete n ok) s fun t => t.sec.aes = none ∧
        (¬ good → told s t 0) ∧
        (plainRange s e 64 → t.byte (e + 44) = if good then 1 else 2) ∧
        (s.within .hbm j.dst j.len = true → ∀ i, i < j.len →
          apart s e (e + 64) (j.dst + i) → apart s 0x403F000000 0x4040000000 (j.dst + i) →
          (good → t.byte (j.dst + i) = s.byte (j.dst + i)) ∧
          (¬ good → t.byte (j.dst + i) = 0 ∧ t.poisoned (j.dst + i) 1 = true)))) ∧
    ((s.sec.aes = none ∨ (s.sec.aes = some j ∧ j.phase < 4)) → exec (.aesJobComplete n ok) s = .next s.begin) ∧
    (taken s src .SEC_KEY (4 * k.val + w.toNat) v = true → completes (.aesKeyWrite src k w v) s fun t =>
      tget (fun _ => 0) t.sec.keys (4 * k.val + w.toNat) = v ∧ t.sec.keyed.contains k.val = true ∧ t.sec.aes = s.sec.aes) ∧
    (taken s src .SEC_FWC_CTL 0 1 = true → completes (.fwCommitGo src) s fun t =>
      if src = 0xC000 then t.bit SEC_FWC_CTL.BUSY 0 = true ∧ t.fld SEC_FWC_CTL.CODE 0 = 0
      else t.bit SEC_FWC_CTL.BUSY 0 = s.bit SEC_FWC_CTL.BUSY 0) ∧
    (s.bit SEC_FWC_CTL.BUSY 0 = false → exec (.fwCommitDone ok back) s = .next s.begin) ∧
    (s.bit SEC_FWC_CTL.BUSY 0 = true → completes (.fwCommitDone ok back) s fun t =>
      if ok = false ∨ fwcImageOk s = false then ended t 2 ∧ t.boot = s.boot
      else ended t (if back then 1 else 3) ∧ (target < s.boot.recs.length →
        t.boot.recs.getD target none = some (if back then some ((s.boot.seq + 1) % 2 ^ 32) else none))) ∧
    (taken s src .SEC_FWC_CTL 0 2 = true → completes (.fwCommitAbort src) s fun t =>
      if s.bit SEC_FWC_CTL.BUSY 0 then ended t 4 else t.boot = s.boot ∧ t.fld SEC_FWC_CTL.CODE 0 = s.fld SEC_FWC_CTL.CODE 0)

/-- Loss of power, and reversed input, from any state, leave every register and byte at reset and the module unpowered. A warm
reset of a module at which nothing is under way, by a register write, the reset pin or PCIe, leaves the registers that are not
of the cold domain at reset, the time at zero and no keys, keeps the bytes of HBM and the Cistern when no unit works
on them, writes the Basins and solver memories zero, and boots again from what the last start found, or waits while the pin
is low and boots when the last pin goes high. A cold reset by a register write loses all memory. POWER_GOOD
boots a module whose plate is in range and leaves it waiting otherwise; TCP_RECHECK tries again. An island reset puts the
island's registers at reset with INRST set until it leaves reset, which is reported; one of an island that takes none is
ignored. An engine reset puts the engine's core, but for FAILED and the
counts of its writes, and its conversion slots at reset, not its queue or memory. -/
def Obligations.BootAndResets : Prop :=
  (∀ s : State, completes .powerLoss s (fun t => alive t = false ∧ (∀ q i, t.reg q i = State.reset.reg q i) ∧ ∀ a, t.byte a = 0) ∧
    completes (.vinReversed true) s fun t => alive t = false ∧ t.boot.reversed = true ∧
      (∀ q i, t.reg q i = State.reset.reg q i) ∧ ∀ a, t.byte a = 0) ∧
  (∀ (s : State) (src : BitVec 16) (p : PcieReset) (pin : ResetPin) (b : BootInput) (tcp : Int) (isl : BitVec 6) (i : Fin 36)
    (e : Fin 256), still s = true →
    let put := fun (n : Nat) => kept s .WTM_RST 0 ||| BitVec.ofNat 64 n
    let lost := fun (t : State) => ∀ a, restful s →
      (s.region a = .cistern ∨ s.region a = .hbm → apart s 0x403F000000 0x4040000000 a → t.byte a = s.byte a) ∧
      ((∃ n, s.region a = .basin n) ∨ (∃ n, s.region a = .lane n) → t.byte a = 0)
    let after := fun (t : State) (kind from' : Nat) =>
      (s.bit SEC_FWC_CTL.BUSY 0 = false → ∀ x, s.boot.last = some x → booted { s.boot with loaded := false, injDone := false } State.reset t x) ∧
      (s.boot.last = none → warmed t kind from' ∧ lost t)
    let dark := s.setBoot { s.boot with pg := false }
    let starts := fun (c : Instr) (u : State) (temp : Int) => (plateIn b.order temp = true → completes c u fun t =>
        booted u.boot s t b ∧ t.fld WTM_THERM.TCP 0 = tempBits temp) ∧
      (plateIn b.order temp = false → completes c u fun t => t.boot.waits = true ∧ t.boot.loaded = u.boot.loaded ∧
        t.fld WTM_THERM.TCP 0 = tempBits temp)
    completes (.vinReversed false) s (fun t => t.boot.reversed = false ∧ ∀ q i, t.reg q i = s.reg q i) ∧
    (taken s src .WTM_RST 0 (put 1) = true → completes (.warmReset src) s fun t => after t 3 src.toNat) ∧
    completes .resetPin s (fun t => alive t = false ∧ warmed t 1 0 ∧ lost t ∧
      (s.bit SEC_FWC_CTL.BUSY 0 = false → b.wellFormed = true →
        completes (.warmResetRelease .rst b) t fun u => booted { s.boot with loaded := false, injDone := false } State.reset u b)) ∧
    completes (.pcieConventionalReset p) s (fun t =>
      if p = .perst then alive t = false ∧ warmed t 2 0 ∧ lost t else after t 2 0) ∧
    (b.wellFormed = true → completes (.warmResetRelease pin b) s fun t => t.boot = s.boot ∧ ∀ q x, t.reg q x = s.reg q x) ∧
    (taken s src .WTM_RST 0 (put 2) = true → completes (.coldReset src) s fun t =>
      (s.boot.last = none → (∀ q x, t.reg q x = State.reset.reg q x) ∧ ∀ a, t.byte a = 0) ∧
      (s.bit SEC_FWC_CTL.BUSY 0 = false → ∀ x, s.boot.last = some x →
        booted { s.boot with loaded := false, injDone := false } State.reset t x)) ∧
    (b.wellFormed = true → s.boot.loaded = false → s.boot.waits = false → s.boot.reversed = false →
      starts (.powerGood b) dark b.tcp) ∧
    (b.wellFormed = true → s.boot.waits = true → starts (.tcpRecheck tcp b) s tcp) ∧
    (taken s src .WTM_RST 0 (putBits (kept s .WTM_RST 0) 9 4 isl.toNat ||| 4) = true → completes (.islandReset src isl) s fun t =>
      t.bit WTM_ISL.INRST isl.toNat = true ∧
      (∀ q x, q.info.dom = .island ∨ q.info.dom = .engine → regIsland q x = isl.toNat → t.reg q x = State.reset.reg q x) ∧
      (isl.toNat < 17 → isl.toNat ≠ 8 → e.val / 16 = clusterOf isl.toNat → coreReset s t e)) ∧
    (mayWrite s src.toNat .WTM_RST = true → islandFixed isl.toNat = true →
      regWaits s src.toNat .WTM_RST 0 (putBits (kept s .WTM_RST 0) 9 4 isl.toNat ||| 4) = false →
      completes (.islandReset src isl) s fun t => ∀ x, t.reg .WTM_ISL x = s.reg .WTM_ISL x) ∧
    completes (.islandResetExit i) (s.setBit WTM_ISL.INRST i.val true) (fun t =>
      t.bit WTM_ISL.INRST i.val = false ∧ told s t (s.fld WTM_CTL.EVQ 0)) ∧
    (s.bit WTM_ISL.INRST i.val = false → exec (.islandResetExit i) s = .next s.begin) ∧
    (taken s src .WTM_RST 0 (putBits (kept s .WTM_RST 0) 17 10 e.val ||| 8) = true → completes (.engineReset src e) s fun t =>
      coreReset s t e ∧ (∀ x, x < 8 → t.reg .FE_CVTS (8 * e.val + x) = 0) ∧
      t.reg .FE_TQ e.val = s.reg .FE_TQ e.val ∧
      ((s.core (.eng e)).inFlight = [] → (t.core (.eng e)).fence = (s.core (.eng e)).fence ∧ ∀ a, apart s 0x403F000000 0x4040000000 a → t.byte a = s.byte a)))
end

