-- ==== Sys2Proof/Laws/State.lean ====
section
/-! SUPPORT. What each named update of the state does to each field, one lemma for each, so that no later proof
unfolds a record update. -/

namespace Sys2Proof.Machine

@[simp] theorem State.setReg_mem (s : State) (r : RegName) (i : Nat) (v : Word) : (s.setReg r i v).mem = s.mem := rfl
@[simp] theorem State.setReg_marks (s : State) (r : RegName) (i : Nat) (v : Word) : (s.setReg r i v).marks = s.marks := rfl
@[simp] theorem State.setReg_wlog (s : State) (r : RegName) (i : Nat) (v : Word) : (s.setReg r i v).wlog = s.wlog := rfl
@[simp] theorem State.setReg_latent (s : State) (r : RegName) (i : Nat) (v : Word) : (s.setReg r i v).latent = s.latent := rfl
@[simp] theorem State.setReg_cores (s : State) (r : RegName) (i : Nat) (v : Word) : (s.setReg r i v).cores = s.cores := rfl
@[simp] theorem State.setReg_movers (s : State) (r : RegName) (i : Nat) (v : Word) : (s.setReg r i v).movers = s.movers := rfl
@[simp] theorem State.setReg_pend (s : State) (r : RegName) (i : Nat) (v : Word) : (s.setReg r i v).pend = s.pend := rfl
@[simp] theorem State.setReg_accSeq (s : State) (r : RegName) (i : Nat) (v : Word) : (s.setReg r i v).accSeq = s.accSeq := rfl
@[simp] theorem State.setReg_banks (s : State) (r : RegName) (i : Nat) (v : Word) : (s.setReg r i v).banks = s.banks := rfl
@[simp] theorem State.setReg_perf (s : State) (r : RegName) (i : Nat) (v : Word) : (s.setReg r i v).perf = s.perf := rfl
@[simp] theorem State.setReg_gateW (s : State) (r : RegName) (i : Nat) (v : Word) : (s.setReg r i v).gateW = s.gateW := rfl
@[simp] theorem State.setReg_gateL (s : State) (r : RegName) (i : Nat) (v : Word) : (s.setReg r i v).gateL = s.gateL := rfl
@[simp] theorem State.setReg_checks (s : State) (r : RegName) (i : Nat) (v : Word) : (s.setReg r i v).checks = s.checks := rfl
@[simp] theorem State.setReg_sluice (s : State) (r : RegName) (i : Nat) (v : Word) : (s.setReg r i v).sluice = s.sluice := rfl
@[simp] theorem State.setReg_tb (s : State) (r : RegName) (i : Nat) (v : Word) : (s.setReg r i v).tb = s.tb := rfl
@[simp] theorem State.setReg_part (s : State) (r : RegName) (i : Nat) (v : Word) : (s.setReg r i v).part = s.part := rfl
@[simp] theorem State.setReg_raised (s : State) (r : RegName) (i : Nat) (v : Word) : (s.setReg r i v).raised = s.raised := rfl
@[simp] theorem State.setReg_out (s : State) (r : RegName) (i : Nat) (v : Word) : (s.setReg r i v).out = s.out := rfl
@[simp] theorem State.setReg_freeCtr (s : State) (r : RegName) (i : Nat) (v : Word) : (s.setReg r i v).freeCtr = s.freeCtr := rfl
@[simp] theorem State.setReg_held (s : State) (r : RegName) (i : Nat) (v : Word) : (s.setReg r i v).held = s.held := rfl
@[simp] theorem State.setReg_clog (s : State) (r : RegName) (i : Nat) (v : Word) : (s.setReg r i v).clog = s.clog := rfl
@[simp] theorem State.setReg_msix (s : State) (r : RegName) (i : Nat) (v : Word) : (s.setReg r i v).msix = s.msix := rfl
@[simp] theorem State.setReg_fns (s : State) (r : RegName) (i : Nat) (v : Word) : (s.setReg r i v).fns = s.fns := rfl
@[simp] theorem State.setReg_nowLatch (s : State) (r : RegName) (i : Nat) (v : Word) : (s.setReg r i v).nowLatch = s.nowLatch := rfl
@[simp] theorem State.setReg_bankUE (s : State) (r : RegName) (i : Nat) (v : Word) : (s.setReg r i v).bankUE = s.bankUE := rfl
@[simp] theorem State.setReg_served (s : State) (r : RegName) (i : Nat) (v : Word) : (s.setReg r i v).served = s.served := rfl
@[simp] theorem State.setReg_landed (s : State) (r : RegName) (i : Nat) (v : Word) : (s.setReg r i v).landed = s.landed := rfl
@[simp] theorem State.setReg_dvl (s : State) (r : RegName) (i : Nat) (v : Word) : (s.setReg r i v).dvl = s.dvl := rfl
@[simp] theorem State.setReg_unitDone (s : State) (r : RegName) (i : Nat) (v : Word) : (s.setReg r i v).unitDone = s.unitDone := rfl
@[simp] theorem State.setReg_walkers (s : State) (r : RegName) (i : Nat) (v : Word) : (s.setReg r i v).walkers = s.walkers := rfl
@[simp] theorem State.setReg_stalls (s : State) (r : RegName) (i : Nat) (v : Word) : (s.setReg r i v).stalls = s.stalls := rfl
@[simp] theorem State.setReg_cropSeq (s : State) (r : RegName) (i : Nat) (v : Word) : (s.setReg r i v).cropSeq = s.cropSeq := rfl
@[simp] theorem State.setReg_edge (s : State) (r : RegName) (i : Nat) (v : Word) : (s.setReg r i v).edge = s.edge := rfl
@[simp] theorem State.setReg_txPsn (s : State) (r : RegName) (i : Nat) (v : Word) : (s.setReg r i v).txPsn = s.txPsn := rfl
@[simp] theorem State.setReg_mbx (s : State) (r : RegName) (i : Nat) (v : Word) : (s.setReg r i v).mbx = s.mbx := rfl
@[simp] theorem State.setReg_can (s : State) (r : RegName) (i : Nat) (v : Word) : (s.setReg r i v).can = s.can := rfl
@[simp] theorem State.setReg_eth (s : State) (r : RegName) (i : Nat) (v : Word) : (s.setReg r i v).eth = s.eth := rfl
@[simp] theorem State.setReg_arrivals (s : State) (r : RegName) (i : Nat) (v : Word) : (s.setReg r i v).arrivals = s.arrivals := rfl
@[simp] theorem State.setReg_arrNum (s : State) (r : RegName) (i : Nat) (v : Word) : (s.setReg r i v).arrNum = s.arrNum := rfl
@[simp] theorem State.setReg_loops (s : State) (r : RegName) (i : Nat) (v : Word) : (s.setReg r i v).loops = s.loops := rfl
@[simp] theorem State.setReg_inj (s : State) (r : RegName) (i : Nat) (v : Word) : (s.setReg r i v).inj = s.inj := rfl
@[simp] theorem State.setReg_cap (s : State) (r : RegName) (i : Nat) (v : Word) : (s.setReg r i v).cap = s.cap := rfl
@[simp] theorem State.setReg_jnl (s : State) (r : RegName) (i : Nat) (v : Word) : (s.setReg r i v).jnl = s.jnl := rfl
@[simp] theorem State.setReg_ls (s : State) (r : RegName) (i : Nat) (v : Word) : (s.setReg r i v).ls = s.ls := rfl
@[simp] theorem State.setReg_drd (s : State) (r : RegName) (i : Nat) (v : Word) : (s.setReg r i v).drd = s.drd := rfl
@[simp] theorem State.setReg_tbPend (s : State) (r : RegName) (i : Nat) (v : Word) : (s.setReg r i v).tbPend = s.tbPend := rfl
@[simp] theorem State.setReg_chans (s : State) (r : RegName) (i : Nat) (v : Word) : (s.setReg r i v).chans = s.chans := rfl
@[simp] theorem State.setReg_stripeSeq (s : State) (r : RegName) (i : Nat) (v : Word) : (s.setReg r i v).stripeSeq = s.stripeSeq := rfl
@[simp] theorem State.setReg_stripeNs (s : State) (r : RegName) (i : Nat) (v : Word) : (s.setReg r i v).stripeNs = s.stripeNs := rfl
@[simp] theorem State.setReg_turn (s : State) (r : RegName) (i : Nat) (v : Word) : (s.setReg r i v).turn = s.turn := rfl
@[simp] theorem State.setReg_fb (s : State) (r : RegName) (i : Nat) (v : Word) : (s.setReg r i v).fb = s.fb := rfl
@[simp] theorem State.setReg_lanes (s : State) (r : RegName) (i : Nat) (v : Word) : (s.setReg r i v).lanes = s.lanes := rfl
@[simp] theorem State.setReg_scrubAt (s : State) (r : RegName) (i : Nat) (v : Word) : (s.setReg r i v).scrubAt = s.scrubAt := rfl
@[simp] theorem State.setReg_boot (s : State) (r : RegName) (i : Nat) (v : Word) : (s.setReg r i v).boot = s.boot := rfl
@[simp] theorem State.setReg_sec (s : State) (r : RegName) (i : Nat) (v : Word) : (s.setReg r i v).sec = s.sec := rfl
@[simp] theorem State.setReg_wtm (s : State) (r : RegName) (i : Nat) (v : Word) : (s.setReg r i v).wtm = s.wtm := rfl
@[simp] theorem State.setReg_hbmArb (s : State) (r : RegName) (i : Nat) (v : Word) : (s.setReg r i v).hbmArb = s.hbmArb := rfl
@[simp] theorem State.setReg_basinArb (s : State) (r : RegName) (i : Nat) (v : Word) : (s.setReg r i v).basinArb = s.basinArb := rfl
@[simp] theorem State.setReg_pending (s : State) (r : RegName) (i : Nat) (v : Word) : (s.setReg r i v).pending = s.pending := rfl

@[simp] theorem State.setFld_mem (s : State) (f : Fld) (i n : Nat) : (s.setFld f i n).mem = s.mem := rfl
@[simp] theorem State.setFld_marks (s : State) (f : Fld) (i n : Nat) : (s.setFld f i n).marks = s.marks := rfl
@[simp] theorem State.setFld_wlog (s : State) (f : Fld) (i n : Nat) : (s.setFld f i n).wlog = s.wlog := rfl
@[simp] theorem State.setFld_latent (s : State) (f : Fld) (i n : Nat) : (s.setFld f i n).latent = s.latent := rfl
@[simp] theorem State.setFld_cores (s : State) (f : Fld) (i n : Nat) : (s.setFld f i n).cores = s.cores := rfl
@[simp] theorem State.setFld_movers (s : State) (f : Fld) (i n : Nat) : (s.setFld f i n).movers = s.movers := rfl
@[simp] theorem State.setFld_pend (s : State) (f : Fld) (i n : Nat) : (s.setFld f i n).pend = s.pend := rfl
@[simp] theorem State.setFld_accSeq (s : State) (f : Fld) (i n : Nat) : (s.setFld f i n).accSeq = s.accSeq := rfl
@[simp] theorem State.setFld_banks (s : State) (f : Fld) (i n : Nat) : (s.setFld f i n).banks = s.banks := rfl
@[simp] theorem State.setFld_perf (s : State) (f : Fld) (i n : Nat) : (s.setFld f i n).perf = s.perf := rfl
@[simp] theorem State.setFld_gateW (s : State) (f : Fld) (i n : Nat) : (s.setFld f i n).gateW = s.gateW := rfl
@[simp] theorem State.setFld_gateL (s : State) (f : Fld) (i n : Nat) : (s.setFld f i n).gateL = s.gateL := rfl
@[simp] theorem State.setFld_checks (s : State) (f : Fld) (i n : Nat) : (s.setFld f i n).checks = s.checks := rfl
@[simp] theorem State.setFld_sluice (s : State) (f : Fld) (i n : Nat) : (s.setFld f i n).sluice = s.sluice := rfl
@[simp] theorem State.setFld_tb (s : State) (f : Fld) (i n : Nat) : (s.setFld f i n).tb = s.tb := rfl
@[simp] theorem State.setFld_part (s : State) (f : Fld) (i n : Nat) : (s.setFld f i n).part = s.part := rfl
@[simp] theorem State.setFld_raised (s : State) (f : Fld) (i n : Nat) : (s.setFld f i n).raised = s.raised := rfl
@[simp] theorem State.setFld_out (s : State) (f : Fld) (i n : Nat) : (s.setFld f i n).out = s.out := rfl
@[simp] theorem State.setFld_freeCtr (s : State) (f : Fld) (i n : Nat) : (s.setFld f i n).freeCtr = s.freeCtr := rfl
@[simp] theorem State.setFld_held (s : State) (f : Fld) (i n : Nat) : (s.setFld f i n).held = s.held := rfl
@[simp] theorem State.setFld_clog (s : State) (f : Fld) (i n : Nat) : (s.setFld f i n).clog = s.clog := rfl
@[simp] theorem State.setFld_msix (s : State) (f : Fld) (i n : Nat) : (s.setFld f i n).msix = s.msix := rfl
@[simp] theorem State.setFld_fns (s : State) (f : Fld) (i n : Nat) : (s.setFld f i n).fns = s.fns := rfl
@[simp] theorem State.setFld_nowLatch (s : State) (f : Fld) (i n : Nat) : (s.setFld f i n).nowLatch = s.nowLatch := rfl
@[simp] theorem State.setFld_bankUE (s : State) (f : Fld) (i n : Nat) : (s.setFld f i n).bankUE = s.bankUE := rfl
@[simp] theorem State.setFld_served (s : State) (f : Fld) (i n : Nat) : (s.setFld f i n).served = s.served := rfl
@[simp] theorem State.setFld_landed (s : State) (f : Fld) (i n : Nat) : (s.setFld f i n).landed = s.landed := rfl
@[simp] theorem State.setFld_dvl (s : State) (f : Fld) (i n : Nat) : (s.setFld f i n).dvl = s.dvl := rfl
@[simp] theorem State.setFld_unitDone (s : State) (f : Fld) (i n : Nat) : (s.setFld f i n).unitDone = s.unitDone := rfl
@[simp] theorem State.setFld_walkers (s : State) (f : Fld) (i n : Nat) : (s.setFld f i n).walkers = s.walkers := rfl
@[simp] theorem State.setFld_stalls (s : State) (f : Fld) (i n : Nat) : (s.setFld f i n).stalls = s.stalls := rfl
@[simp] theorem State.setFld_cropSeq (s : State) (f : Fld) (i n : Nat) : (s.setFld f i n).cropSeq = s.cropSeq := rfl
@[simp] theorem State.setFld_edge (s : State) (f : Fld) (i n : Nat) : (s.setFld f i n).edge = s.edge := rfl
@[simp] theorem State.setFld_txPsn (s : State) (f : Fld) (i n : Nat) : (s.setFld f i n).txPsn = s.txPsn := rfl
@[simp] theorem State.setFld_mbx (s : State) (f : Fld) (i n : Nat) : (s.setFld f i n).mbx = s.mbx := rfl
@[simp] theorem State.setFld_can (s : State) (f : Fld) (i n : Nat) : (s.setFld f i n).can = s.can := rfl
@[simp] theorem State.setFld_eth (s : State) (f : Fld) (i n : Nat) : (s.setFld f i n).eth = s.eth := rfl
@[simp] theorem State.setFld_arrivals (s : State) (f : Fld) (i n : Nat) : (s.setFld f i n).arrivals = s.arrivals := rfl
@[simp] theorem State.setFld_arrNum (s : State) (f : Fld) (i n : Nat) : (s.setFld f i n).arrNum = s.arrNum := rfl
@[simp] theorem State.setFld_loops (s : State) (f : Fld) (i n : Nat) : (s.setFld f i n).loops = s.loops := rfl
@[simp] theorem State.setFld_inj (s : State) (f : Fld) (i n : Nat) : (s.setFld f i n).inj = s.inj := rfl
@[simp] theorem State.setFld_cap (s : State) (f : Fld) (i n : Nat) : (s.setFld f i n).cap = s.cap := rfl
@[simp] theorem State.setFld_jnl (s : State) (f : Fld) (i n : Nat) : (s.setFld f i n).jnl = s.jnl := rfl
@[simp] theorem State.setFld_ls (s : State) (f : Fld) (i n : Nat) : (s.setFld f i n).ls = s.ls := rfl
@[simp] theorem State.setFld_drd (s : State) (f : Fld) (i n : Nat) : (s.setFld f i n).drd = s.drd := rfl
@[simp] theorem State.setFld_tbPend (s : State) (f : Fld) (i n : Nat) : (s.setFld f i n).tbPend = s.tbPend := rfl
@[simp] theorem State.setFld_chans (s : State) (f : Fld) (i n : Nat) : (s.setFld f i n).chans = s.chans := rfl
@[simp] theorem State.setFld_stripeSeq (s : State) (f : Fld) (i n : Nat) : (s.setFld f i n).stripeSeq = s.stripeSeq := rfl
@[simp] theorem State.setFld_stripeNs (s : State) (f : Fld) (i n : Nat) : (s.setFld f i n).stripeNs = s.stripeNs := rfl
@[simp] theorem State.setFld_turn (s : State) (f : Fld) (i n : Nat) : (s.setFld f i n).turn = s.turn := rfl
@[simp] theorem State.setFld_fb (s : State) (f : Fld) (i n : Nat) : (s.setFld f i n).fb = s.fb := rfl
@[simp] theorem State.setFld_lanes (s : State) (f : Fld) (i n : Nat) : (s.setFld f i n).lanes = s.lanes := rfl
@[simp] theorem State.setFld_scrubAt (s : State) (f : Fld) (i n : Nat) : (s.setFld f i n).scrubAt = s.scrubAt := rfl
@[simp] theorem State.setFld_boot (s : State) (f : Fld) (i n : Nat) : (s.setFld f i n).boot = s.boot := rfl
@[simp] theorem State.setFld_sec (s : State) (f : Fld) (i n : Nat) : (s.setFld f i n).sec = s.sec := rfl
@[simp] theorem State.setFld_wtm (s : State) (f : Fld) (i n : Nat) : (s.setFld f i n).wtm = s.wtm := rfl
@[simp] theorem State.setFld_hbmArb (s : State) (f : Fld) (i n : Nat) : (s.setFld f i n).hbmArb = s.hbmArb := rfl
@[simp] theorem State.setFld_basinArb (s : State) (f : Fld) (i n : Nat) : (s.setFld f i n).basinArb = s.basinArb := rfl
@[simp] theorem State.setFld_pending (s : State) (f : Fld) (i n : Nat) : (s.setFld f i n).pending = s.pending := rfl

@[simp] theorem State.setBit_mem (s : State) (f : Fld) (i : Nat) (b : Bool) : (s.setBit f i b).mem = s.mem := rfl
@[simp] theorem State.setBit_marks (s : State) (f : Fld) (i : Nat) (b : Bool) : (s.setBit f i b).marks = s.marks := rfl
@[simp] theorem State.setBit_wlog (s : State) (f : Fld) (i : Nat) (b : Bool) : (s.setBit f i b).wlog = s.wlog := rfl
@[simp] theorem State.setBit_latent (s : State) (f : Fld) (i : Nat) (b : Bool) : (s.setBit f i b).latent = s.latent := rfl
@[simp] theorem State.setBit_cores (s : State) (f : Fld) (i : Nat) (b : Bool) : (s.setBit f i b).cores = s.cores := rfl
@[simp] theorem State.setBit_movers (s : State) (f : Fld) (i : Nat) (b : Bool) : (s.setBit f i b).movers = s.movers := rfl
@[simp] theorem State.setBit_pend (s : State) (f : Fld) (i : Nat) (b : Bool) : (s.setBit f i b).pend = s.pend := rfl
@[simp] theorem State.setBit_accSeq (s : State) (f : Fld) (i : Nat) (b : Bool) : (s.setBit f i b).accSeq = s.accSeq := rfl
@[simp] theorem State.setBit_banks (s : State) (f : Fld) (i : Nat) (b : Bool) : (s.setBit f i b).banks = s.banks := rfl
@[simp] theorem State.setBit_perf (s : State) (f : Fld) (i : Nat) (b : Bool) : (s.setBit f i b).perf = s.perf := rfl
@[simp] theorem State.setBit_gateW (s : State) (f : Fld) (i : Nat) (b : Bool) : (s.setBit f i b).gateW = s.gateW := rfl
@[simp] theorem State.setBit_gateL (s : State) (f : Fld) (i : Nat) (b : Bool) : (s.setBit f i b).gateL = s.gateL := rfl
@[simp] theorem State.setBit_checks (s : State) (f : Fld) (i : Nat) (b : Bool) : (s.setBit f i b).checks = s.checks := rfl
@[simp] theorem State.setBit_sluice (s : State) (f : Fld) (i : Nat) (b : Bool) : (s.setBit f i b).sluice = s.sluice := rfl
@[simp] theorem State.setBit_tb (s : State) (f : Fld) (i : Nat) (b : Bool) : (s.setBit f i b).tb = s.tb := rfl
@[simp] theorem State.setBit_part (s : State) (f : Fld) (i : Nat) (b : Bool) : (s.setBit f i b).part = s.part := rfl
@[simp] theorem State.setBit_raised (s : State) (f : Fld) (i : Nat) (b : Bool) : (s.setBit f i b).raised = s.raised := rfl
@[simp] theorem State.setBit_out (s : State) (f : Fld) (i : Nat) (b : Bool) : (s.setBit f i b).out = s.out := rfl
@[simp] theorem State.setBit_freeCtr (s : State) (f : Fld) (i : Nat) (b : Bool) : (s.setBit f i b).freeCtr = s.freeCtr := rfl
@[simp] theorem State.setBit_held (s : State) (f : Fld) (i : Nat) (b : Bool) : (s.setBit f i b).held = s.held := rfl
@[simp] theorem State.setBit_clog (s : State) (f : Fld) (i : Nat) (b : Bool) : (s.setBit f i b).clog = s.clog := rfl
@[simp] theorem State.setBit_msix (s : State) (f : Fld) (i : Nat) (b : Bool) : (s.setBit f i b).msix = s.msix := rfl
@[simp] theorem State.setBit_fns (s : State) (f : Fld) (i : Nat) (b : Bool) : (s.setBit f i b).fns = s.fns := rfl
@[simp] theorem State.setBit_nowLatch (s : State) (f : Fld) (i : Nat) (b : Bool) : (s.setBit f i b).nowLatch = s.nowLatch := rfl
@[simp] theorem State.setBit_bankUE (s : State) (f : Fld) (i : Nat) (b : Bool) : (s.setBit f i b).bankUE = s.bankUE := rfl
@[simp] theorem State.setBit_served (s : State) (f : Fld) (i : Nat) (b : Bool) : (s.setBit f i b).served = s.served := rfl
@[simp] theorem State.setBit_landed (s : State) (f : Fld) (i : Nat) (b : Bool) : (s.setBit f i b).landed = s.landed := rfl
@[simp] theorem State.setBit_dvl (s : State) (f : Fld) (i : Nat) (b : Bool) : (s.setBit f i b).dvl = s.dvl := rfl
@[simp] theorem State.setBit_unitDone (s : State) (f : Fld) (i : Nat) (b : Bool) : (s.setBit f i b).unitDone = s.unitDone := rfl
@[simp] theorem State.setBit_walkers (s : State) (f : Fld) (i : Nat) (b : Bool) : (s.setBit f i b).walkers = s.walkers := rfl
@[simp] theorem State.setBit_stalls (s : State) (f : Fld) (i : Nat) (b : Bool) : (s.setBit f i b).stalls = s.stalls := rfl
@[simp] theorem State.setBit_cropSeq (s : State) (f : Fld) (i : Nat) (b : Bool) : (s.setBit f i b).cropSeq = s.cropSeq := rfl
@[simp] theorem State.setBit_edge (s : State) (f : Fld) (i : Nat) (b : Bool) : (s.setBit f i b).edge = s.edge := rfl
@[simp] theorem State.setBit_txPsn (s : State) (f : Fld) (i : Nat) (b : Bool) : (s.setBit f i b).txPsn = s.txPsn := rfl
@[simp] theorem State.setBit_mbx (s : State) (f : Fld) (i : Nat) (b : Bool) : (s.setBit f i b).mbx = s.mbx := rfl
@[simp] theorem State.setBit_can (s : State) (f : Fld) (i : Nat) (b : Bool) : (s.setBit f i b).can = s.can := rfl
@[simp] theorem State.setBit_eth (s : State) (f : Fld) (i : Nat) (b : Bool) : (s.setBit f i b).eth = s.eth := rfl
@[simp] theorem State.setBit_arrivals (s : State) (f : Fld) (i : Nat) (b : Bool) : (s.setBit f i b).arrivals = s.arrivals := rfl
@[simp] theorem State.setBit_arrNum (s : State) (f : Fld) (i : Nat) (b : Bool) : (s.setBit f i b).arrNum = s.arrNum := rfl
@[simp] theorem State.setBit_loops (s : State) (f : Fld) (i : Nat) (b : Bool) : (s.setBit f i b).loops = s.loops := rfl
@[simp] theorem State.setBit_inj (s : State) (f : Fld) (i : Nat) (b : Bool) : (s.setBit f i b).inj = s.inj := rfl
@[simp] theorem State.setBit_cap (s : State) (f : Fld) (i : Nat) (b : Bool) : (s.setBit f i b).cap = s.cap := rfl
@[simp] theorem State.setBit_jnl (s : State) (f : Fld) (i : Nat) (b : Bool) : (s.setBit f i b).jnl = s.jnl := rfl
@[simp] theorem State.setBit_ls (s : State) (f : Fld) (i : Nat) (b : Bool) : (s.setBit f i b).ls = s.ls := rfl
@[simp] theorem State.setBit_drd (s : State) (f : Fld) (i : Nat) (b : Bool) : (s.setBit f i b).drd = s.drd := rfl
@[simp] theorem State.setBit_tbPend (s : State) (f : Fld) (i : Nat) (b : Bool) : (s.setBit f i b).tbPend = s.tbPend := rfl
@[simp] theorem State.setBit_chans (s : State) (f : Fld) (i : Nat) (b : Bool) : (s.setBit f i b).chans = s.chans := rfl
@[simp] theorem State.setBit_stripeSeq (s : State) (f : Fld) (i : Nat) (b : Bool) : (s.setBit f i b).stripeSeq = s.stripeSeq := rfl
@[simp] theorem State.setBit_stripeNs (s : State) (f : Fld) (i : Nat) (b : Bool) : (s.setBit f i b).stripeNs = s.stripeNs := rfl
@[simp] theorem State.setBit_turn (s : State) (f : Fld) (i : Nat) (b : Bool) : (s.setBit f i b).turn = s.turn := rfl
@[simp] theorem State.setBit_fb (s : State) (f : Fld) (i : Nat) (b : Bool) : (s.setBit f i b).fb = s.fb := rfl
@[simp] theorem State.setBit_lanes (s : State) (f : Fld) (i : Nat) (b : Bool) : (s.setBit f i b).lanes = s.lanes := rfl
@[simp] theorem State.setBit_scrubAt (s : State) (f : Fld) (i : Nat) (b : Bool) : (s.setBit f i b).scrubAt = s.scrubAt := rfl
@[simp] theorem State.setBit_boot (s : State) (f : Fld) (i : Nat) (b : Bool) : (s.setBit f i b).boot = s.boot := rfl
@[simp] theorem State.setBit_sec (s : State) (f : Fld) (i : Nat) (b : Bool) : (s.setBit f i b).sec = s.sec := rfl
@[simp] theorem State.setBit_wtm (s : State) (f : Fld) (i : Nat) (b : Bool) : (s.setBit f i b).wtm = s.wtm := rfl
@[simp] theorem State.setBit_hbmArb (s : State) (f : Fld) (i : Nat) (b : Bool) : (s.setBit f i b).hbmArb = s.hbmArb := rfl
@[simp] theorem State.setBit_basinArb (s : State) (f : Fld) (i : Nat) (b : Bool) : (s.setBit f i b).basinArb = s.basinArb := rfl
@[simp] theorem State.setBit_pending (s : State) (f : Fld) (i : Nat) (b : Bool) : (s.setBit f i b).pending = s.pending := rfl

@[simp] theorem State.satAdd_mem (s : State) (f : Fld) (i n : Nat) : (s.satAdd f i n).mem = s.mem := rfl
@[simp] theorem State.satAdd_marks (s : State) (f : Fld) (i n : Nat) : (s.satAdd f i n).marks = s.marks := rfl
@[simp] theorem State.satAdd_wlog (s : State) (f : Fld) (i n : Nat) : (s.satAdd f i n).wlog = s.wlog := rfl
@[simp] theorem State.satAdd_latent (s : State) (f : Fld) (i n : Nat) : (s.satAdd f i n).latent = s.latent := rfl
@[simp] theorem State.satAdd_cores (s : State) (f : Fld) (i n : Nat) : (s.satAdd f i n).cores = s.cores := rfl
@[simp] theorem State.satAdd_movers (s : State) (f : Fld) (i n : Nat) : (s.satAdd f i n).movers = s.movers := rfl
@[simp] theorem State.satAdd_pend (s : State) (f : Fld) (i n : Nat) : (s.satAdd f i n).pend = s.pend := rfl
@[simp] theorem State.satAdd_accSeq (s : State) (f : Fld) (i n : Nat) : (s.satAdd f i n).accSeq = s.accSeq := rfl
@[simp] theorem State.satAdd_banks (s : State) (f : Fld) (i n : Nat) : (s.satAdd f i n).banks = s.banks := rfl
@[simp] theorem State.satAdd_perf (s : State) (f : Fld) (i n : Nat) : (s.satAdd f i n).perf = s.perf := rfl
@[simp] theorem State.satAdd_gateW (s : State) (f : Fld) (i n : Nat) : (s.satAdd f i n).gateW = s.gateW := rfl
@[simp] theorem State.satAdd_gateL (s : State) (f : Fld) (i n : Nat) : (s.satAdd f i n).gateL = s.gateL := rfl
@[simp] theorem State.satAdd_checks (s : State) (f : Fld) (i n : Nat) : (s.satAdd f i n).checks = s.checks := rfl
@[simp] theorem State.satAdd_sluice (s : State) (f : Fld) (i n : Nat) : (s.satAdd f i n).sluice = s.sluice := rfl
@[simp] theorem State.satAdd_tb (s : State) (f : Fld) (i n : Nat) : (s.satAdd f i n).tb = s.tb := rfl
@[simp] theorem State.satAdd_part (s : State) (f : Fld) (i n : Nat) : (s.satAdd f i n).part = s.part := rfl
@[simp] theorem State.satAdd_raised (s : State) (f : Fld) (i n : Nat) : (s.satAdd f i n).raised = s.raised := rfl
@[simp] theorem State.satAdd_out (s : State) (f : Fld) (i n : Nat) : (s.satAdd f i n).out = s.out := rfl
@[simp] theorem State.satAdd_freeCtr (s : State) (f : Fld) (i n : Nat) : (s.satAdd f i n).freeCtr = s.freeCtr := rfl
@[simp] theorem State.satAdd_held (s : State) (f : Fld) (i n : Nat) : (s.satAdd f i n).held = s.held := rfl
@[simp] theorem State.satAdd_clog (s : State) (f : Fld) (i n : Nat) : (s.satAdd f i n).clog = s.clog := rfl
@[simp] theorem State.satAdd_msix (s : State) (f : Fld) (i n : Nat) : (s.satAdd f i n).msix = s.msix := rfl
@[simp] theorem State.satAdd_fns (s : State) (f : Fld) (i n : Nat) : (s.satAdd f i n).fns = s.fns := rfl
@[simp] theorem State.satAdd_nowLatch (s : State) (f : Fld) (i n : Nat) : (s.satAdd f i n).nowLatch = s.nowLatch := rfl
@[simp] theorem State.satAdd_bankUE (s : State) (f : Fld) (i n : Nat) : (s.satAdd f i n).bankUE = s.bankUE := rfl
@[simp] theorem State.satAdd_served (s : State) (f : Fld) (i n : Nat) : (s.satAdd f i n).served = s.served := rfl
@[simp] theorem State.satAdd_landed (s : State) (f : Fld) (i n : Nat) : (s.satAdd f i n).landed = s.landed := rfl
@[simp] theorem State.satAdd_dvl (s : State) (f : Fld) (i n : Nat) : (s.satAdd f i n).dvl = s.dvl := rfl
@[simp] theorem State.satAdd_unitDone (s : State) (f : Fld) (i n : Nat) : (s.satAdd f i n).unitDone = s.unitDone := rfl
@[simp] theorem State.satAdd_walkers (s : State) (f : Fld) (i n : Nat) : (s.satAdd f i n).walkers = s.walkers := rfl
@[simp] theorem State.satAdd_stalls (s : State) (f : Fld) (i n : Nat) : (s.satAdd f i n).stalls = s.stalls := rfl
@[simp] theorem State.satAdd_cropSeq (s : State) (f : Fld) (i n : Nat) : (s.satAdd f i n).cropSeq = s.cropSeq := rfl
@[simp] theorem State.satAdd_edge (s : State) (f : Fld) (i n : Nat) : (s.satAdd f i n).edge = s.edge := rfl
@[simp] theorem State.satAdd_txPsn (s : State) (f : Fld) (i n : Nat) : (s.satAdd f i n).txPsn = s.txPsn := rfl
@[simp] theorem State.satAdd_mbx (s : State) (f : Fld) (i n : Nat) : (s.satAdd f i n).mbx = s.mbx := rfl
@[simp] theorem State.satAdd_can (s : State) (f : Fld) (i n : Nat) : (s.satAdd f i n).can = s.can := rfl
@[simp] theorem State.satAdd_eth (s : State) (f : Fld) (i n : Nat) : (s.satAdd f i n).eth = s.eth := rfl
@[simp] theorem State.satAdd_arrivals (s : State) (f : Fld) (i n : Nat) : (s.satAdd f i n).arrivals = s.arrivals := rfl
@[simp] theorem State.satAdd_arrNum (s : State) (f : Fld) (i n : Nat) : (s.satAdd f i n).arrNum = s.arrNum := rfl
@[simp] theorem State.satAdd_loops (s : State) (f : Fld) (i n : Nat) : (s.satAdd f i n).loops = s.loops := rfl
@[simp] theorem State.satAdd_inj (s : State) (f : Fld) (i n : Nat) : (s.satAdd f i n).inj = s.inj := rfl
@[simp] theorem State.satAdd_cap (s : State) (f : Fld) (i n : Nat) : (s.satAdd f i n).cap = s.cap := rfl
@[simp] theorem State.satAdd_jnl (s : State) (f : Fld) (i n : Nat) : (s.satAdd f i n).jnl = s.jnl := rfl
@[simp] theorem State.satAdd_ls (s : State) (f : Fld) (i n : Nat) : (s.satAdd f i n).ls = s.ls := rfl
@[simp] theorem State.satAdd_drd (s : State) (f : Fld) (i n : Nat) : (s.satAdd f i n).drd = s.drd := rfl
@[simp] theorem State.satAdd_tbPend (s : State) (f : Fld) (i n : Nat) : (s.satAdd f i n).tbPend = s.tbPend := rfl
@[simp] theorem State.satAdd_chans (s : State) (f : Fld) (i n : Nat) : (s.satAdd f i n).chans = s.chans := rfl
@[simp] theorem State.satAdd_stripeSeq (s : State) (f : Fld) (i n : Nat) : (s.satAdd f i n).stripeSeq = s.stripeSeq := rfl
@[simp] theorem State.satAdd_stripeNs (s : State) (f : Fld) (i n : Nat) : (s.satAdd f i n).stripeNs = s.stripeNs := rfl
@[simp] theorem State.satAdd_turn (s : State) (f : Fld) (i n : Nat) : (s.satAdd f i n).turn = s.turn := rfl
@[simp] theorem State.satAdd_fb (s : State) (f : Fld) (i n : Nat) : (s.satAdd f i n).fb = s.fb := rfl
@[simp] theorem State.satAdd_lanes (s : State) (f : Fld) (i n : Nat) : (s.satAdd f i n).lanes = s.lanes := rfl
@[simp] theorem State.satAdd_scrubAt (s : State) (f : Fld) (i n : Nat) : (s.satAdd f i n).scrubAt = s.scrubAt := rfl
@[simp] theorem State.satAdd_boot (s : State) (f : Fld) (i n : Nat) : (s.satAdd f i n).boot = s.boot := rfl
@[simp] theorem State.satAdd_sec (s : State) (f : Fld) (i n : Nat) : (s.satAdd f i n).sec = s.sec := rfl
@[simp] theorem State.satAdd_wtm (s : State) (f : Fld) (i n : Nat) : (s.satAdd f i n).wtm = s.wtm := rfl
@[simp] theorem State.satAdd_hbmArb (s : State) (f : Fld) (i n : Nat) : (s.satAdd f i n).hbmArb = s.hbmArb := rfl
@[simp] theorem State.satAdd_basinArb (s : State) (f : Fld) (i n : Nat) : (s.satAdd f i n).basinArb = s.basinArb := rfl
@[simp] theorem State.satAdd_pending (s : State) (f : Fld) (i n : Nat) : (s.satAdd f i n).pending = s.pending := rfl

@[simp] theorem State.setCore_mem (s : State) (c : Core) (k : CoreSt) : (s.setCore c k).mem = s.mem := rfl
@[simp] theorem State.setCore_marks (s : State) (c : Core) (k : CoreSt) : (s.setCore c k).marks = s.marks := rfl
@[simp] theorem State.setCore_wlog (s : State) (c : Core) (k : CoreSt) : (s.setCore c k).wlog = s.wlog := rfl
@[simp] theorem State.setCore_latent (s : State) (c : Core) (k : CoreSt) : (s.setCore c k).latent = s.latent := rfl
@[simp] theorem State.setCore_regs (s : State) (c : Core) (k : CoreSt) : (s.setCore c k).regs = s.regs := rfl
@[simp] theorem State.setCore_movers (s : State) (c : Core) (k : CoreSt) : (s.setCore c k).movers = s.movers := rfl
@[simp] theorem State.setCore_pend (s : State) (c : Core) (k : CoreSt) : (s.setCore c k).pend = s.pend := rfl
@[simp] theorem State.setCore_accSeq (s : State) (c : Core) (k : CoreSt) : (s.setCore c k).accSeq = s.accSeq := rfl
@[simp] theorem State.setCore_banks (s : State) (c : Core) (k : CoreSt) : (s.setCore c k).banks = s.banks := rfl
@[simp] theorem State.setCore_perf (s : State) (c : Core) (k : CoreSt) : (s.setCore c k).perf = s.perf := rfl
@[simp] theorem State.setCore_gateW (s : State) (c : Core) (k : CoreSt) : (s.setCore c k).gateW = s.gateW := rfl
@[simp] theorem State.setCore_gateL (s : State) (c : Core) (k : CoreSt) : (s.setCore c k).gateL = s.gateL := rfl
@[simp] theorem State.setCore_checks (s : State) (c : Core) (k : CoreSt) : (s.setCore c k).checks = s.checks := rfl
@[simp] theorem State.setCore_sluice (s : State) (c : Core) (k : CoreSt) : (s.setCore c k).sluice = s.sluice := rfl
@[simp] theorem State.setCore_tb (s : State) (c : Core) (k : CoreSt) : (s.setCore c k).tb = s.tb := rfl
@[simp] theorem State.setCore_part (s : State) (c : Core) (k : CoreSt) : (s.setCore c k).part = s.part := rfl
@[simp] theorem State.setCore_raised (s : State) (c : Core) (k : CoreSt) : (s.setCore c k).raised = s.raised := rfl
@[simp] theorem State.setCore_out (s : State) (c : Core) (k : CoreSt) : (s.setCore c k).out = s.out := rfl
@[simp] theorem State.setCore_freeCtr (s : State) (c : Core) (k : CoreSt) : (s.setCore c k).freeCtr = s.freeCtr := rfl
@[simp] theorem State.setCore_held (s : State) (c : Core) (k : CoreSt) : (s.setCore c k).held = s.held := rfl
@[simp] theorem State.setCore_clog (s : State) (c : Core) (k : CoreSt) : (s.setCore c k).clog = s.clog := rfl
@[simp] theorem State.setCore_msix (s : State) (c : Core) (k : CoreSt) : (s.setCore c k).msix = s.msix := rfl
@[simp] theorem State.setCore_fns (s : State) (c : Core) (k : CoreSt) : (s.setCore c k).fns = s.fns := rfl
@[simp] theorem State.setCore_nowLatch (s : State) (c : Core) (k : CoreSt) : (s.setCore c k).nowLatch = s.nowLatch := rfl
@[simp] theorem State.setCore_bankUE (s : State) (c : Core) (k : CoreSt) : (s.setCore c k).bankUE = s.bankUE := rfl
@[simp] theorem State.setCore_served (s : State) (c : Core) (k : CoreSt) : (s.setCore c k).served = s.served := rfl
@[simp] theorem State.setCore_landed (s : State) (c : Core) (k : CoreSt) : (s.setCore c k).landed = s.landed := rfl
@[simp] theorem State.setCore_dvl (s : State) (c : Core) (k : CoreSt) : (s.setCore c k).dvl = s.dvl := rfl
@[simp] theorem State.setCore_unitDone (s : State) (c : Core) (k : CoreSt) : (s.setCore c k).unitDone = s.unitDone := rfl
@[simp] theorem State.setCore_walkers (s : State) (c : Core) (k : CoreSt) : (s.setCore c k).walkers = s.walkers := rfl
@[simp] theorem State.setCore_stalls (s : State) (c : Core) (k : CoreSt) : (s.setCore c k).stalls = s.stalls := rfl
@[simp] theorem State.setCore_cropSeq (s : State) (c : Core) (k : CoreSt) : (s.setCore c k).cropSeq = s.cropSeq := rfl
@[simp] theorem State.setCore_edge (s : State) (c : Core) (k : CoreSt) : (s.setCore c k).edge = s.edge := rfl
@[simp] theorem State.setCore_txPsn (s : State) (c : Core) (k : CoreSt) : (s.setCore c k).txPsn = s.txPsn := rfl
@[simp] theorem State.setCore_mbx (s : State) (c : Core) (k : CoreSt) : (s.setCore c k).mbx = s.mbx := rfl
@[simp] theorem State.setCore_can (s : State) (c : Core) (k : CoreSt) : (s.setCore c k).can = s.can := rfl
@[simp] theorem State.setCore_eth (s : State) (c : Core) (k : CoreSt) : (s.setCore c k).eth = s.eth := rfl
@[simp] theorem State.setCore_arrivals (s : State) (c : Core) (k : CoreSt) : (s.setCore c k).arrivals = s.arrivals := rfl
@[simp] theorem State.setCore_arrNum (s : State) (c : Core) (k : CoreSt) : (s.setCore c k).arrNum = s.arrNum := rfl
@[simp] theorem State.setCore_loops (s : State) (c : Core) (k : CoreSt) : (s.setCore c k).loops = s.loops := rfl
@[simp] theorem State.setCore_inj (s : State) (c : Core) (k : CoreSt) : (s.setCore c k).inj = s.inj := rfl
@[simp] theorem State.setCore_cap (s : State) (c : Core) (k : CoreSt) : (s.setCore c k).cap = s.cap := rfl
@[simp] theorem State.setCore_jnl (s : State) (c : Core) (k : CoreSt) : (s.setCore c k).jnl = s.jnl := rfl
@[simp] theorem State.setCore_ls (s : State) (c : Core) (k : CoreSt) : (s.setCore c k).ls = s.ls := rfl
@[simp] theorem State.setCore_drd (s : State) (c : Core) (k : CoreSt) : (s.setCore c k).drd = s.drd := rfl
@[simp] theorem State.setCore_tbPend (s : State) (c : Core) (k : CoreSt) : (s.setCore c k).tbPend = s.tbPend := rfl
@[simp] theorem State.setCore_chans (s : State) (c : Core) (k : CoreSt) : (s.setCore c k).chans = s.chans := rfl
@[simp] theorem State.setCore_stripeSeq (s : State) (c : Core) (k : CoreSt) : (s.setCore c k).stripeSeq = s.stripeSeq := rfl
@[simp] theorem State.setCore_stripeNs (s : State) (c : Core) (k : CoreSt) : (s.setCore c k).stripeNs = s.stripeNs := rfl
@[simp] theorem State.setCore_turn (s : State) (c : Core) (k : CoreSt) : (s.setCore c k).turn = s.turn := rfl
@[simp] theorem State.setCore_fb (s : State) (c : Core) (k : CoreSt) : (s.setCore c k).fb = s.fb := rfl
@[simp] theorem State.setCore_lanes (s : State) (c : Core) (k : CoreSt) : (s.setCore c k).lanes = s.lanes := rfl
@[simp] theorem State.setCore_scrubAt (s : State) (c : Core) (k : CoreSt) : (s.setCore c k).scrubAt = s.scrubAt := rfl
@[simp] theorem State.setCore_boot (s : State) (c : Core) (k : CoreSt) : (s.setCore c k).boot = s.boot := rfl
@[simp] theorem State.setCore_sec (s : State) (c : Core) (k : CoreSt) : (s.setCore c k).sec = s.sec := rfl
@[simp] theorem State.setCore_wtm (s : State) (c : Core) (k : CoreSt) : (s.setCore c k).wtm = s.wtm := rfl
@[simp] theorem State.setCore_hbmArb (s : State) (c : Core) (k : CoreSt) : (s.setCore c k).hbmArb = s.hbmArb := rfl
@[simp] theorem State.setCore_basinArb (s : State) (c : Core) (k : CoreSt) : (s.setCore c k).basinArb = s.basinArb := rfl
@[simp] theorem State.setCore_pending (s : State) (c : Core) (k : CoreSt) : (s.setCore c k).pending = s.pending := rfl

@[simp] theorem State.modCore_mem (s : State) (c : Core) (f : CoreSt → CoreSt) : (s.modCore c f).mem = s.mem := rfl
@[simp] theorem State.modCore_marks (s : State) (c : Core) (f : CoreSt → CoreSt) : (s.modCore c f).marks = s.marks := rfl
@[simp] theorem State.modCore_wlog (s : State) (c : Core) (f : CoreSt → CoreSt) : (s.modCore c f).wlog = s.wlog := rfl
@[simp] theorem State.modCore_latent (s : State) (c : Core) (f : CoreSt → CoreSt) : (s.modCore c f).latent = s.latent := rfl
@[simp] theorem State.modCore_regs (s : State) (c : Core) (f : CoreSt → CoreSt) : (s.modCore c f).regs = s.regs := rfl
@[simp] theorem State.modCore_movers (s : State) (c : Core) (f : CoreSt → CoreSt) : (s.modCore c f).movers = s.movers := rfl
@[simp] theorem State.modCore_pend (s : State) (c : Core) (f : CoreSt → CoreSt) : (s.modCore c f).pend = s.pend := rfl
@[simp] theorem State.modCore_accSeq (s : State) (c : Core) (f : CoreSt → CoreSt) : (s.modCore c f).accSeq = s.accSeq := rfl
@[simp] theorem State.modCore_banks (s : State) (c : Core) (f : CoreSt → CoreSt) : (s.modCore c f).banks = s.banks := rfl
@[simp] theorem State.modCore_perf (s : State) (c : Core) (f : CoreSt → CoreSt) : (s.modCore c f).perf = s.perf := rfl
@[simp] theorem State.modCore_gateW (s : State) (c : Core) (f : CoreSt → CoreSt) : (s.modCore c f).gateW = s.gateW := rfl
@[simp] theorem State.modCore_gateL (s : State) (c : Core) (f : CoreSt → CoreSt) : (s.modCore c f).gateL = s.gateL := rfl
@[simp] theorem State.modCore_checks (s : State) (c : Core) (f : CoreSt → CoreSt) : (s.modCore c f).checks = s.checks := rfl
@[simp] theorem State.modCore_sluice (s : State) (c : Core) (f : CoreSt → CoreSt) : (s.modCore c f).sluice = s.sluice := rfl
@[simp] theorem State.modCore_tb (s : State) (c : Core) (f : CoreSt → CoreSt) : (s.modCore c f).tb = s.tb := rfl
@[simp] theorem State.modCore_part (s : State) (c : Core) (f : CoreSt → CoreSt) : (s.modCore c f).part = s.part := rfl
@[simp] theorem State.modCore_raised (s : State) (c : Core) (f : CoreSt → CoreSt) : (s.modCore c f).raised = s.raised := rfl
@[simp] theorem State.modCore_out (s : State) (c : Core) (f : CoreSt → CoreSt) : (s.modCore c f).out = s.out := rfl
@[simp] theorem State.modCore_freeCtr (s : State) (c : Core) (f : CoreSt → CoreSt) : (s.modCore c f).freeCtr = s.freeCtr := rfl
@[simp] theorem State.modCore_held (s : State) (c : Core) (f : CoreSt → CoreSt) : (s.modCore c f).held = s.held := rfl
@[simp] theorem State.modCore_clog (s : State) (c : Core) (f : CoreSt → CoreSt) : (s.modCore c f).clog = s.clog := rfl
@[simp] theorem State.modCore_msix (s : State) (c : Core) (f : CoreSt → CoreSt) : (s.modCore c f).msix = s.msix := rfl
@[simp] theorem State.modCore_fns (s : State) (c : Core) (f : CoreSt → CoreSt) : (s.modCore c f).fns = s.fns := rfl
@[simp] theorem State.modCore_nowLatch (s : State) (c : Core) (f : CoreSt → CoreSt) : (s.modCore c f).nowLatch = s.nowLatch := rfl
@[simp] theorem State.modCore_bankUE (s : State) (c : Core) (f : CoreSt → CoreSt) : (s.modCore c f).bankUE = s.bankUE := rfl
@[simp] theorem State.modCore_served (s : State) (c : Core) (f : CoreSt → CoreSt) : (s.modCore c f).served = s.served := rfl
@[simp] theorem State.modCore_landed (s : State) (c : Core) (f : CoreSt → CoreSt) : (s.modCore c f).landed = s.landed := rfl
@[simp] theorem State.modCore_dvl (s : State) (c : Core) (f : CoreSt → CoreSt) : (s.modCore c f).dvl = s.dvl := rfl
@[simp] theorem State.modCore_unitDone (s : State) (c : Core) (f : CoreSt → CoreSt) : (s.modCore c f).unitDone = s.unitDone := rfl
@[simp] theorem State.modCore_walkers (s : State) (c : Core) (f : CoreSt → CoreSt) : (s.modCore c f).walkers = s.walkers := rfl
@[simp] theorem State.modCore_stalls (s : State) (c : Core) (f : CoreSt → CoreSt) : (s.modCore c f).stalls = s.stalls := rfl
@[simp] theorem State.modCore_cropSeq (s : State) (c : Core) (f : CoreSt → CoreSt) : (s.modCore c f).cropSeq = s.cropSeq := rfl
@[simp] theorem State.modCore_edge (s : State) (c : Core) (f : CoreSt → CoreSt) : (s.modCore c f).edge = s.edge := rfl
@[simp] theorem State.modCore_txPsn (s : State) (c : Core) (f : CoreSt → CoreSt) : (s.modCore c f).txPsn = s.txPsn := rfl
@[simp] theorem State.modCore_mbx (s : State) (c : Core) (f : CoreSt → CoreSt) : (s.modCore c f).mbx = s.mbx := rfl
@[simp] theorem State.modCore_can (s : State) (c : Core) (f : CoreSt → CoreSt) : (s.modCore c f).can = s.can := rfl
@[simp] theorem State.modCore_eth (s : State) (c : Core) (f : CoreSt → CoreSt) : (s.modCore c f).eth = s.eth := rfl
@[simp] theorem State.modCore_arrivals (s : State) (c : Core) (f : CoreSt → CoreSt) : (s.modCore c f).arrivals = s.arrivals := rfl
@[simp] theorem State.modCore_arrNum (s : State) (c : Core) (f : CoreSt → CoreSt) : (s.modCore c f).arrNum = s.arrNum := rfl
@[simp] theorem State.modCore_loops (s : State) (c : Core) (f : CoreSt → CoreSt) : (s.modCore c f).loops = s.loops := rfl
@[simp] theorem State.modCore_inj (s : State) (c : Core) (f : CoreSt → CoreSt) : (s.modCore c f).inj = s.inj := rfl
@[simp] theorem State.modCore_cap (s : State) (c : Core) (f : CoreSt → CoreSt) : (s.modCore c f).cap = s.cap := rfl
@[simp] theorem State.modCore_jnl (s : State) (c : Core) (f : CoreSt → CoreSt) : (s.modCore c f).jnl = s.jnl := rfl
@[simp] theorem State.modCore_ls (s : State) (c : Core) (f : CoreSt → CoreSt) : (s.modCore c f).ls = s.ls := rfl
@[simp] theorem State.modCore_drd (s : State) (c : Core) (f : CoreSt → CoreSt) : (s.modCore c f).drd = s.drd := rfl
@[simp] theorem State.modCore_tbPend (s : State) (c : Core) (f : CoreSt → CoreSt) : (s.modCore c f).tbPend = s.tbPend := rfl
@[simp] theorem State.modCore_chans (s : State) (c : Core) (f : CoreSt → CoreSt) : (s.modCore c f).chans = s.chans := rfl
@[simp] theorem State.modCore_stripeSeq (s : State) (c : Core) (f : CoreSt → CoreSt) : (s.modCore c f).stripeSeq = s.stripeSeq := rfl
@[simp] theorem State.modCore_stripeNs (s : State) (c : Core) (f : CoreSt → CoreSt) : (s.modCore c f).stripeNs = s.stripeNs := rfl
@[simp] theorem State.modCore_turn (s : State) (c : Core) (f : CoreSt → CoreSt) : (s.modCore c f).turn = s.turn := rfl
@[simp] theorem State.modCore_fb (s : State) (c : Core) (f : CoreSt → CoreSt) : (s.modCore c f).fb = s.fb := rfl
@[simp] theorem State.modCore_lanes (s : State) (c : Core) (f : CoreSt → CoreSt) : (s.modCore c f).lanes = s.lanes := rfl
@[simp] theorem State.modCore_scrubAt (s : State) (c : Core) (f : CoreSt → CoreSt) : (s.modCore c f).scrubAt = s.scrubAt := rfl
@[simp] theorem State.modCore_boot (s : State) (c : Core) (f : CoreSt → CoreSt) : (s.modCore c f).boot = s.boot := rfl
@[simp] theorem State.modCore_sec (s : State) (c : Core) (f : CoreSt → CoreSt) : (s.modCore c f).sec = s.sec := rfl
@[simp] theorem State.modCore_wtm (s : State) (c : Core) (f : CoreSt → CoreSt) : (s.modCore c f).wtm = s.wtm := rfl
@[simp] theorem State.modCore_hbmArb (s : State) (c : Core) (f : CoreSt → CoreSt) : (s.modCore c f).hbmArb = s.hbmArb := rfl
@[simp] theorem State.modCore_basinArb (s : State) (c : Core) (f : CoreSt → CoreSt) : (s.modCore c f).basinArb = s.basinArb := rfl
@[simp] theorem State.modCore_pending (s : State) (c : Core) (f : CoreSt → CoreSt) : (s.modCore c f).pending = s.pending := rfl

@[simp] theorem State.upd_mem (s : State) (u : MemUpd) : (s.upd u).mem = s.mem := rfl
@[simp] theorem State.upd_marks (s : State) (u : MemUpd) : (s.upd u).marks = s.marks := rfl
@[simp] theorem State.upd_latent (s : State) (u : MemUpd) : (s.upd u).latent = s.latent := rfl
@[simp] theorem State.upd_regs (s : State) (u : MemUpd) : (s.upd u).regs = s.regs := rfl
@[simp] theorem State.upd_cores (s : State) (u : MemUpd) : (s.upd u).cores = s.cores := rfl
@[simp] theorem State.upd_movers (s : State) (u : MemUpd) : (s.upd u).movers = s.movers := rfl
@[simp] theorem State.upd_pend (s : State) (u : MemUpd) : (s.upd u).pend = s.pend := rfl
@[simp] theorem State.upd_accSeq (s : State) (u : MemUpd) : (s.upd u).accSeq = s.accSeq := rfl
@[simp] theorem State.upd_banks (s : State) (u : MemUpd) : (s.upd u).banks = s.banks := rfl
@[simp] theorem State.upd_perf (s : State) (u : MemUpd) : (s.upd u).perf = s.perf := rfl
@[simp] theorem State.upd_gateW (s : State) (u : MemUpd) : (s.upd u).gateW = s.gateW := rfl
@[simp] theorem State.upd_gateL (s : State) (u : MemUpd) : (s.upd u).gateL = s.gateL := rfl
@[simp] theorem State.upd_checks (s : State) (u : MemUpd) : (s.upd u).checks = s.checks := rfl
@[simp] theorem State.upd_sluice (s : State) (u : MemUpd) : (s.upd u).sluice = s.sluice := rfl
@[simp] theorem State.upd_tb (s : State) (u : MemUpd) : (s.upd u).tb = s.tb := rfl
@[simp] theorem State.upd_part (s : State) (u : MemUpd) : (s.upd u).part = s.part := rfl
@[simp] theorem State.upd_raised (s : State) (u : MemUpd) : (s.upd u).raised = s.raised := rfl
@[simp] theorem State.upd_out (s : State) (u : MemUpd) : (s.upd u).out = s.out := rfl
@[simp] theorem State.upd_freeCtr (s : State) (u : MemUpd) : (s.upd u).freeCtr = s.freeCtr := rfl
@[simp] theorem State.upd_held (s : State) (u : MemUpd) : (s.upd u).held = s.held := rfl
@[simp] theorem State.upd_clog (s : State) (u : MemUpd) : (s.upd u).clog = s.clog := rfl
@[simp] theorem State.upd_msix (s : State) (u : MemUpd) : (s.upd u).msix = s.msix := rfl
@[simp] theorem State.upd_fns (s : State) (u : MemUpd) : (s.upd u).fns = s.fns := rfl
@[simp] theorem State.upd_nowLatch (s : State) (u : MemUpd) : (s.upd u).nowLatch = s.nowLatch := rfl
@[simp] theorem State.upd_bankUE (s : State) (u : MemUpd) : (s.upd u).bankUE = s.bankUE := rfl
@[simp] theorem State.upd_served (s : State) (u : MemUpd) : (s.upd u).served = s.served := rfl
@[simp] theorem State.upd_landed (s : State) (u : MemUpd) : (s.upd u).landed = s.landed := rfl
@[simp] theorem State.upd_dvl (s : State) (u : MemUpd) : (s.upd u).dvl = s.dvl := rfl
@[simp] theorem State.upd_unitDone (s : State) (u : MemUpd) : (s.upd u).unitDone = s.unitDone := rfl
@[simp] theorem State.upd_walkers (s : State) (u : MemUpd) : (s.upd u).walkers = s.walkers := rfl
@[simp] theorem State.upd_stalls (s : State) (u : MemUpd) : (s.upd u).stalls = s.stalls := rfl
@[simp] theorem State.upd_cropSeq (s : State) (u : MemUpd) : (s.upd u).cropSeq = s.cropSeq := rfl
@[simp] theorem State.upd_edge (s : State) (u : MemUpd) : (s.upd u).edge = s.edge := rfl
@[simp] theorem State.upd_txPsn (s : State) (u : MemUpd) : (s.upd u).txPsn = s.txPsn := rfl
@[simp] theorem State.upd_mbx (s : State) (u : MemUpd) : (s.upd u).mbx = s.mbx := rfl
@[simp] theorem State.upd_can (s : State) (u : MemUpd) : (s.upd u).can = s.can := rfl
@[simp] theorem State.upd_eth (s : State) (u : MemUpd) : (s.upd u).eth = s.eth := rfl
@[simp] theorem State.upd_arrivals (s : State) (u : MemUpd) : (s.upd u).arrivals = s.arrivals := rfl
@[simp] theorem State.upd_arrNum (s : State) (u : MemUpd) : (s.upd u).arrNum = s.arrNum := rfl
@[simp] theorem State.upd_loops (s : State) (u : MemUpd) : (s.upd u).loops = s.loops := rfl
@[simp] theorem State.upd_inj (s : State) (u : MemUpd) : (s.upd u).inj = s.inj := rfl
@[simp] theorem State.upd_cap (s : State) (u : MemUpd) : (s.upd u).cap = s.cap := rfl
@[simp] theorem State.upd_jnl (s : State) (u : MemUpd) : (s.upd u).jnl = s.jnl := rfl
@[simp] theorem State.upd_ls (s : State) (u : MemUpd) : (s.upd u).ls = s.ls := rfl
@[simp] theorem State.upd_drd (s : State) (u : MemUpd) : (s.upd u).drd = s.drd := rfl
@[simp] theorem State.upd_tbPend (s : State) (u : MemUpd) : (s.upd u).tbPend = s.tbPend := rfl
@[simp] theorem State.upd_chans (s : State) (u : MemUpd) : (s.upd u).chans = s.chans := rfl
@[simp] theorem State.upd_stripeSeq (s : State) (u : MemUpd) : (s.upd u).stripeSeq = s.stripeSeq := rfl
@[simp] theorem State.upd_stripeNs (s : State) (u : MemUpd) : (s.upd u).stripeNs = s.stripeNs := rfl
@[simp] theorem State.upd_turn (s : State) (u : MemUpd) : (s.upd u).turn = s.turn := rfl
@[simp] theorem State.upd_fb (s : State) (u : MemUpd) : (s.upd u).fb = s.fb := rfl
@[simp] theorem State.upd_lanes (s : State) (u : MemUpd) : (s.upd u).lanes = s.lanes := rfl
@[simp] theorem State.upd_scrubAt (s : State) (u : MemUpd) : (s.upd u).scrubAt = s.scrubAt := rfl
@[simp] theorem State.upd_boot (s : State) (u : MemUpd) : (s.upd u).boot = s.boot := rfl
@[simp] theorem State.upd_sec (s : State) (u : MemUpd) : (s.upd u).sec = s.sec := rfl
@[simp] theorem State.upd_wtm (s : State) (u : MemUpd) : (s.upd u).wtm = s.wtm := rfl
@[simp] theorem State.upd_hbmArb (s : State) (u : MemUpd) : (s.upd u).hbmArb = s.hbmArb := rfl
@[simp] theorem State.upd_basinArb (s : State) (u : MemUpd) : (s.upd u).basinArb = s.basinArb := rfl
@[simp] theorem State.upd_pending (s : State) (u : MemUpd) : (s.upd u).pending = s.pending := rfl

@[simp] theorem State.send_mem (s : State) (m : OutMsg) : (s.send m).mem = s.mem := rfl
@[simp] theorem State.send_marks (s : State) (m : OutMsg) : (s.send m).marks = s.marks := rfl
@[simp] theorem State.send_wlog (s : State) (m : OutMsg) : (s.send m).wlog = s.wlog := rfl
@[simp] theorem State.send_latent (s : State) (m : OutMsg) : (s.send m).latent = s.latent := rfl
@[simp] theorem State.send_regs (s : State) (m : OutMsg) : (s.send m).regs = s.regs := rfl
@[simp] theorem State.send_cores (s : State) (m : OutMsg) : (s.send m).cores = s.cores := rfl
@[simp] theorem State.send_movers (s : State) (m : OutMsg) : (s.send m).movers = s.movers := rfl
@[simp] theorem State.send_pend (s : State) (m : OutMsg) : (s.send m).pend = s.pend := rfl
@[simp] theorem State.send_accSeq (s : State) (m : OutMsg) : (s.send m).accSeq = s.accSeq := rfl
@[simp] theorem State.send_banks (s : State) (m : OutMsg) : (s.send m).banks = s.banks := rfl
@[simp] theorem State.send_perf (s : State) (m : OutMsg) : (s.send m).perf = s.perf := rfl
@[simp] theorem State.send_gateW (s : State) (m : OutMsg) : (s.send m).gateW = s.gateW := rfl
@[simp] theorem State.send_gateL (s : State) (m : OutMsg) : (s.send m).gateL = s.gateL := rfl
@[simp] theorem State.send_checks (s : State) (m : OutMsg) : (s.send m).checks = s.checks := rfl
@[simp] theorem State.send_sluice (s : State) (m : OutMsg) : (s.send m).sluice = s.sluice := rfl
@[simp] theorem State.send_tb (s : State) (m : OutMsg) : (s.send m).tb = s.tb := rfl
@[simp] theorem State.send_part (s : State) (m : OutMsg) : (s.send m).part = s.part := rfl
@[simp] theorem State.send_raised (s : State) (m : OutMsg) : (s.send m).raised = s.raised := rfl
@[simp] theorem State.send_freeCtr (s : State) (m : OutMsg) : (s.send m).freeCtr = s.freeCtr := rfl
@[simp] theorem State.send_held (s : State) (m : OutMsg) : (s.send m).held = s.held := rfl
@[simp] theorem State.send_clog (s : State) (m : OutMsg) : (s.send m).clog = s.clog := rfl
@[simp] theorem State.send_msix (s : State) (m : OutMsg) : (s.send m).msix = s.msix := rfl
@[simp] theorem State.send_fns (s : State) (m : OutMsg) : (s.send m).fns = s.fns := rfl
@[simp] theorem State.send_nowLatch (s : State) (m : OutMsg) : (s.send m).nowLatch = s.nowLatch := rfl
@[simp] theorem State.send_bankUE (s : State) (m : OutMsg) : (s.send m).bankUE = s.bankUE := rfl
@[simp] theorem State.send_served (s : State) (m : OutMsg) : (s.send m).served = s.served := rfl
@[simp] theorem State.send_landed (s : State) (m : OutMsg) : (s.send m).landed = s.landed := rfl
@[simp] theorem State.send_dvl (s : State) (m : OutMsg) : (s.send m).dvl = s.dvl := rfl
@[simp] theorem State.send_unitDone (s : State) (m : OutMsg) : (s.send m).unitDone = s.unitDone := rfl
@[simp] theorem State.send_walkers (s : State) (m : OutMsg) : (s.send m).walkers = s.walkers := rfl
@[simp] theorem State.send_stalls (s : State) (m : OutMsg) : (s.send m).stalls = s.stalls := rfl
@[simp] theorem State.send_cropSeq (s : State) (m : OutMsg) : (s.send m).cropSeq = s.cropSeq := rfl
@[simp] theorem State.send_edge (s : State) (m : OutMsg) : (s.send m).edge = s.edge := rfl
@[simp] theorem State.send_txPsn (s : State) (m : OutMsg) : (s.send m).txPsn = s.txPsn := rfl
@[simp] theorem State.send_mbx (s : State) (m : OutMsg) : (s.send m).mbx = s.mbx := rfl
@[simp] theorem State.send_can (s : State) (m : OutMsg) : (s.send m).can = s.can := rfl
@[simp] theorem State.send_eth (s : State) (m : OutMsg) : (s.send m).eth = s.eth := rfl
@[simp] theorem State.send_arrivals (s : State) (m : OutMsg) : (s.send m).arrivals = s.arrivals := rfl
@[simp] theorem State.send_arrNum (s : State) (m : OutMsg) : (s.send m).arrNum = s.arrNum := rfl
@[simp] theorem State.send_loops (s : State) (m : OutMsg) : (s.send m).loops = s.loops := rfl
@[simp] theorem State.send_inj (s : State) (m : OutMsg) : (s.send m).inj = s.inj := rfl
@[simp] theorem State.send_cap (s : State) (m : OutMsg) : (s.send m).cap = s.cap := rfl
@[simp] theorem State.send_jnl (s : State) (m : OutMsg) : (s.send m).jnl = s.jnl := rfl
@[simp] theorem State.send_ls (s : State) (m : OutMsg) : (s.send m).ls = s.ls := rfl
@[simp] theorem State.send_drd (s : State) (m : OutMsg) : (s.send m).drd = s.drd := rfl
@[simp] theorem State.send_tbPend (s : State) (m : OutMsg) : (s.send m).tbPend = s.tbPend := rfl
@[simp] theorem State.send_chans (s : State) (m : OutMsg) : (s.send m).chans = s.chans := rfl
@[simp] theorem State.send_stripeSeq (s : State) (m : OutMsg) : (s.send m).stripeSeq = s.stripeSeq := rfl
@[simp] theorem State.send_stripeNs (s : State) (m : OutMsg) : (s.send m).stripeNs = s.stripeNs := rfl
@[simp] theorem State.send_turn (s : State) (m : OutMsg) : (s.send m).turn = s.turn := rfl
@[simp] theorem State.send_fb (s : State) (m : OutMsg) : (s.send m).fb = s.fb := rfl
@[simp] theorem State.send_lanes (s : State) (m : OutMsg) : (s.send m).lanes = s.lanes := rfl
@[simp] theorem State.send_scrubAt (s : State) (m : OutMsg) : (s.send m).scrubAt = s.scrubAt := rfl
@[simp] theorem State.send_boot (s : State) (m : OutMsg) : (s.send m).boot = s.boot := rfl
@[simp] theorem State.send_sec (s : State) (m : OutMsg) : (s.send m).sec = s.sec := rfl
@[simp] theorem State.send_wtm (s : State) (m : OutMsg) : (s.send m).wtm = s.wtm := rfl
@[simp] theorem State.send_hbmArb (s : State) (m : OutMsg) : (s.send m).hbmArb = s.hbmArb := rfl
@[simp] theorem State.send_basinArb (s : State) (m : OutMsg) : (s.send m).basinArb = s.basinArb := rfl
@[simp] theorem State.send_pending (s : State) (m : OutMsg) : (s.send m).pending = s.pending := rfl

@[simp] theorem State.useFree_mem (s : State) : s.useFree.mem = s.mem := rfl
@[simp] theorem State.useFree_marks (s : State) : s.useFree.marks = s.marks := rfl
@[simp] theorem State.useFree_wlog (s : State) : s.useFree.wlog = s.wlog := rfl
@[simp] theorem State.useFree_latent (s : State) : s.useFree.latent = s.latent := rfl
@[simp] theorem State.useFree_regs (s : State) : s.useFree.regs = s.regs := rfl
@[simp] theorem State.useFree_cores (s : State) : s.useFree.cores = s.cores := rfl
@[simp] theorem State.useFree_movers (s : State) : s.useFree.movers = s.movers := rfl
@[simp] theorem State.useFree_pend (s : State) : s.useFree.pend = s.pend := rfl
@[simp] theorem State.useFree_accSeq (s : State) : s.useFree.accSeq = s.accSeq := rfl
@[simp] theorem State.useFree_banks (s : State) : s.useFree.banks = s.banks := rfl
@[simp] theorem State.useFree_perf (s : State) : s.useFree.perf = s.perf := rfl
@[simp] theorem State.useFree_gateW (s : State) : s.useFree.gateW = s.gateW := rfl
@[simp] theorem State.useFree_gateL (s : State) : s.useFree.gateL = s.gateL := rfl
@[simp] theorem State.useFree_checks (s : State) : s.useFree.checks = s.checks := rfl
@[simp] theorem State.useFree_sluice (s : State) : s.useFree.sluice = s.sluice := rfl
@[simp] theorem State.useFree_tb (s : State) : s.useFree.tb = s.tb := rfl
@[simp] theorem State.useFree_part (s : State) : s.useFree.part = s.part := rfl
@[simp] theorem State.useFree_raised (s : State) : s.useFree.raised = s.raised := rfl
@[simp] theorem State.useFree_out (s : State) : s.useFree.out = s.out := rfl
@[simp] theorem State.useFree_held (s : State) : s.useFree.held = s.held := rfl
@[simp] theorem State.useFree_clog (s : State) : s.useFree.clog = s.clog := rfl
@[simp] theorem State.useFree_msix (s : State) : s.useFree.msix = s.msix := rfl
@[simp] theorem State.useFree_fns (s : State) : s.useFree.fns = s.fns := rfl
@[simp] theorem State.useFree_nowLatch (s : State) : s.useFree.nowLatch = s.nowLatch := rfl
@[simp] theorem State.useFree_bankUE (s : State) : s.useFree.bankUE = s.bankUE := rfl
@[simp] theorem State.useFree_served (s : State) : s.useFree.served = s.served := rfl
@[simp] theorem State.useFree_landed (s : State) : s.useFree.landed = s.landed := rfl
@[simp] theorem State.useFree_dvl (s : State) : s.useFree.dvl = s.dvl := rfl
@[simp] theorem State.useFree_unitDone (s : State) : s.useFree.unitDone = s.unitDone := rfl
@[simp] theorem State.useFree_walkers (s : State) : s.useFree.walkers = s.walkers := rfl
@[simp] theorem State.useFree_stalls (s : State) : s.useFree.stalls = s.stalls := rfl
@[simp] theorem State.useFree_cropSeq (s : State) : s.useFree.cropSeq = s.cropSeq := rfl
@[simp] theorem State.useFree_edge (s : State) : s.useFree.edge = s.edge := rfl
@[simp] theorem State.useFree_txPsn (s : State) : s.useFree.txPsn = s.txPsn := rfl
@[simp] theorem State.useFree_mbx (s : State) : s.useFree.mbx = s.mbx := rfl
@[simp] theorem State.useFree_can (s : State) : s.useFree.can = s.can := rfl
@[simp] theorem State.useFree_eth (s : State) : s.useFree.eth = s.eth := rfl
@[simp] theorem State.useFree_arrivals (s : State) : s.useFree.arrivals = s.arrivals := rfl
@[simp] theorem State.useFree_arrNum (s : State) : s.useFree.arrNum = s.arrNum := rfl
@[simp] theorem State.useFree_loops (s : State) : s.useFree.loops = s.loops := rfl
@[simp] theorem State.useFree_inj (s : State) : s.useFree.inj = s.inj := rfl
@[simp] theorem State.useFree_cap (s : State) : s.useFree.cap = s.cap := rfl
@[simp] theorem State.useFree_jnl (s : State) : s.useFree.jnl = s.jnl := rfl
@[simp] theorem State.useFree_ls (s : State) : s.useFree.ls = s.ls := rfl
@[simp] theorem State.useFree_drd (s : State) : s.useFree.drd = s.drd := rfl
@[simp] theorem State.useFree_tbPend (s : State) : s.useFree.tbPend = s.tbPend := rfl
@[simp] theorem State.useFree_chans (s : State) : s.useFree.chans = s.chans := rfl
@[simp] theorem State.useFree_stripeSeq (s : State) : s.useFree.stripeSeq = s.stripeSeq := rfl
@[simp] theorem State.useFree_stripeNs (s : State) : s.useFree.stripeNs = s.stripeNs := rfl
@[simp] theorem State.useFree_turn (s : State) : s.useFree.turn = s.turn := rfl
@[simp] theorem State.useFree_fb (s : State) : s.useFree.fb = s.fb := rfl
@[simp] theorem State.useFree_lanes (s : State) : s.useFree.lanes = s.lanes := rfl
@[simp] theorem State.useFree_scrubAt (s : State) : s.useFree.scrubAt = s.scrubAt := rfl
@[simp] theorem State.useFree_boot (s : State) : s.useFree.boot = s.boot := rfl
@[simp] theorem State.useFree_sec (s : State) : s.useFree.sec = s.sec := rfl
@[simp] theorem State.useFree_wtm (s : State) : s.useFree.wtm = s.wtm := rfl
@[simp] theorem State.useFree_hbmArb (s : State) : s.useFree.hbmArb = s.hbmArb := rfl
@[simp] theorem State.useFree_basinArb (s : State) : s.useFree.basinArb = s.basinArb := rfl
@[simp] theorem State.useFree_pending (s : State) : s.useFree.pending = s.pending := rfl

@[simp] theorem State.begin_mem (s : State) : s.begin.mem = s.mem := rfl
@[simp] theorem State.begin_marks (s : State) : s.begin.marks = s.marks := rfl
@[simp] theorem State.begin_latent (s : State) : s.begin.latent = s.latent := rfl
@[simp] theorem State.begin_regs (s : State) : s.begin.regs = s.regs := rfl
@[simp] theorem State.begin_cores (s : State) : s.begin.cores = s.cores := rfl
@[simp] theorem State.begin_movers (s : State) : s.begin.movers = s.movers := rfl
@[simp] theorem State.begin_pend (s : State) : s.begin.pend = s.pend := rfl
@[simp] theorem State.begin_accSeq (s : State) : s.begin.accSeq = s.accSeq := rfl
@[simp] theorem State.begin_banks (s : State) : s.begin.banks = s.banks := rfl
@[simp] theorem State.begin_perf (s : State) : s.begin.perf = s.perf := rfl
@[simp] theorem State.begin_gateW (s : State) : s.begin.gateW = s.gateW := rfl
@[simp] theorem State.begin_gateL (s : State) : s.begin.gateL = s.gateL := rfl
@[simp] theorem State.begin_checks (s : State) : s.begin.checks = s.checks := rfl
@[simp] theorem State.begin_sluice (s : State) : s.begin.sluice = s.sluice := rfl
@[simp] theorem State.begin_tb (s : State) : s.begin.tb = s.tb := rfl
@[simp] theorem State.begin_part (s : State) : s.begin.part = s.part := rfl
@[simp] theorem State.begin_raised (s : State) : s.begin.raised = s.raised := rfl
@[simp] theorem State.begin_freeCtr (s : State) : s.begin.freeCtr = s.freeCtr := rfl
@[simp] theorem State.begin_held (s : State) : s.begin.held = s.held := rfl
@[simp] theorem State.begin_clog (s : State) : s.begin.clog = s.clog := rfl
@[simp] theorem State.begin_msix (s : State) : s.begin.msix = s.msix := rfl
@[simp] theorem State.begin_fns (s : State) : s.begin.fns = s.fns := rfl
@[simp] theorem State.begin_nowLatch (s : State) : s.begin.nowLatch = s.nowLatch := rfl
@[simp] theorem State.begin_bankUE (s : State) : s.begin.bankUE = s.bankUE := rfl
@[simp] theorem State.begin_served (s : State) : s.begin.served = s.served := rfl
@[simp] theorem State.begin_landed (s : State) : s.begin.landed = s.landed := rfl
@[simp] theorem State.begin_dvl (s : State) : s.begin.dvl = s.dvl := rfl
@[simp] theorem State.begin_unitDone (s : State) : s.begin.unitDone = s.unitDone := rfl
@[simp] theorem State.begin_walkers (s : State) : s.begin.walkers = s.walkers := rfl
@[simp] theorem State.begin_stalls (s : State) : s.begin.stalls = s.stalls := rfl
@[simp] theorem State.begin_cropSeq (s : State) : s.begin.cropSeq = s.cropSeq := rfl
@[simp] theorem State.begin_edge (s : State) : s.begin.edge = s.edge := rfl
@[simp] theorem State.begin_txPsn (s : State) : s.begin.txPsn = s.txPsn := rfl
@[simp] theorem State.begin_mbx (s : State) : s.begin.mbx = s.mbx := rfl
@[simp] theorem State.begin_can (s : State) : s.begin.can = s.can := rfl
@[simp] theorem State.begin_eth (s : State) : s.begin.eth = s.eth := rfl
@[simp] theorem State.begin_arrivals (s : State) : s.begin.arrivals = s.arrivals := rfl
@[simp] theorem State.begin_arrNum (s : State) : s.begin.arrNum = s.arrNum := rfl
@[simp] theorem State.begin_loops (s : State) : s.begin.loops = s.loops := rfl
@[simp] theorem State.begin_inj (s : State) : s.begin.inj = s.inj := rfl
@[simp] theorem State.begin_cap (s : State) : s.begin.cap = s.cap := rfl
@[simp] theorem State.begin_jnl (s : State) : s.begin.jnl = s.jnl := rfl
@[simp] theorem State.begin_ls (s : State) : s.begin.ls = s.ls := rfl
@[simp] theorem State.begin_drd (s : State) : s.begin.drd = s.drd := rfl
@[simp] theorem State.begin_tbPend (s : State) : s.begin.tbPend = s.tbPend := rfl
@[simp] theorem State.begin_chans (s : State) : s.begin.chans = s.chans := rfl
@[simp] theorem State.begin_stripeSeq (s : State) : s.begin.stripeSeq = s.stripeSeq := rfl
@[simp] theorem State.begin_stripeNs (s : State) : s.begin.stripeNs = s.stripeNs := rfl
@[simp] theorem State.begin_fb (s : State) : s.begin.fb = s.fb := rfl
@[simp] theorem State.begin_lanes (s : State) : s.begin.lanes = s.lanes := rfl
@[simp] theorem State.begin_scrubAt (s : State) : s.begin.scrubAt = s.scrubAt := rfl
@[simp] theorem State.begin_boot (s : State) : s.begin.boot = s.boot := rfl
@[simp] theorem State.begin_sec (s : State) : s.begin.sec = s.sec := rfl
@[simp] theorem State.begin_wtm (s : State) : s.begin.wtm = s.wtm := rfl
@[simp] theorem State.begin_hbmArb (s : State) : s.begin.hbmArb = s.hbmArb := rfl
@[simp] theorem State.begin_basinArb (s : State) : s.begin.basinArb = s.basinArb := rfl
@[simp] theorem State.begin_pending (s : State) : s.begin.pending = s.pending := rfl

@[simp] theorem detect_mem (s : State) (k src : Nat) : (detect s k src).mem = s.mem := rfl
@[simp] theorem detect_marks (s : State) (k src : Nat) : (detect s k src).marks = s.marks := rfl
@[simp] theorem detect_wlog (s : State) (k src : Nat) : (detect s k src).wlog = s.wlog := rfl
@[simp] theorem detect_latent (s : State) (k src : Nat) : (detect s k src).latent = s.latent := rfl
@[simp] theorem detect_regs (s : State) (k src : Nat) : (detect s k src).regs = s.regs := rfl
@[simp] theorem detect_cores (s : State) (k src : Nat) : (detect s k src).cores = s.cores := rfl
@[simp] theorem detect_movers (s : State) (k src : Nat) : (detect s k src).movers = s.movers := rfl
@[simp] theorem detect_pend (s : State) (k src : Nat) : (detect s k src).pend = s.pend := rfl
@[simp] theorem detect_accSeq (s : State) (k src : Nat) : (detect s k src).accSeq = s.accSeq := rfl
@[simp] theorem detect_banks (s : State) (k src : Nat) : (detect s k src).banks = s.banks := rfl
@[simp] theorem detect_perf (s : State) (k src : Nat) : (detect s k src).perf = s.perf := rfl
@[simp] theorem detect_gateW (s : State) (k src : Nat) : (detect s k src).gateW = s.gateW := rfl
@[simp] theorem detect_gateL (s : State) (k src : Nat) : (detect s k src).gateL = s.gateL := rfl
@[simp] theorem detect_checks (s : State) (k src : Nat) : (detect s k src).checks = s.checks := rfl
@[simp] theorem detect_sluice (s : State) (k src : Nat) : (detect s k src).sluice = s.sluice := rfl
@[simp] theorem detect_tb (s : State) (k src : Nat) : (detect s k src).tb = s.tb := rfl
@[simp] theorem detect_part (s : State) (k src : Nat) : (detect s k src).part = s.part := rfl
@[simp] theorem detect_out (s : State) (k src : Nat) : (detect s k src).out = s.out := rfl
@[simp] theorem detect_freeCtr (s : State) (k src : Nat) : (detect s k src).freeCtr = s.freeCtr := rfl
@[simp] theorem detect_held (s : State) (k src : Nat) : (detect s k src).held = s.held := rfl
@[simp] theorem detect_clog (s : State) (k src : Nat) : (detect s k src).clog = s.clog := rfl
@[simp] theorem detect_msix (s : State) (k src : Nat) : (detect s k src).msix = s.msix := rfl
@[simp] theorem detect_fns (s : State) (k src : Nat) : (detect s k src).fns = s.fns := rfl
@[simp] theorem detect_nowLatch (s : State) (k src : Nat) : (detect s k src).nowLatch = s.nowLatch := rfl
@[simp] theorem detect_bankUE (s : State) (k src : Nat) : (detect s k src).bankUE = s.bankUE := rfl
@[simp] theorem detect_served (s : State) (k src : Nat) : (detect s k src).served = s.served := rfl
@[simp] theorem detect_landed (s : State) (k src : Nat) : (detect s k src).landed = s.landed := rfl
@[simp] theorem detect_dvl (s : State) (k src : Nat) : (detect s k src).dvl = s.dvl := rfl
@[simp] theorem detect_unitDone (s : State) (k src : Nat) : (detect s k src).unitDone = s.unitDone := rfl
@[simp] theorem detect_walkers (s : State) (k src : Nat) : (detect s k src).walkers = s.walkers := rfl
@[simp] theorem detect_stalls (s : State) (k src : Nat) : (detect s k src).stalls = s.stalls := rfl
@[simp] theorem detect_cropSeq (s : State) (k src : Nat) : (detect s k src).cropSeq = s.cropSeq := rfl
@[simp] theorem detect_edge (s : State) (k src : Nat) : (detect s k src).edge = s.edge := rfl
@[simp] theorem detect_txPsn (s : State) (k src : Nat) : (detect s k src).txPsn = s.txPsn := rfl
@[simp] theorem detect_mbx (s : State) (k src : Nat) : (detect s k src).mbx = s.mbx := rfl
@[simp] theorem detect_can (s : State) (k src : Nat) : (detect s k src).can = s.can := rfl
@[simp] theorem detect_eth (s : State) (k src : Nat) : (detect s k src).eth = s.eth := rfl
@[simp] theorem detect_arrivals (s : State) (k src : Nat) : (detect s k src).arrivals = s.arrivals := rfl
@[simp] theorem detect_arrNum (s : State) (k src : Nat) : (detect s k src).arrNum = s.arrNum := rfl
@[simp] theorem detect_loops (s : State) (k src : Nat) : (detect s k src).loops = s.loops := rfl
@[simp] theorem detect_inj (s : State) (k src : Nat) : (detect s k src).inj = s.inj := rfl
@[simp] theorem detect_cap (s : State) (k src : Nat) : (detect s k src).cap = s.cap := rfl
@[simp] theorem detect_jnl (s : State) (k src : Nat) : (detect s k src).jnl = s.jnl := rfl
@[simp] theorem detect_ls (s : State) (k src : Nat) : (detect s k src).ls = s.ls := rfl
@[simp] theorem detect_drd (s : State) (k src : Nat) : (detect s k src).drd = s.drd := rfl
@[simp] theorem detect_tbPend (s : State) (k src : Nat) : (detect s k src).tbPend = s.tbPend := rfl
@[simp] theorem detect_chans (s : State) (k src : Nat) : (detect s k src).chans = s.chans := rfl
@[simp] theorem detect_stripeSeq (s : State) (k src : Nat) : (detect s k src).stripeSeq = s.stripeSeq := rfl
@[simp] theorem detect_stripeNs (s : State) (k src : Nat) : (detect s k src).stripeNs = s.stripeNs := rfl
@[simp] theorem detect_turn (s : State) (k src : Nat) : (detect s k src).turn = s.turn := rfl
@[simp] theorem detect_fb (s : State) (k src : Nat) : (detect s k src).fb = s.fb := rfl
@[simp] theorem detect_lanes (s : State) (k src : Nat) : (detect s k src).lanes = s.lanes := rfl
@[simp] theorem detect_scrubAt (s : State) (k src : Nat) : (detect s k src).scrubAt = s.scrubAt := rfl
@[simp] theorem detect_boot (s : State) (k src : Nat) : (detect s k src).boot = s.boot := rfl
@[simp] theorem detect_sec (s : State) (k src : Nat) : (detect s k src).sec = s.sec := rfl
@[simp] theorem detect_wtm (s : State) (k src : Nat) : (detect s k src).wtm = s.wtm := rfl
@[simp] theorem detect_hbmArb (s : State) (k src : Nat) : (detect s k src).hbmArb = s.hbmArb := rfl
@[simp] theorem detect_basinArb (s : State) (k src : Nat) : (detect s k src).basinArb = s.basinArb := rfl
@[simp] theorem detect_pending (s : State) (k src : Nat) : (detect s k src).pending = s.pending := rfl

@[simp] theorem State.upd_wlog (s : State) (u : MemUpd) : (s.upd u).wlog = u :: s.wlog := rfl
@[simp] theorem State.send_out (s : State) (m : OutMsg) : (s.send m).out = s.out ++ [m] := rfl
@[simp] theorem State.useFree_freeCtr (s : State) : s.useFree.freeCtr = s.freeCtr + 1 := rfl
@[simp] theorem State.begin_out (s : State) : s.begin.out = [] := rfl
@[simp] theorem State.begin_wlog (s : State) : s.begin.wlog = [] := rfl
@[simp] theorem detect_raised (s : State) (k src : Nat) : (detect s k src).raised = s.raised ++ [(k, src)] := rfl

end Sys2Proof.Machine
end

