-- ==== Sys2Proof/Laws/Tab.lean ====
section
/-! SUPPORT. Laws of the sparse tables: what a read gives after a write, and that every table operation keeps the
canonical form. -/

namespace Sys2Proof.Machine

/-- A read at the key of a write gives the value written. -/
@[simp] theorem tget_tput_same [DecidableEq α] (d : Nat → α) (t : Tab α) (k : Nat) (v : α) :
    tget d (tput d t k v) k = v := by
  induction t with
  | nil => by_cases h : v = d k <;> simp [tput, tget, h]
  | cons e r ih =>
    obtain ⟨j, w⟩ := e
    simp only [tput]
    split
    · split
      · exact ih
      · simp [tget]
    · rename_i hj
      split
      · simp [tget, hj, ih]
      · simp [tget]

/-- A write leaves every other key alone. -/
theorem tget_tput_ne [DecidableEq α] (d : Nat → α) (t : Tab α) {k j : Nat} (v : α) (h : j ≠ k) :
    tget d (tput d t k v) j = tget d t j := by
  induction t with
  | nil =>
    by_cases hv : v = d k
    · simp [tput, hv]
    · simp [tput, tget, hv, Ne.symm h]
  | cons e r ih =>
    obtain ⟨i, w⟩ := e
    simp only [tput]
    split
    · rename_i hi
      subst hi
      split
      · simp [tget, Ne.symm h, ih]
      · simp [tget, Ne.symm h]
    · split
      · simp [tget, ih]
      · simp [tget, Ne.symm h]

/-- Reads after a write, at any key. -/
theorem tget_tput [DecidableEq α] (d : Nat → α) (t : Tab α) (k j : Nat) (v : α) :
    tget d (tput d t k v) j = if j = k then v else tget d t j := by
  split
  · rename_i h
    simp [h]
  · exact tget_tput_ne d t v ‹_›

/-- Of two writes at one key only the second stays, the first being no default. -/
theorem tput_tput [DecidableEq α] (d : Nat → α) (t : Tab α) (k : Nat) {a : α} (b : α) (h : a ≠ d k) :
    tput d (tput d t k a) k b = tput d t k b := by
  induction t with
  | nil => by_cases hb : b = d k <;> simp [tput, h, hb]
  | cons e r ih =>
    obtain ⟨j, w⟩ := e
    by_cases hj : j = k
    · subst hj
      by_cases hb : b = d j <;> simp [tput, h, hb]
    · by_cases hl : j < k
      · simp [tput, hj, hl, ih]
      · by_cases hb : b = d k <;> simp [tput, hj, hl, h, hb]

theorem twfFrom_weaken [DecidableEq α] (d : Nat → α) {lo hi : Nat} (t : Tab α) (h : lo ≤ hi)
    (w : twfFrom d hi t = true) : twfFrom d lo t = true := by
  cases t with
  | nil => rfl
  | cons e r =>
    simp only [twfFrom, Bool.and_eq_true, decide_eq_true_eq] at w ⊢
    exact ⟨⟨by omega, w.1.2⟩, w.2⟩

/-- Writing the default at a key below every listed one changes nothing. -/
theorem tput_default_below [DecidableEq α] (d : Nat → α) (t : Tab α) {k l : Nat} (h : k < l)
    (w : twfFrom d l t = true) : tput d t k (d k) = t := by
  induction t generalizing l with
  | nil => simp [tput]
  | cons e r ih =>
    simp only [twfFrom, Bool.and_eq_true, decide_eq_true_eq] at w
    have hne : e.1 ≠ k := by omega
    have := ih (l := e.1 + 1) (by omega) w.2
    simp [tput, hne, this]

/-- A write keeps the canonical form above a bound that its key respects. -/
theorem twfFrom_tput [DecidableEq α] (d : Nat → α) (t : Tab α) {lo k : Nat} (v : α) (hk : lo ≤ k)
    (w : twfFrom d lo t = true) : twfFrom d lo (tput d t k v) = true := by
  induction t generalizing lo with
  | nil => by_cases h : v = d k <;> simp [tput, twfFrom, h, hk]
  | cons e r ih =>
    obtain ⟨j, x⟩ := e
    simp only [twfFrom, Bool.and_eq_true, decide_eq_true_eq] at w
    simp only [tput]
    split
    · rename_i hj
      subst hj
      split
      · rename_i hv
        rw [hv, tput_default_below d r (by omega) w.2]
        exact twfFrom_weaken d r (by omega) w.2
      · rename_i hv
        simp [twfFrom, hk, hv, w.2]
    · rename_i hj
      split
      · rename_i hc
        simp only [twfFrom, Bool.and_eq_true, decide_eq_true_eq]
        refine ⟨w.1, ?_⟩
        by_cases hjk : j < k
        · exact ih (by omega) w.2
        · have hv : v = d k := hc.resolve_left hjk
          rw [hv, tput_default_below d r (by omega) w.2]
          exact w.2
      · rename_i hc
        simp only [twfFrom, Bool.and_eq_true, decide_eq_true_eq]
        exact ⟨⟨hk, fun h => hc (.inr h)⟩, ⟨by omega, w.1.2⟩, w.2⟩

/-- A write keeps the canonical form. -/
theorem twf_tput [DecidableEq α] (d : Nat → α) (t : Tab α) (k : Nat) (v : α) (w : twf d t = true) :
    twf d (tput d t k v) = true := twfFrom_tput d t v (Nat.zero_le k) w

theorem twfFrom_filter [DecidableEq α] (d : Nat → α) (p : Nat × α → Bool) (t : Tab α) {lo : Nat}
    (w : twfFrom d lo t = true) : twfFrom d lo (t.filter p) = true := by
  induction t generalizing lo with
  | nil => rfl
  | cons e r ih =>
    simp only [twfFrom, Bool.and_eq_true, decide_eq_true_eq] at w
    simp only [List.filter]
    split
    · simp only [twfFrom, Bool.and_eq_true, decide_eq_true_eq]
      exact ⟨w.1, ih w.2⟩
    · exact twfFrom_weaken d _ (by omega) (ih w.2)

/-- Removing a range of keys keeps the canonical form. -/
theorem twf_tclear [DecidableEq α] (d : Nat → α) (lo hi : Nat) (t : Tab α) (w : twf d t = true) :
    twf d (tclear lo hi t) = true := twfFrom_filter d _ t w

theorem sortedFrom_weaken {lo hi : Nat} (l : List Nat) (h : lo ≤ hi) (w : sortedFrom hi l = true) :
    sortedFrom lo l = true := by
  cases l with
  | nil => rfl
  | cons e r =>
    simp only [sortedFrom, Bool.and_eq_true, decide_eq_true_eq] at w ⊢
    exact ⟨by omega, w.2⟩

theorem sortedFrom_sinsert (l : List Nat) {lo k : Nat} (hk : lo ≤ k) (w : sortedFrom lo l = true) :
    sortedFrom lo (sinsert l k) = true := by
  induction l generalizing lo with
  | nil => simp [sinsert, sortedFrom, hk]
  | cons e r ih =>
    simp only [sortedFrom, Bool.and_eq_true, decide_eq_true_eq] at w
    simp only [sinsert]
    split
    · simp only [sortedFrom, Bool.and_eq_true, decide_eq_true_eq]
      exact ⟨w.1, ih (by omega) w.2⟩
    · split
      · simp only [sortedFrom, Bool.and_eq_true, decide_eq_true_eq]
        exact w
      · simp only [sortedFrom, Bool.and_eq_true, decide_eq_true_eq]
        exact ⟨hk, by omega, w.2⟩

theorem sortedFrom_filter (p : Nat → Bool) (l : List Nat) {lo : Nat} (w : sortedFrom lo l = true) :
    sortedFrom lo (l.filter p) = true := by
  induction l generalizing lo with
  | nil => rfl
  | cons e r ih =>
    simp only [sortedFrom, Bool.and_eq_true, decide_eq_true_eq] at w
    simp only [List.filter]
    split
    · simp only [sortedFrom, Bool.and_eq_true, decide_eq_true_eq]
      exact ⟨w.1, ih w.2⟩
    · exact sortedFrom_weaken _ (by omega) (ih w.2)

end Sys2Proof.Machine
end

