-- ==== Sys2Proof/Laws/Reg.lean ====
section
/-! SUPPORT. Laws of registers, fields and cores: what a read gives after a write. -/

namespace Sys2Proof.Machine

/-- A register read after a register write. -/
theorem reg_setReg (s : State) (r r' : RegName) (i i' : Nat) (v : Word) :
    (s.setReg r i v).reg r' i' = if r' = r ∧ i' = i then v else s.reg r' i' := by
  simp only [State.reg, State.setReg, tget_tput]
  by_cases hr : r' = r
  · subst hr
    simp only [if_true, tget_tput, true_and]
  · have : ¬ r'.ctorIdx = r.ctorIdx := fun h => hr (by
      have h1 := RegName.ofNat_ctorIdx r
      have h2 := RegName.ofNat_ctorIdx r'
      rw [← h1, ← h2, h])
    simp [hr, this]

/-- A register holds what was last written into it. -/
@[simp] theorem reg_setReg_same (s : State) (r : RegName) (i : Nat) (v : Word) : (s.setReg r i v).reg r i = v := by
  simp [reg_setReg]

/-- A write leaves every other register alone. -/
theorem reg_setReg_ne (s : State) {r r' : RegName} (i i' : Nat) (v : Word) (h : r' ≠ r) :
    (s.setReg r i v).reg r' i' = s.reg r' i' := by
  simp [reg_setReg, h]

/-- A bit of a mask. -/
theorem getLsbD_maskBits (hi lo j : Nat) (h : lo ≤ hi) (hj : j < 64) :
    (maskBits hi lo).getLsbD j = (decide (lo ≤ j) && decide (j ≤ hi)) := by
  rw [maskBits, BitVec.getLsbD_ofNat]
  simp only [hj, decide_true, Bool.true_and]
  rw [Nat.testBit_mul_two_pow, Nat.testBit_two_pow_sub_one]
  by_cases h1 : lo ≤ j
  · have : (j - lo < hi + 1 - lo) = (j ≤ hi) := by apply propext; omega
    simp [h1, this]
  · simp [h1]

/-- A bit of a word one of whose fields has been replaced. -/
theorem getLsbD_putBits (w : Word) (hi lo n j : Nat) (h : lo ≤ hi) (hj : j < 64) :
    (putBits w hi lo n).getLsbD j =
      if lo ≤ j ∧ j ≤ hi then n.testBit (j - lo) else w.getLsbD j := by
  simp only [putBits, BitVec.getLsbD_or, BitVec.getLsbD_and, BitVec.getLsbD_not, hj, decide_true, Bool.true_and,
    getLsbD_maskBits hi lo j h hj]
  rw [BitVec.getLsbD_ofNat]
  simp only [hj, decide_true, Bool.true_and, Nat.testBit_mul_two_pow]
  by_cases h1 : lo ≤ j <;> by_cases h2 : j ≤ hi <;> simp [h1, h2]

/-- The bits of a field after another field has been replaced. -/
theorem extract_putBits_disjoint (w : Word) (hi lo n hi' lo' : Nat) (h : lo ≤ hi) (h' : lo' ≤ hi') (b : hi' < 64)
    (d : hi < lo' ∨ hi' < lo) :
    (putBits w hi lo n).extractLsb' lo' (hi' + 1 - lo') = w.extractLsb' lo' (hi' + 1 - lo') := by
  apply BitVec.eq_of_getLsbD_eq
  intro j hj
  simp only [BitVec.getLsbD_extractLsb', hj, decide_true, Bool.true_and]
  rw [getLsbD_putBits _ _ _ _ _ h (by omega)]
  have : ¬ (lo ≤ lo' + j ∧ lo' + j ≤ hi) := by omega
  simp [this]

/-- The bits of a field after it has been replaced by a number that fits. -/
theorem extract_putBits_same (w : Word) (hi lo n : Nat) (h : lo ≤ hi) (b : hi < 64) (hn : n < 2 ^ (hi + 1 - lo)) :
    ((putBits w hi lo n).extractLsb' lo (hi + 1 - lo)).toNat = n := by
  have : (putBits w hi lo n).extractLsb' lo (hi + 1 - lo) = BitVec.ofNat _ n := by
    apply BitVec.eq_of_getLsbD_eq
    intro j hj
    simp only [BitVec.getLsbD_extractLsb', hj, decide_true, Bool.true_and, BitVec.getLsbD_ofNat]
    rw [getLsbD_putBits _ _ _ _ _ h (by omega)]
    have : lo ≤ lo + j ∧ lo + j ≤ hi := by omega
    simp [this]
  rw [this, BitVec.toNat_ofNat, Nat.mod_eq_of_lt hn]

/-- A field holds the number last put into it. -/
theorem fld_setFld_same (s : State) (f : Fld) (i n : Nat) (h : f.lo ≤ f.hi) (b : f.hi < 64)
    (hn : n < 2 ^ (f.hi + 1 - f.lo)) : (s.setFld f i n).fld f i = n := by
  simp only [State.fld, State.setFld, reg_setReg_same]
  exact extract_putBits_same _ _ _ _ h b hn

/-- Setting a field leaves every field of another register, of another instance, or of other bits alone. -/
theorem fld_setFld_ne (s : State) (f g : Fld) (i j n : Nat) (h : f.lo ≤ f.hi) (h' : g.lo ≤ g.hi) (b : g.hi < 64)
    (d : g.reg ≠ f.reg ∨ j ≠ i ∨ f.hi < g.lo ∨ g.hi < f.lo) : (s.setFld f i n).fld g j = s.fld g j := by
  simp only [State.fld, State.setFld, reg_setReg]
  split
  · rename_i e
    obtain ⟨e1, e2⟩ := e
    rw [extract_putBits_disjoint _ _ _ _ _ _ h h' b (by
      rcases d with d | d | d
      · exact absurd e1 d
      · exact absurd e2 d
      · exact d), ← e1, e2]
  · rfl

/-- A core read after a core write. -/
@[simp] theorem core_setCore_same (s : State) (c : Core) (k : CoreSt) : (s.setCore c k).core c = k := by
  simp [State.core, State.setCore]

/-- Distinct cores have distinct keys. -/
theorem coreKey_inj {c c' : Core} (h : coreKey c = coreKey c') : c = c' := by
  cases c <;> cases c' <;> simp only [coreKey] at h <;> first
    | rfl
    | (congr 1; omega)

theorem core_setCore_ne (s : State) {c c' : Core} (k : CoreSt) (h : c' ≠ c) : (s.setCore c k).core c' = s.core c' := by
  simp only [State.core, State.setCore]
  exact tget_tput_ne _ _ _ fun e => h (coreKey_inj e)

@[simp] theorem reg_setCore (s : State) (c : Core) (k : CoreSt) (r : RegName) (i : Nat) :
    (s.setCore c k).reg r i = s.reg r i := rfl
@[simp] theorem fld_setCore (s : State) (c : Core) (k : CoreSt) (f : Fld) (i : Nat) :
    (s.setCore c k).fld f i = s.fld f i := rfl
@[simp] theorem bit_setCore (s : State) (c : Core) (k : CoreSt) (f : Fld) (i : Nat) :
    (s.setCore c k).bit f i = s.bit f i := rfl
@[simp] theorem reg_begin (s : State) (r : RegName) (i : Nat) : s.begin.reg r i = s.reg r i := rfl
@[simp] theorem fld_begin (s : State) (f : Fld) (i : Nat) : s.begin.fld f i = s.fld f i := rfl
@[simp] theorem bit_begin (s : State) (f : Fld) (i : Nat) : s.begin.bit f i = s.bit f i := rfl
@[simp] theorem core_begin (s : State) (c : Core) : s.begin.core c = s.core c := rfl
@[simp] theorem reg_upd (s : State) (u : MemUpd) (r : RegName) (i : Nat) : (s.upd u).reg r i = s.reg r i := rfl
@[simp] theorem core_upd (s : State) (u : MemUpd) (c : Core) : (s.upd u).core c = s.core c := rfl
@[simp] theorem core_setReg (s : State) (r : RegName) (i : Nat) (v : Word) (c : Core) :
    (s.setReg r i v).core c = s.core c := rfl

/-- Of two writes of a core only the second stays, the first being no reset core. -/
theorem setCore_setCore (s : State) (c : Core) {a : CoreSt} (b : CoreSt) (h : a ≠ coreDefault (coreKey c)) :
    (s.setCore c a).setCore c b = s.setCore c b := by
  simp only [State.setCore, tput_tput _ _ _ b h]

/-- A scalar register after a write of it: g0 reads as zero (R34). -/
theorem readG_writeG_same (k : CoreSt) (x : BitVec 5) (w : PWord) :
    (k.writeG x w).readG x = if x = 0 then {} else w := by
  by_cases h : x = 0
  · simp only [CoreSt.readG, h, if_true]
  · simp only [CoreSt.readG, CoreSt.writeG, h, if_false]
    exact tget_tput_same _ _ _ _

theorem readG_writeG_ne (k : CoreSt) {x y : BitVec 5} (w : PWord) (h : y ≠ x) :
    (k.writeG x w).readG y = k.readG y := by
  by_cases hx : x = 0
  · simp [CoreSt.writeG, hx]
  · by_cases hy : y = 0
    · simp [CoreSt.readG, hy]
    · simp only [CoreSt.readG, CoreSt.writeG, hx, hy, if_false]
      exact tget_tput_ne _ _ _ fun e => h (BitVec.eq_of_toNat_eq e)

end Sys2Proof.Machine
end

