-- ==== Sys2Proof/Laws/Settle.lean ====
section
/-! SUPPORT. What the end of a command does: it keeps the canonical form of memory and the queue, and where nothing is
under way of itself it does nothing. -/

namespace Sys2Proof.Machine

/-! ## The end of a command -/

theorem memApply_wf (m : List Host.Cell) (u : MemUpd) (h : twf memDefault m = true) :
    twf memDefault (memApply m u) = true := by
  cases u with
  | byte a b => exact twf_tput _ _ _ _ h
  | mark w p => exact h
  | clear lo hi => exact twf_tclear _ _ _ _ h

theorem marksApply_sorted (m : List Nat) (u : MemUpd) (h : sortedFrom 0 m = true) :
    sortedFrom 0 (marksApply m u) = true := by
  cases u with
  | byte a b => exact h
  | mark w p => cases p with
    | true => exact sortedFrom_sinsert m (Nat.zero_le w) h
    | false => exact sortedFrom_filter _ m h
  | clear lo hi => exact sortedFrom_filter _ m h

/-- The end of a command keeps the canonical form of the memory it began with. -/
theorem commit_wf (s₀ s : State) (h : s₀.wf = true) : (commit s₀ s).wf = true := by
  simp only [State.wf, Bool.and_eq_true] at h ⊢
  constructor
  · show twf memDefault (s.wlog.foldr (fun u m => memApply m u) s₀.mem) = true
    induction s.wlog with
    | nil => exact h.1
    | cons u r ih => exact memApply_wf _ u ih
  · show sortedFrom 0 (s.wlog.foldr (fun u m => marksApply m u) s₀.marks) = true
    induction s.wlog with
    | nil => exact h.2
    | cons u r ih => exact marksApply_sorted _ u ih

@[simp] theorem commit_pending (s₀ s : State) : (commit s₀ s).pending = s₀.pending := rfl
@[simp] theorem commit_wlog (s₀ s : State) : (commit s₀ s).wlog = [] := rfl
@[simp] theorem commit_regs (s₀ s : State) : (commit s₀ s).regs = s.regs := rfl
@[simp] theorem commit_cores (s₀ s : State) : (commit s₀ s).cores = s.cores := rfl
@[simp] theorem commit_out (s₀ s : State) : (commit s₀ s).out = s.out := rfl
@[simp] theorem commit_reg (s₀ s : State) (r : RegName) (i : Nat) : (commit s₀ s).reg r i = s.reg r i := rfl
@[simp] theorem commit_fld (s₀ s : State) (f : Fld) (i : Nat) : (commit s₀ s).fld f i = s.fld f i := rfl
@[simp] theorem commit_bit (s₀ s : State) (f : Fld) (i : Nat) : (commit s₀ s).bit f i = s.bit f i := rfl
@[simp] theorem commit_core (s₀ s : State) (c : Core) : (commit s₀ s).core c = s.core c := rfl

/-- The end of a command that changed no memory and not the queue leaves what the command did. -/
theorem commit_of_clean (s₀ s : State) (hm : s.mem = s₀.mem) (hk : s.marks = s₀.marks) (hw : s.wlog = [])
    (hp : s.pending = s₀.pending) : commit s₀ s = s := by
  cases s
  simp only at hm hk hw hp
  simp [commit, hm, hk, hw, hp]

/-! ## A quiet machine -/

theorem mem_upFrom (n : Nat) : ∀ (lo i : Nat), i ∈ upFrom lo n ↔ lo ≤ i ∧ i < lo + n := by
  induction n with
  | zero => intro lo i; simp only [upFrom, List.not_mem_nil, false_iff]; omega
  | succ n ih => intro lo i; simp only [upFrom, List.mem_cons, ih]; omega

/-- What a quiet machine is. -/
theorem quiet_iff (s : State) : quiet s = true ↔
    s.raised = [] ∧ busyCores s = [] ∧ (s.dv 0).posts = [] ∧ (s.dv 1).posts = [] ∧ s.served = [] ∧ s.held = [] ∧
    (s.fld CLG_RING.BASE 0 = 0 ∨ s.clog.line ≠ 0) ∧ (∀ i, i < 37 → islandStops s i = false) ∧ safeSettled s = true ∧
    jnlRests s = true ∧ aesRests s = true := by
  have hu : (∀ i ∈ upFrom 0 37, (! islandStops s i) = true) ↔ ∀ i, i < 37 → islandStops s i = false := by
    simp only [mem_upFrom, Nat.zero_le, true_and, Nat.zero_add, Bool.not_eq_true']
  simp only [quiet, Bool.and_eq_true, List.isEmpty_iff, List.all_eq_true, hu, Bool.or_eq_true, decide_eq_true_eq, and_assoc]

theorem quiet_raised (s : State) (h : quiet s = true) : s.raised = [] := ((quiet_iff s).1 h).1

theorem quiet_busy (s : State) (h : quiet s = true) : busyCores s = [] := ((quiet_iff s).1 h).2.1

theorem quiet_running (s : State) (h : quiet s = true) (i : Nat) (hi : i < 37) : islandStops s i = false :=
  ((quiet_iff s).1 h).2.2.2.2.2.2.2.1 i hi

theorem work_quiet (s : State) (h : quiet s = true) : work s = none := by
  simp [work, quiet_raised s h, quiet_busy s h]

theorem workN_quiet (n : Nat) (s : State) (h : quiet s = true) : workN n s = s := by
  cases n with
  | zero => rfl
  | succ n => simp [workN, work_quiet s h]

theorem forL_id (l : List α) (f : α → σ → σ) (s : σ) (h : ∀ a ∈ l, f a s = s) : forL l f s = s := by
  induction l with
  | nil => rfl
  | cons a r ih =>
    simp only [forL, List.foldl_cons]
    rw [h a (by simp)]
    exact ih fun b hb => h b (by simp [hb])

theorem edgePump_quiet (s : State) (x : Nat) (h : s.served = []) : edgePump s x = s := by
  unfold edgePump
  split
  · simp [h]
  · rfl

theorem syncSafe_quiet (s : State) (h : safeSettled s = true) : syncSafe s = s := by
  simp only [safeSettled, Bool.and_eq_true] at h
  obtain ⟨⟨h1, h2⟩, h3⟩ := h
  have h1' : (mayLeaveSafe s && inSafe s) = false := Bool.not_eq_true' _ |>.mp h1
  have h3' : (s.drd.hb && ! safeOk s) = false := by
    cases hb : s.drd.hb <;> cases hk : safeOk s <;> simp_all
  simp [syncSafe, h1', h2, h3']

theorem jnlPump_rests (s : State) (h : jnlRests s = true) : jnlPump s = s := by
  simp only [jnlRests, Bool.and_eq_true] at h
  obtain ⟨h1, h2⟩ := h
  have e : stagePiece s = s := by
    unfold stagePiece
    split
    · rfl
    · rename_i o r ho
      simp only [ho] at h2
      simp [h2]
  simp only [jnlPump, e, h1, if_true]

theorem aesPump_rests (s : State) (h : aesRests s = true) : aesPump s = s := by
  unfold aesPump
  split
  · rfl
  · rename_i j hj
    simp only [aesRests, hj, Bool.or_eq_true, decide_eq_true_eq, Bool.and_eq_true, Bool.not_eq_true'] at h
    rcases h with h | ⟨h1, h2⟩
    · simp [h]
    · have hf : (s.unitDone.find? fun d => d.1 == aesSrc && d.2.1 == j.tag) = none := by
        rw [List.find?_eq_none]
        intro d hd
        simp only [List.any_eq_false] at h2
        have := h2 d hd
        simp only [Bool.and_eq_true, not_and]
        intro hc
        exact absurd hc this
      have h3 : ¬ j.phase % 2 = 0 := by omega
      by_cases h4 : 4 ≤ j.phase
      · simp [h4]
      · simp [h4, h3, hf]

/-- Where nothing is under way of itself, nothing happens at the end of a command. -/
theorem settle_quiet (s : State) (h : quiet s = true) : settle s = s := by
  have hw := fun n => workN_quiet n s h
  obtain ⟨_, _, h3, h4, h5, h6, h7, h8, h9, h10, h11⟩ := (quiet_iff s).1 h
  have e1 : pumpPosts s = s := by simp [pumpPosts, h3, h4]
  have e2 : pumpHeld s = s := by simp [pumpHeld, h6]
  have e3 : clgPump s = s := by
    unfold clgPump
    rcases h7 with h7 | h7
    · simp [h7]
    · simp [h7]
  have e4 : ungate s = s := by
    unfold ungate
    apply forL_id
    intro i hi
    have : s.bit WTM_ISL.GATED i = false := by
      have hi' : i < 37 := by
        simp only [mem_upFrom, List.mem_append, List.mem_map, List.mem_cons, List.not_mem_nil, or_false] at hi
        rcases hi with hi | ⟨k, hk, rfl⟩
        · omega
        · have := hk.2
          split <;> omega
      have h := h8 i hi'
      simp only [islandStops, Bool.or_eq_false_iff] at h
      exact h.1
    simp [this]
  have e5 : settleOnce s = s := by
    simp only [settleOnce, e1, edgePump_quiet s _ h5, e2, e3, e4, jnlPump_rests s h10, aesPump_rests s h11, hw]
  simp only [settle, hw, e5, e4, syncSafe_quiet s h9]

/-- A command whose body leaves nothing under way answers what its body leaves. -/
theorem run_quiet (f : State → State) (s : State) (ha : alive s = true) (h : quiet (f s.begin) = true) :
    run true f s = .next (commit s (f s.begin)) := by
  simp [run, ha, settle_quiet _ h]

theorem runAlways_quiet (f : State → State) (s : State) (h : quiet (f s.begin) = true) :
    runAlways true f s = .next (commit s (f s.begin)) := by
  simp [runAlways, settle_quiet _ h]

/-! ## Quiet is about few fields -/

/-- Whether the safe lines stand depends on these registers and fields alone. -/
theorem safeSettled_congr (s t : State) (h1 : t.drd = s.drd) (h2 : t.boot = s.boot)
    (h3 : ∀ i, t.reg .DRD_INJ i = s.reg .DRD_INJ i) (h4 : ∀ i, t.reg .SEC_BOOT i = s.reg .SEC_BOOT i)
    (h5 : ∀ i, t.reg .DRD_CTL i = s.reg .DRD_CTL i) (h6 : ∀ i, t.reg .DRD_SAFE i = s.reg .DRD_SAFE i)
    (h7 : ∀ i, t.reg .DET_STAT i = s.reg .DET_STAT i) : safeSettled t = safeSettled s := by
  have b1 : t.bit DRD_INJ.ALL 0 = s.bit DRD_INJ.ALL 0 := congrArg (BitVec.getLsbD · _) (h3 0)
  have b2 : t.fld DRD_INJ.ROWS 0 = s.fld DRD_INJ.ROWS 0 := congrArg (fun w : Word => (w.extractLsb' _ _).toNat) (h3 0)
  have b3 : t.bit SEC_BOOT.READY 0 = s.bit SEC_BOOT.READY 0 := congrArg (BitVec.getLsbD · _) (h4 0)
  have b4 : t.bit DRD_CTL.ARM 0 = s.bit DRD_CTL.ARM 0 := congrArg (BitVec.getLsbD · _) (h5 0)
  have b5 : t.bit DRD_SAFE.STATE 0 = s.bit DRD_SAFE.STATE 0 := congrArg (BitVec.getLsbD · _) (h6 0)
  have b6 : t.bit DRD_SAFE.OKNOW 0 = s.bit DRD_SAFE.OKNOW 0 := congrArg (BitVec.getLsbD · _) (h6 0)
  have b7 : t.bit DET_STAT.REPLAYING 0 = s.bit DET_STAT.REPLAYING 0 := congrArg (BitVec.getLsbD · _) (h7 0)
  simp only [safeSettled, mayLeaveSafe, injectionPassed, inSafe, replaying, safeOk, h1, h2, b1, b2, b3, b4, b5, b6, b7]

/-- Quiet depends on these fields and registers alone. -/
theorem quiet_congr (s t : State) (hr : t.raised = s.raised) (hc : busyCores t = busyCores s) (hd : t.dvl = s.dvl)
    (hv : t.served = s.served) (hl : t.held = s.held) (hn : t.clog.line = s.clog.line) (h1 : t.drd = s.drd)
    (h2 : t.boot = s.boot) (h3 : t.jnl = s.jnl) (h4 : t.sec = s.sec) (h5 : t.unitDone = s.unitDone)
    (hg : ∀ r ∈ [RegName.CLG_RING, .WTM_ISL, .DRD_INJ, .SEC_BOOT, .DRD_CTL, .DRD_SAFE, .DET_STAT],
      ∀ i, t.reg r i = s.reg r i) : quiet t = quiet s := by
  have e := safeSettled_congr s t h1 h2 (hg _ (by simp)) (hg _ (by simp)) (hg _ (by simp)) (hg _ (by simp))
    (hg _ (by simp))
  have g1 : t.fld CLG_RING.BASE 0 = s.fld CLG_RING.BASE 0 :=
    congrArg (fun w : Word => (w.extractLsb' _ _).toNat) (hg .CLG_RING (by simp) 0)
  have g2 : ∀ i, islandStops t i = islandStops s i := fun i => by
    have h := hg .WTM_ISL (by simp) i
    simp only [islandStops, State.bit]
    rw [show WTM_ISL.GATED.reg = RegName.WTM_ISL from rfl, show WTM_ISL.INRST.reg = RegName.WTM_ISL from rfl, h]
  simp only [quiet, hr, hc, State.dv, hd, hv, hl, hn, e, g1, g2, jnlRests, aesRests, h3, h4, h5]

/-- Setting a register that no pump looks at keeps a machine quiet. -/
theorem quiet_setReg (s : State) (r : RegName) (i : Nat) (v : Word)
    (h : r ∉ [RegName.CLG_RING, .WTM_ISL, .DRD_INJ, .SEC_BOOT, .DRD_CTL, .DRD_SAFE, .DET_STAT]) :
    quiet (s.setReg r i v) = quiet s := by
  apply quiet_congr <;> first
    | rfl
    | (intro q hq j
       exact reg_setReg_ne s _ _ _ fun e => h (e ▸ hq))

@[simp] theorem quiet_begin (s : State) : quiet s.begin = quiet s := rfl
@[simp] theorem quiet_useFree (s : State) : quiet s.useFree = quiet s := rfl
@[simp] theorem quiet_upd (s : State) (u : MemUpd) : quiet (s.upd u) = quiet s := rfl
@[simp] theorem quiet_send (s : State) (m : OutMsg) : quiet (s.send m) = quiet s := rfl

end Sys2Proof.Machine
end

