-- ==== Sys2Proof/Laws/Issue.lean ====
section
/-! SUPPORT. What the issue of a clause of one instruction does: the law that every statement about an instruction
goes through. -/

namespace Sys2Proof.Machine

/-- The core that holds one instruction and nothing else. -/
def fedWith (k : CoreSt) (i : Instr) : CoreSt := { k with stream := [i] }

/-- The context of a clause of one instruction. -/
def soleCtx (s : State) (c : Core) (i : Instr) : Ctx :=
  ⟨c, 0, fedWith (s.core c) i, storesAccepted (s.begin.setCore c (fedWith (s.core c) i)) (coreKey c), false⟩

/-! ## Busy cores -/

/-- A table entry that is busy. -/
theorem filter_tput_busy (p : Nat × CoreSt → Bool) (t : Tab CoreSt) (k : Nat) (v : CoreSt)
    (hv : v ≠ coreDefault k) (hp : p (k, v) = true) (h : t.filter p = []) :
    (tput coreDefault t k v).filter p = [(k, v)] := by
  induction t with
  | nil => simp [tput, hv, hp]
  | cons e r ih =>
    obtain ⟨j, w⟩ := e
    have hj : p (j, w) = false := by
      cases hc : p (j, w)
      · rfl
      · simp [List.filter, hc] at h
    have hr : r.filter p = [] := by simpa [List.filter, hj] using h
    simp only [tput, hv, if_false, or_false]
    split
    · simp [List.filter, hp, hr]
    · split
      · simp [List.filter, hj, ih hr]
      · simp [List.filter, hp, hj, hr]

/-- A table entry that is idle. -/
theorem filter_tput_idle (p : Nat × CoreSt → Bool) (t : Tab CoreSt) (k : Nat) (v : CoreSt)
    (hp : p (k, v) = false) (h : t.filter p = []) : (tput coreDefault t k v).filter p = [] := by
  induction t with
  | nil => by_cases hv : v = coreDefault k <;> simp [tput, hv, hp]
  | cons e r ih =>
    obtain ⟨j, w⟩ := e
    have hj : p (j, w) = false := by
      cases hc : p (j, w)
      · rfl
      · simp [List.filter, hc] at h
    have hr : r.filter p = [] := by simpa [List.filter, hj] using h
    simp only [tput]
    split
    · split
      · exact ih hr
      · simp [List.filter, hp, hr]
    · split
      · simp [List.filter, hj, ih hr]
      · simp [List.filter, hp, hj, hr]

theorem filter_cores_of_busy (s : State) (h : busyCores s = []) :
    (s.cores.filter fun k => ! k.2.stream.isEmpty || k.2.underWay || copying s k.1) = [] := by
  exact List.map_eq_nil_iff.mp h

/-- Only a lane with a copy in progress copies. -/
theorem copying_eq (s : State) (k : Nat) :
    copying s k = (decide (256 ≤ k) && decide (k < 320) && (s.lane (k - 256)).keep.isSome) := by
  unfold copying
  cases h : s.lanes with
  | nil => simp [State.lane, h, tget]
  | cons a r => simp

/-- A ready core copies no offer. -/
theorem copying_ready (s : State) (c : Core) (h : ready s c = true) : copying s (coreKey c) = false := by
  rw [copying_eq]
  cases c with
  | eng e =>
    have : ¬ 256 ≤ coreKey (.eng e) := by
      have := e.isLt
      simp only [coreKey]
      omega
    simp [this]
  | lane l =>
    simp only [ready, Bool.and_eq_true, Option.isNone_iff_eq_none] at h
    have hk : (s.lane (coreKey (.lane l) - 256)).keep = none := by
      rw [show coreKey (.lane l) - 256 = l.val by simp only [coreKey]; omega]
      exact h.2.1.1.2
    simp [hk]
  | drd => simp [coreKey]

/-- The core of a key. -/
theorem core_of_key (c : Core) :
    (if coreKey c < 256 then Core.eng (Fin.ofNat 256 (coreKey c))
     else if coreKey c < 320 then .lane (Fin.ofNat 64 (coreKey c - 256)) else .drd) = c := by
  cases c with
  | eng e =>
    have h : (Fin.ofNat 256 e.val : Fin 256) = e := Fin.ext (Nat.mod_eq_of_lt e.isLt)
    simp only [coreKey, e.isLt, if_true, h]
  | lane l =>
    have h1 : ¬ 256 + l.val < 256 := by omega
    have h2 : 256 + l.val < 320 := by omega
    have h3 : 256 + l.val - 256 = l.val := by omega
    have h : (Fin.ofNat 64 l.val : Fin 64) = l := Fin.ext (Nat.mod_eq_of_lt l.isLt)
    simp only [coreKey, h1, h2, h3, if_true, if_false, h]
  | drd => rfl

/-- A core that has been fed is the one that is busy. -/
theorem busyCores_fed (s : State) (c : Core) (i : Instr) (h : busyCores s = []) :
    busyCores (s.setCore c (fedWith (s.core c) i)) = [c] := by
  have hf := filter_cores_of_busy s h
  have hne : fedWith (s.core c) i ≠ coreDefault (coreKey c) := by
    intro e
    have := congrArg CoreSt.stream e
    simp only [fedWith, coreDefault] at this
    split at this <;> simp at this
  have hcp : ∀ j, copying (s.setCore c (fedWith (s.core c) i)) j = copying s j := fun _ => rfl
  simp only [busyCores, hcp]
  rw [show (s.setCore c (fedWith (s.core c) i)).cores = tput coreDefault s.cores (coreKey c) (fedWith (s.core c) i) from rfl,
    filter_tput_busy (fun x => ! x.2.stream.isEmpty || x.2.underWay || copying s x.1) _ _ _ hne (by simp [fedWith]) hf]
  simp only [List.map_cons, List.map_nil]
  rw [core_of_key]

/-- A core that holds no instruction, ends no task and copies no offer is not busy. -/
theorem busyCores_idle (s : State) (c : Core) (k : CoreSt) (h : busyCores s = []) (hc : copying s (coreKey c) = false)
    (hk : k.stream = []) (he : k.underWay = false) : busyCores (s.setCore c k) = [] := by
  have hcp : ∀ j, copying (s.setCore c k) j = copying s j := fun _ => rfl
  simp only [busyCores, hcp, List.map_eq_nil_iff]
  exact filter_tput_idle (fun x => ! x.2.stream.isEmpty || x.2.underWay || copying s x.1) _ _ _ (by simp [hk, he, hc])
    (filter_cores_of_busy s h)

/-- An idle core keeps a machine quiet. -/
theorem quiet_setCore (s : State) (c : Core) (k : CoreSt) (h : quiet s = true) (hc : copying s (coreKey c) = false)
    (hk : k.stream = []) (he : k.underWay = false) : quiet (s.setCore c k) = true := by
  have hb : busyCores s = [] := quiet_busy s h
  rw [quiet_congr s (s.setCore c k) rfl (by rw [busyCores_idle s c k hb hc hk he, hb]) rfl rfl rfl rfl rfl rfl rfl rfl rfl
    (fun _ _ _ => rfl)]
  exact h

/-! ## Fetch -/

theorem setCore_upd (s : State) (c : Core) (k : CoreSt) (u : MemUpd) : (s.setCore c k).upd u = (s.upd u).setCore c k := rfl

theorem forL_setCore (l : List α) (f : α → State → State) (c : Core) (k : CoreSt)
    (hf : ∀ a s, f a (s.setCore c k) = (f a s).setCore c k) (s : State) :
    forL l f (s.setCore c k) = (forL l f s).setCore c k := by
  induction l generalizing s with
  | nil => rfl
  | cons a r ih =>
    simp only [forL, List.foldl_cons, hf]
    exact ih _

theorem write_setCore (s : State) (c : Core) (k : CoreSt) (bs : List (Nat × Byte)) (p : Nat → Bool) :
    (s.setCore c k).write bs p = (s.write bs p).setCore c k := by
  simp only [State.write]
  rw [forL_setCore _ _ c k (fun _ _ => rfl)]
  apply forL_setCore
  intro w s
  split
  · rfl
  · split <;> rfl

/-- Memory as an ordering point sees it does not depend on a core. -/
theorem view_setCore (s : State) (c : Core) (k : CoreSt) (p : Nat) :
    (s.setCore c k).view p = (s.view p).setCore c k :=
  forL_setCore _ _ c k (fun _ _ => write_setCore _ _ _ _ _) s

theorem someAllot_congr (k k' : CoreSt) (r : Right) (a n : Nat) (h : k'.sp = k.sp) :
    someAllot k' r a n = someAllot k r a n := by
  have e : k'.special = k.special := funext fun n => by rw [CoreSt.special, CoreSt.special, h]
  simp only [someAllot, allotGrants, e]

/-- Reach and allotments depend on a core's special registers alone. -/
theorem accessOk_setCore (s : State) (c : Core) (k : CoreSt) (r : Right) (a n : Nat) (h : k.sp = (s.core c).sp) :
    accessOk (s.setCore c k) c r a n = accessOk s c r a n := by
  cases c with
  | eng e =>
    simp only [accessOk, core_setCore_same, someAllot_congr _ _ r a n h]
    rfl
  | lane l => rfl
  | drd => rfl

/-- The fetch of a clause depends on a core's special registers alone. -/
theorem fetchTrap_setCore (s : State) (c : Core) (k : CoreSt) (a : Nat) (h : k.sp = (s.core c).sp) :
    fetchTrap (s.setCore c k) ((s.setCore c k).view (corePt c)) c a = fetchTrap s (s.view (corePt c)) c a := by
  simp only [fetchTrap, accessOk_setCore s c k .ex a 4 h, view_setCore]
  rfl

/-! ## Issue -/

/-- The word of a ready core's next clause raises no fault. -/
theorem clauseTrap_sole (s : State) (c : Core) (i : Instr) (f : InstrInfo) (hi : instrInfo i = some f)
    (hs : f.stop = true) (hb : wordBad i = false) (hft : fetchTrap s (s.view (corePt c)) c (s.core c).pc = none) :
    clauseTrap (s.setCore c (fedWith (s.core c) i)) c (s.core c).pc [i] = none := by
  have h0 : fetchTrap (s.setCore c (fedWith (s.core c) i)) ((s.setCore c (fedWith (s.core c) i)).view (corePt c)) c
      ((s.core c).pc + 4 * 0) = none := by
    rw [Nat.mul_zero, Nat.add_zero, fetchTrap_setCore s c (fedWith (s.core c) i) _ rfl, hft]
  simp only [clauseTrap, List.length_cons, List.length_nil, upFrom, List.findSome?_cons, h0, List.findSome?_nil]
  simp only [repeated, clsOf, hi, hb, Option.map_some, List.contains_nil, List.any_cons, isStop, Option.getD_some, hs,
    List.any_nil, Bool.or_false, Bool.not_true, Bool.false_eq_true, if_false, Option.map_none]

/-- A clause of one instruction, whose effect is `u` on the core moved past it, issues and leaves `u`. -/
theorem issueClause_sole (s : State) (c : Core) (i : Instr) (u : State) (f : InstrInfo) (hi : instrInfo i = some f)
    (hs : f.stop = true) (hb : wordBad i = false) (hl : s.latent = []) (hk : (s.core c).stream = [])
    (hw : (s.core c).waiting = false) (ha : (s.core c).arrived = false) (hg : (s.core c).granted = false)
    (hc : (s.core c).gated = false) (hft : fetchTrap s (s.view (corePt c)) c (s.core c).pc = none)
    (harr : ∀ x w, arrival x w [i] = none) (hur : (u.core c).rest = none)
    (heff : effect ⟨c, 0, fedWith (s.core c) i, storesAccepted (s.setCore c (fedWith (s.core c) i)) (coreKey c), false⟩
      (s.setCore c (advanced (s.core c))) i = .ok u) :
    issueClause (s.setCore c (fedWith (s.core c) i)) c [i] = some u := by
  have hne : fedWith (s.core c) i ≠ coreDefault (coreKey c) := by
    intro e
    have := congrArg CoreSt.stream e
    simp only [fedWith, coreDefault] at this
    split at this <;> simp at this
  have hafter : afterClause (fedWith (s.core c) i) 1 = advanced (s.core c) := by
    simp only [afterClause, fedWith, advanced, List.drop_succ_cons, List.drop_zero, Nat.mul_one, hk, hw, ha, hg, hc]
  have htr : ∀ n, touchRead (s.setCore c (fedWith (s.core c) i)) (coreSrc c) (coreAddr c (s.core c).pc) n 0 =
      s.setCore c (fedWith (s.core c) i) := fun n => by simp [touchRead, hl]
  have htrap := clauseTrap_sole s c i f hi hs hb hft
  have hord : clauseOrder [i] = [(0, i)] := by
    cases h : isFinal i <;> simp [clauseOrder, upFrom, h]
  have hpc : (fedWith (s.core c) i).pc = (s.core c).pc := rfl
  have hwt : (fedWith (s.core c) i).waiting = false := hw
  have hgr : (fedWith (s.core c) i).granted = false := hg
  simp only [issueClause, core_setCore_same, hwt, hpc, Bool.false_eq_true, if_false, htr, htrap, List.length_cons,
    List.length_nil, hafter, hgr, harr, Option.getD_none, Nat.zero_add]
  rw [setCore_setCore s c _ hne]
  simp only [hord, runClause, heff, hur, Option.isSome_none, Bool.false_eq_true, if_false]

/-- No core is held by the reset of its island in a quiet machine. -/
theorem coreHeld_quiet (s : State) (c : Core) (h : quiet s = true) : coreHeld s c = false := by
  have g : ∀ i, i < 37 → s.bit WTM_ISL.INRST i = false := fun i hi => by
    have := quiet_running s h i hi
    simp only [islandStops, Bool.or_eq_false_iff] at this
    exact this.2
  cases c with
  | eng e =>
    have : islandOf (e.val / 16) < 37 := by
      have := e.isLt
      unfold islandOf
      split <;> omega
    exact g _ this
  | lane l => exact g _ (by have := l.isLt; omega)
  | drd => rfl

/-- What a ready core does with one instruction. -/
theorem pumpCore_sole (s : State) (c : Core) (i : Instr) (u : State) (f : InstrInfo) (hi : instrInfo i = some f)
    (hs : f.stop = true) (hb : wordBad i = false) (hl : s.latent = []) (hh : coreHeld s c = false) (hr : ready s c = true)
    (harr : ∀ x w, arrival x w [i] = none) (hsn : beginsProblem i = false)
    (htk : (s.core c).state ≠ 1 ∨ ∀ t e b, takesTask t e b [i] = false) (hur : (u.core c).rest = none)
    (heff : effect ⟨c, 0, fedWith (s.core c) i, storesAccepted (s.setCore c (fedWith (s.core c) i)) (coreKey c), false⟩
      (s.setCore c (advanced (s.core c))) i = .ok u) :
    pumpCore (s.setCore c (fedWith (s.core c) i)) c = some (counted s c u) := by
  have hd : headClause 4 [i] = some [i] := by simp [headClause, isStop, hi, hs]
  simp only [ready, Bool.and_eq_true, List.isEmpty_iff, Bool.not_eq_true', Option.isNone_iff_eq_none] at hr
  obtain ⟨⟨⟨⟨⟨⟨⟨⟨_, hk⟩, hw⟩, ha⟩, hg⟩, hgt⟩, hen⟩, hft⟩, hln⟩ := hr
  have his := issueClause_sole s c i u f hi hs hb hl hk hw ha hg hgt hft harr hur heff
  have hch : coreHeld (s.setCore c (fedWith (s.core c) i)) c = false := by
    rw [← hh]
    cases c <;> rfl
  cases c with
  | eng e =>
    simp only [CoreSt.underWay, Bool.or_eq_false_iff, Option.isSome_eq_false_iff, Option.isNone_iff_eq_none] at hen
    have h1 : (fedWith (s.core (.eng e)) i).ending = none := hen.1
    have h0 : (fedWith (s.core (.eng e)) i).rest = none := hen.2
    have h2 : (fedWith (s.core (.eng e)) i).arrived = false := ha
    have h3 : (fedWith (s.core (.eng e)) i).stream = [i] := rfl
    have h4 : (decide ((fedWith (s.core (.eng e)) i).state = 1) && (fedWith (s.core (.eng e)) i).runtime &&
        takesTask (s.setCore (.eng e) (fedWith (s.core (.eng e)) i)) e (fedWith (s.core (.eng e)) i) [i]) = false := by
      rcases htk with h | h
      · have : (fedWith (s.core (.eng e)) i).state ≠ 1 := h
        simp [this]
      · simp [h]
    simp only [pumpCore, hch, pumpEngine, core_setCore_same, h0, h1, h3, hd, h2, h4, Option.bind_some, Bool.false_and,
      Bool.false_eq_true, if_false, his, counted]
  | lane l =>
    simp only [Bool.and_eq_true, Option.isNone_iff_eq_none, Bool.not_eq_true'] at hln
    have h3 : (fedWith (s.core (.lane l)) i).stream = [i] := rfl
    have h4 : (s.setCore (.lane l) (fedWith (s.core (.lane l)) i)).lane l.val = s.lane l.val := rfl
    have h5 : preempted (s.setCore (.lane l) (fedWith (s.core (.lane l)) i)) l.val = none := hln.2
    have h6 : isMember (s.setCore (.lane l) (fedWith (s.core (.lane l)) i)) l.val = false := hln.1.2
    have hb : [i].any beginsProblem = false := by simp [hsn]
    simp only [pumpCore, hch, pumpLane, core_setCore_same, h3, h4, h5, h6, hln.1.1.1, hln.1.1.2, hd, Option.bind_some, hb,
      Bool.or_false, Bool.false_and,
      Option.isSome_none, Bool.false_eq_true, if_false, Nat.lt_irrefl, his, Option.map_some, counted]
  | drd =>
    have h3 : (fedWith (s.core .drd) i).stream = [i] := rfl
    simp only [pumpCore, hch, core_setCore_same, h3, hd, Option.bind_some, his, counted, Bool.false_eq_true, if_false]

/-- The command of an instruction that ends its clause: on a ready core, with nothing else under way, the clause issues
with the effect that `effect` gives it on the core moved past it, and the command answers what it leaves. -/
theorem runInstr_sole (s : State) (c : Core) (i : Instr) (u : State) (f : InstrInfo) (hst : still s = true)
    (hr : ready s c = true) (hi : instrInfo i = some f) (hc : f.core = c) (hs : f.stop = true)
    (hb : wordBad i = false) (harr : ∀ x w, arrival x w [i] = none) (hsn : beginsProblem i = false)
    (htk : (s.core c).state ≠ 1 ∨ ∀ t e b, takesTask t e b [i] = false) (hur : (u.core c).rest = none)
    (heff : effect (soleCtx s c i) (s.begin.setCore c (advanced (s.core c))) i = .ok u)
    (hq : quiet (counted s c u) = true) :
    runInstr i s = .next (commit s (counted s c u)) := by
  simp only [still, Bool.and_eq_true, List.isEmpty_iff] at hst
  obtain ⟨⟨⟨⟨hal, hwl⟩, hla⟩, _⟩, hqs⟩ := hst
  have hrb : ready s.begin c = true := by
    have : s.begin = { s with out := [], turn := s.turn + 1 } := by
      cases s
      simp only at hwl
      simp [State.begin, hwl]
    rw [this]
    generalize s.turn + 1 = n
    have hv : ({ s with out := [], turn := n } : State).view (corePt c) = { s.view (corePt c) with out := [], turn := n } := by
      have hw : ∀ (bs : List (Nat × Byte)) (p : Nat → Bool) (s : State),
          ({ s with out := [], turn := n } : State).write bs p = { s.write bs p with out := [], turn := n } := by
        have hf : ∀ {α : Type} (l : List α) (g : α → State → State)
            (_ : ∀ a s, g a ({ s with out := [], turn := n } : State) = { g a s with out := [], turn := n }) (s : State),
            forL l g ({ s with out := [], turn := n } : State) = { forL l g s with out := [], turn := n } := by
          intro α l g hg s
          induction l generalizing s with
          | nil => rfl
          | cons a r ih =>
            simp only [forL, List.foldl_cons, hg]
            exact ih _
        intro bs p s
        simp only [State.write]
        rw [hf _ _ (fun _ _ => rfl)]
        apply hf
        intro w s
        split
        · rfl
        · split <;> rfl
      have hf : ∀ (l : List PWrite) (s : State),
          forL l (fun w s => s.write w.bytes fun a => w.pois.contains a) ({ s with out := [], turn := n } : State) =
            { forL l (fun w s => s.write w.bytes fun a => w.pois.contains a) s with out := [], turn := n } := by
        intro l
        induction l with
        | nil => intro s; rfl
        | cons a r ih =>
          intro s
          simp only [forL, List.foldl_cons, hw]
          exact ih _
      exact hf _ s
    simp only [ready, fetchTrap, hv] at hr ⊢
    exact hr
  have hqb : quiet s.begin = true := hqs
  have hbz : busyCores s.begin = [] := quiet_busy _ hqb
  have hra : s.begin.raised = [] := quiet_raised _ hqb
  have hhe : coreHeld s.begin c = false := coreHeld_quiet _ c hqb
  have htakes : takesInstr s c = true := by
    simp only [ready, Bool.and_eq_true] at hr
    exact hr.1.1.1.1.1.1.1.1
  have hks : (s.core c).stream = [] := by
    simp only [ready, Bool.and_eq_true, List.isEmpty_iff] at hr
    exact hr.1.1.1.1.1.1.1.2
  have hfeed : feed s.begin i = s.begin.setCore c (fedWith (s.core c) i) := by
    have h1 : takesInstr s.begin c = true := htakes
    simp only [feed, hi, hc, h1, if_true, State.modCore, core_begin, hks, List.nil_append, fedWith]
  have hwork : work (s.begin.setCore c (fedWith (s.core c) i)) = some (counted s c u) := by
    have h1 := busyCores_fed s.begin c i hbz
    rw [core_begin] at h1
    have h2 := pumpCore_sole s.begin c i u f hi hs hb hla hhe hrb harr hsn htk hur heff
    rw [core_begin] at h2
    have h3 : (s.begin.setCore c (fedWith (s.core c) i)).raised = [] := hra
    have h4 : counted s.begin c u = counted s c u := by cases c <;> rfl
    rw [h4] at h2
    simp only [work, h3, List.isEmpty_nil, if_true, h1, List.findSome?_cons, h2]
  have hsettle : settle (s.begin.setCore c (fedWith (s.core c) i)) = counted s c u := by
    have hfuel : ∃ n, workFuel (s.begin.setCore c (fedWith (s.core c) i)) = n + 1 := ⟨_, by
      rw [workFuel, Nat.add_comm 32, ← Nat.add_assoc _ 31 1]⟩
    obtain ⟨n, hn⟩ := hfuel
    have hN : workN (workFuel (s.begin.setCore c (fedWith (s.core c) i))) (s.begin.setCore c (fedWith (s.core c) i)) =
        counted s c u := by
      rw [hn]
      simp only [workN, hwork]
      exact workN_quiet n _ hq
    have hs := settle_quiet _ hq
    simp only [settle, workN_quiet _ _ hq] at hs
    simp only [settle, hN]
    exact hs
  simp only [runInstr, run, hal, if_true, Bool.not_true, Bool.false_eq_true, if_false, hfeed, hsettle]

/-- Counting a clause changes nothing but the lane's problem. -/
theorem counted_eq (s : State) (c : Core) (u : State) : ∃ ls, counted s c u = { u with lanes := ls } := by
  refine ⟨(counted s c u).lanes, ?_⟩
  cases c with
  | lane l =>
    simp only [counted, laneRetire]
    split
    · split <;> rfl
    · rfl
  | eng e => rfl
  | drd => rfl

/-- Counting a clause starts and ends no copy. -/
theorem keep_counted (s : State) (c : Core) (u : State) (j : Nat) : ((counted s c u).lane j).keep = (u.lane j).keep := by
  cases c with
  | lane l =>
    simp only [counted, laneRetire]
    split
    · split
      · rfl
      · simp only [State.lane, State.setLane, tget_tput]
        split
        · rename_i h
          rw [h]
        · rfl
    · rfl
  | eng e => rfl
  | drd => rfl

theorem quiet_counted (s : State) (c : Core) (u : State) (h : quiet u = true) : quiet (counted s c u) = true := by
  have hk := keep_counted s c u
  obtain ⟨ls, e⟩ := counted_eq s c u
  rw [e] at hk ⊢
  rw [quiet_congr u { u with lanes := ls } rfl ?_ rfl rfl rfl rfl rfl rfl rfl rfl rfl (fun _ _ _ => rfl)]
  · exact h
  · simp only [busyCores, copying_eq, hk]

/-- An instruction that changes its own core alone answers the state with that core. -/
theorem runInstr_core (s : State) (c : Core) (i : Instr) (k : CoreSt) (f : InstrInfo) (hst : still s = true)
    (hr : ready s c = true) (hi : instrInfo i = some f) (hc : f.core = c) (hs : f.stop = true)
    (hb : wordBad i = false) (harr : ∀ x w, arrival x w [i] = none) (hsn : beginsProblem i = false)
    (htk : (s.core c).state ≠ 1 ∨ ∀ t e b, takesTask t e b [i] = false)
    (heff : effect (soleCtx s c i) (s.begin.setCore c (advanced (s.core c))) i = .ok (s.begin.setCore c k))
    (hk : k.stream = []) (he : k.underWay = false) :
    runInstr i s = .next (counted s c (s.begin.setCore c k)) := by
  have hq : quiet s.begin = true := by
    simp only [still, Bool.and_eq_true] at hst
    exact hst.2
  have hur : ((s.begin.setCore c k).core c).rest = none := by
    simp only [CoreSt.underWay, Bool.or_eq_false_iff, Option.isSome_eq_false_iff, Option.isNone_iff_eq_none] at he
    rw [core_setCore_same]
    exact he.2
  rw [runInstr_sole s c i _ f hst hr hi hc hs hb harr hsn htk hur heff
    (quiet_counted _ _ _ (quiet_setCore _ c k hq (copying_ready s c hr) hk he))]
  obtain ⟨ls, e⟩ := counted_eq s c (s.begin.setCore c k)
  rw [e]
  congr 1

/-- A ready core's next core is no reset core. -/
theorem advanced_ne_default (s : State) (c : Core) (h : ready s c = true) :
    advanced (s.core c) ≠ coreDefault (coreKey c) := by
  intro e
  have hp := congrArg CoreSt.pc e
  simp only [ready, Bool.and_eq_true, Option.isNone_iff_eq_none] at h
  have hf := h.1.2
  simp only [fetchTrap] at hf
  split at hf
  · simp at hf
  · rename_i hok
    simp only [Bool.or_eq_true, Bool.not_eq_true', not_or, Bool.not_eq_false, Bool.and_eq_true, decide_eq_true_eq,
      accessOk] at hok
    obtain ⟨_, ⟨hreach, _⟩, _⟩ := hok
    cases c with
    | eng e' =>
      simp only [advanced, coreDefault, coreKey, e'.isLt, if_true, cisternBase] at hp
      simp only [coreReaches, Bool.and_eq_true, decide_eq_true_eq] at hreach
      have hpc : (s.core (.eng e')).pc = 0x4000000000 - 4 := by omega
      rw [hpc] at hreach
      have : s.region (0x4000000000 - 4) = .absent := by
        simp [State.region, regionOf, cisternBase]
      simp [this, engineReaches] at hreach
    | lane l =>
      have hl : ¬ 256 + l.val < 256 := by omega
      simp only [advanced, coreDefault, coreKey, hl, if_false] at hp
      simp only [coreReaches, Bool.and_eq_true, decide_eq_true_eq] at hreach
      have hpc : (s.core (.lane l)).pc % 2 ^ 40 = 2 ^ 40 - 4 := by omega
      have hg : gangSize s l.val ≤ 8 := by
        simp only [gangSize]
        have : s.fld SLV_LANE_CTL.GSZ l.val < 4 := by
          simp only [State.fld]
          exact (BitVec.isLt _)
        have h3 : s.fld SLV_LANE_CTL.GSZ l.val ≤ 3 := by omega
        have := Nat.pow_le_pow_right (n := 2) (by omega) h3
        split <;> omega
      have := l.isLt
      have h8 : gangSize s l.val * 0x80000 ≤ 8 * 0x80000 := Nat.mul_le_mul_right _ hg
      omega
    | drd =>
      simp only [advanced, coreDefault, coreKey] at hp
      simp only [coreReaches, Bool.or_eq_true, Bool.and_eq_true, decide_eq_true_eq] at hreach
      have hpc : (s.core .drd).pc % 2 ^ 40 = 2 ^ 40 - 4 := by simp at hp; omega
      omega

/-- Of an instruction's writes of its own core only the last stays. -/
theorem setCore_advanced (s : State) (c : Core) (k : CoreSt) (h : ready s c = true) :
    (s.begin.setCore c (advanced (s.core c))).setCore c k = s.begin.setCore c k :=
  setCore_setCore _ c k (advanced_ne_default s c h)

end Sys2Proof.Machine
end

