-- ==== Sys2Proof/Laws/Shared.lean ====
section
/-! SUPPORT. What the operations that every unit shares can change: memory writes, event records, interrupts, the change
log, register writes. -/

namespace Sys2Proof.Machine

/-! ## Memory writes -/

theorem forL_wlog (l : List α) (f : α → State → State)
    (hf : ∀ a s, ∃ w, f a s = { s with wlog := w }) (s : State) : ∃ w, forL l f s = { s with wlog := w } := by
  induction l generalizing s with
  | nil => exact ⟨s.wlog, rfl⟩
  | cons a r ih =>
    obtain ⟨w, e⟩ := hf a s
    obtain ⟨w', e'⟩ := ih (f a s)
    refine ⟨w', ?_⟩
    have : forL (a :: r) f s = forL r f (f a s) := rfl
    rw [this, e', e]

/-- A write of memory changes the command's memory updates and nothing else. -/
theorem write_shape (s : State) (bs : List (Nat × Byte)) (p : Nat → Bool) :
    ∃ w, s.write bs p = { s with wlog := w } := by
  obtain ⟨w, e⟩ := forL_wlog bs (fun b s => s.upd (.byte (s.home b.1) b.2)) (fun _ s => ⟨_, rfl⟩) s
  obtain ⟨w', e'⟩ := forL_wlog (bs.map fun b => b.1 / 8).eraseDups (fun w s =>
    if (bs.filter fun b => b.1 / 8 == w).length = 8 then s.upd (.mark (s.home (8 * w) / 8) (p w))
    else if p w then s.upd (.mark (s.home (8 * w) / 8) true) else s) (fun a s => by
      split
      · exact ⟨_, rfl⟩
      · split
        · exact ⟨_, rfl⟩
        · exact ⟨s.wlog, rfl⟩) (forL bs (fun b s => s.upd (.byte (s.home b.1) b.2)) s)
  refine ⟨w', ?_⟩
  simp only [State.write]
  rw [e', e]

theorem store_shape (s : State) (a n v : Nat) : ∃ w, s.store a n v = { s with wlog := w } := write_shape _ _ _

@[simp] theorem quiet_write (s : State) (bs : List (Nat × Byte)) (p : Nat → Bool) : quiet (s.write bs p) = quiet s := by
  obtain ⟨w, e⟩ := write_shape s bs p
  rw [e]
  rfl

@[simp] theorem reg_write (s : State) (bs : List (Nat × Byte)) (p : Nat → Bool) (r : RegName) (i : Nat) :
    (s.write bs p).reg r i = s.reg r i := by
  obtain ⟨w, e⟩ := write_shape s bs p
  rw [e]
  rfl

@[simp] theorem quiet_store (s : State) (a n v : Nat) : quiet (s.store a n v) = quiet s := quiet_write _ _ _
@[simp] theorem reg_store (s : State) (a n v : Nat) (r : RegName) (i : Nat) : (s.store a n v).reg r i = s.reg r i :=
  reg_write _ _ _ _ _

/-! ## Fields of registers -/

theorem quiet_setFld (s : State) (f : Fld) (i n : Nat)
    (h : f.reg ∉ [RegName.CLG_RING, .WTM_ISL, .DRD_INJ, .SEC_BOOT, .DRD_CTL, .DRD_SAFE, .DET_STAT]) :
    quiet (s.setFld f i n) = quiet s := quiet_setReg _ _ _ _ h

theorem quiet_setBit (s : State) (f : Fld) (i : Nat) (b : Bool)
    (h : f.reg ∉ [RegName.CLG_RING, .WTM_ISL, .DRD_INJ, .SEC_BOOT, .DRD_CTL, .DRD_SAFE, .DET_STAT]) :
    quiet (s.setBit f i b) = quiet s := quiet_setReg _ _ _ _ h

theorem quiet_satAdd (s : State) (f : Fld) (i n : Nat)
    (h : f.reg ∉ [RegName.CLG_RING, .WTM_ISL, .DRD_INJ, .SEC_BOOT, .DRD_CTL, .DRD_SAFE, .DET_STAT]) :
    quiet (s.satAdd f i n) = quiet s := quiet_setReg _ _ _ _ h

theorem quiet_wrapAdd (s : State) (f : Fld) (i n : Nat)
    (h : f.reg ∉ [RegName.CLG_RING, .WTM_ISL, .DRD_INJ, .SEC_BOOT, .DRD_CTL, .DRD_SAFE, .DET_STAT]) :
    quiet (s.wrapAdd f i n) = quiet s := quiet_setReg _ _ _ _ h

theorem reg_setFld_ne (s : State) (f : Fld) (i n : Nat) {r : RegName} (j : Nat) (h : r ≠ f.reg) :
    (s.setFld f i n).reg r j = s.reg r j := reg_setReg_ne _ _ _ _ h

theorem reg_setBit_ne (s : State) (f : Fld) (i : Nat) (b : Bool) {r : RegName} (j : Nat) (h : r ≠ f.reg) :
    (s.setBit f i b).reg r j = s.reg r j := reg_setReg_ne _ _ _ _ h

theorem reg_satAdd_ne (s : State) (f : Fld) (i n : Nat) {r : RegName} (j : Nat) (h : r ≠ f.reg) :
    (s.satAdd f i n).reg r j = s.reg r j := reg_setReg_ne _ _ _ _ h

/-- A one-bit field holds the bit last put into it. -/
theorem bit_setBit_same (s : State) (f : Fld) (i : Nat) (b : Bool) (h : f.lo = f.hi) (hh : f.hi < 64) :
    (s.setBit f i b).bit f i = b := by
  simp only [State.bit, State.setBit, State.setFld, reg_setReg_same]
  rw [getLsbD_putBits _ _ _ _ _ (by omega) (by omega)]
  cases b <;> simp [h]

/-! ## Events and interrupts -/

theorem sendVec_shape (s : State) (v : Nat) : ∃ o m, sendVec s v = { s with out := o, msix := m } := by
  simp only [sendVec]
  split
  · exact ⟨_, s.msix, rfl⟩
  · exact ⟨s.out, _, rfl⟩

/-- An event record changes memory, the queue's register, the wires and the pending interrupts, nothing else. -/
theorem eventAt_shape (s : State) (q code src detail st : Nat) :
    ∃ w rg o m, eventAt s q code src detail st = { s with wlog := w, regs := rg, out := o, msix := m } ∧
      ∀ r i, r ≠ .CST_EVQ → (eventAt s q code src detail st).reg r i = s.reg r i := by
  have hval : ∃ w rg o m, eventAt s q code src detail st = { s with wlog := w, regs := rg, out := o, msix := m } := by
    simp only [eventAt]
    split
    · exact ⟨s.wlog, _, s.out, s.msix, rfl⟩
    · obtain ⟨w1, e1⟩ := store_shape s (evqAddr q + 16 * s.fld CST_EVQ.WR q) 8 (st + src * 2 ^ 32 + code * 2 ^ 48)
      rw [e1]
      obtain ⟨w2, e2⟩ := store_shape { s with wlog := w1 } (evqAddr q + 16 * s.fld CST_EVQ.WR q + 8) 8 detail
      rw [e2]
      split
      · obtain ⟨o, m, e3⟩ := sendVec_shape
          (({ s with wlog := w2 } : State).setFld CST_EVQ.WR q ((s.fld CST_EVQ.WR q + 1) % 4096)) (State.fld
            (({ s with wlog := w2 } : State).setFld CST_EVQ.WR q ((s.fld CST_EVQ.WR q + 1) % 4096)) HST_EVQIRQ.VEC q)
        exact ⟨w2, _, o, m, e3⟩
      · exact ⟨w2, _, s.out, s.msix, rfl⟩
  obtain ⟨w, rg, o, m, e⟩ := hval
  refine ⟨w, rg, o, m, e, ?_⟩
  intro r i hr
  simp only [eventAt]
  split
  · exact reg_satAdd_ne _ _ _ _ _ hr
  · split
    · obtain ⟨o, m, e3⟩ := sendVec_shape
        (((s.store (evqAddr q + 16 * s.fld CST_EVQ.WR q) 8 (st + src * 2 ^ 32 + code * 2 ^ 48)).store
          (evqAddr q + 16 * s.fld CST_EVQ.WR q + 8) 8 detail).setFld CST_EVQ.WR q ((s.fld CST_EVQ.WR q + 1) % 4096))
        (State.fld
          (((s.store (evqAddr q + 16 * s.fld CST_EVQ.WR q) 8 (st + src * 2 ^ 32 + code * 2 ^ 48)).store
            (evqAddr q + 16 * s.fld CST_EVQ.WR q + 8) 8 detail).setFld CST_EVQ.WR q ((s.fld CST_EVQ.WR q + 1) % 4096))
          HST_EVQIRQ.VEC q)
      rw [e3]
      show State.reg (State.setFld _ _ _ _) r i = _
      rw [reg_setFld_ne _ _ _ _ _ hr, reg_store, reg_store]
    · rw [reg_setFld_ne _ _ _ _ _ hr, reg_store, reg_store]

@[simp] theorem quiet_eventAt (s : State) (q code src detail st : Nat) :
    quiet (eventAt s q code src detail st) = quiet s := by
  obtain ⟨w, rg, o, m, e, hr⟩ := eventAt_shape s q code src detail st
  apply quiet_congr <;> first
    | (intro r h i
       apply hr
       rintro rfl
       simp at h)
    | (rw [e]; rfl)
    | (rw [e])

@[simp] theorem quiet_event (s : State) (q code src detail : Nat) : quiet (event s q code src detail) = quiet s :=
  quiet_eventAt _ _ _ _ _ _

@[simp] theorem quiet_eventFree (s : State) (q code src : Nat) : quiet (eventFree s q code src) = quiet s :=
  quiet_event _ _ _ _ _

theorem reg_event_ne (s : State) (q code src detail : Nat) {r : RegName} (i : Nat) (h : r ≠ .CST_EVQ) :
    (event s q code src detail).reg r i = s.reg r i := by
  obtain ⟨w, rg, o, m, e, hr⟩ := eventAt_shape s q code src detail s.stamp
  exact hr r i h

@[simp] theorem core_event (s : State) (q code src detail : Nat) (c : Core) :
    (event s q code src detail).core c = s.core c := by
  obtain ⟨w, rg, o, m, e, _⟩ := eventAt_shape s q code src detail s.stamp
  rw [show event s q code src detail = eventAt s q code src detail s.stamp from rfl, e]
  rfl

/-! ## The change log -/

/-- The registers that an entry of the change log changes. -/
def logRegs : List RegName := [.CLG_SEQ, .CLG_HEAD, .CLG_STAT, .CST_EVQ]

/-- The state differs in what the change log, an event and the wires hold, and in no register but those of a list. -/
def LogStep (s t : State) : Prop :=
  (∃ w rg o m st lt, t = { s with wlog := w, regs := rg, out := o, msix := m,
                                  clog := { s.clog with staged := st, lossTold := lt } }) ∧
    ∀ r i, r ∉ logRegs → t.reg r i = s.reg r i

theorem LogStep.refl (s : State) : LogStep s s :=
  ⟨⟨s.wlog, s.regs, s.out, s.msix, s.clog.staged, s.clog.lossTold, rfl⟩, fun _ _ _ => rfl⟩

theorem LogStep.trans {s t u : State} (h : LogStep s t) (h' : LogStep t u) : LogStep s u := by
  obtain ⟨⟨w, rg, o, m, st, lt, e⟩, hr⟩ := h
  obtain ⟨⟨w', rg', o', m', st', lt', e'⟩, hr'⟩ := h'
  refine ⟨⟨w', rg', o', m', st', lt', ?_⟩, fun r i hn => (hr' r i hn).trans (hr r i hn)⟩
  rw [e', e]

theorem LogStep.setReg (s : State) (r : RegName) (i : Nat) (v : Word) (h : r ∈ logRegs) : LogStep s (s.setReg r i v) :=
  ⟨⟨s.wlog, _, s.out, s.msix, s.clog.staged, s.clog.lossTold, rfl⟩,
   fun _ _ hn => reg_setReg_ne _ _ _ _ fun e => hn (e ▸ h)⟩

theorem LogStep.event (s : State) (q code src detail : Nat) : LogStep s (event s q code src detail) := by
  obtain ⟨w, rg, o, m, e, hr⟩ := eventAt_shape s q code src detail s.stamp
  refine ⟨⟨w, rg, o, m, s.clog.staged, s.clog.lossTold, e⟩, fun r i hn => hr r i fun e => hn ?_⟩
  rw [e]
  simp [logRegs]

theorem stageEntry_step (s : State) (x : ClogEntry) : LogStep s (stageEntry s x) := by
  simp only [stageEntry]
  split
  · exact ⟨⟨s.wlog, s.regs, s.out, s.msix, _, s.clog.lossTold, rfl⟩, fun _ _ _ => rfl⟩
  · have h1 : LogStep s { s with clog := { s.clog with staged := s.clog.staged.tail ++ [x], lossTold := true } } :=
      ⟨⟨s.wlog, s.regs, s.out, s.msix, _, _, rfl⟩, fun _ _ _ => rfl⟩
    split
    · exact h1.trans (LogStep.setReg _ _ _ _ (by simp [logRegs, CLG_STAT.LOST]))
    · exact (h1.trans (LogStep.setReg _ _ _ _ (by simp [logRegs, CLG_STAT.LOST]))).trans (LogStep.event _ _ _ _ _)

/-- An entry of the change log changes only what the log, its event and the wires hold. -/
theorem logEntry_step (s : State) (src : Nat) (r : RegName) (i : Nat) (ign : Bool) (old new : Word) :
    LogStep s (logEntry s src r i ign old new) := by
  have hl : ∀ (l : List Nat) (f : Nat → Word) (s : State), LogStep s (forL l (fun k s => s.setReg .CLG_HEAD k (f k)) s) := by
    intro l f
    induction l with
    | nil => exact LogStep.refl
    | cons a l ih =>
      intro s
      exact (LogStep.setReg s .CLG_HEAD a (f a) (by simp [logRegs])).trans (ih _)
  simp only [logEntry]
  refine LogStep.trans (LogStep.trans ?_ (hl _ _ _)) (stageEntry_step _ _)
  exact LogStep.setReg _ _ _ _ (by simp [logRegs])

theorem logTaken_step (s : State) (src : Nat) (r : RegName) (i : Nat) (v : Word) : LogStep s (logTaken s src r i v) := by
  simp only [logTaken]
  split
  · split
    · exact logEntry_step _ _ _ _ _ _ _
    · exact logEntry_step _ _ _ _ _ _ _
  · exact LogStep.refl s

/-- What only the change log changed is as quiet as before. -/
theorem LogStep.quiet {s t : State} (h : LogStep s t) : quiet t = quiet s := by
  obtain ⟨⟨w, rg, o, m, st, lt, e⟩, hr⟩ := h
  apply quiet_congr <;> first
    | (intro r hn i
       apply hr
       intro hc
       simp only [logRegs, List.mem_cons, List.not_mem_nil, or_false] at hc
       rcases hc with rfl | rfl | rfl | rfl <;> simp at hn)
    | (rw [e]; rfl)
    | (rw [e])

@[simp] theorem quiet_logTaken (s : State) (src : Nat) (r : RegName) (i : Nat) (v : Word) :
    quiet (logTaken s src r i v) = quiet s := (logTaken_step s src r i v).quiet

theorem reg_logTaken_ne (s : State) (src : Nat) (r : RegName) (i : Nat) (v : Word) {q : RegName} (j : Nat)
    (h : q ∉ logRegs) : (logTaken s src r i v).reg q j = s.reg q j := (logTaken_step s src r i v).2 q j h

/-! ## Register writes -/

/-- A write that takes effect is logged, stored, and has its register's further effects (R10, R473). -/
theorem regCommand_taken (s : State) (src : BitVec 16) (r : RegName) (i : Nat) (v : Word)
    (h : taken s src r i v = true) :
    regCommand s src r i v =
      regHook ((logTaken s src.toNat r i v).setReg r i (storedValue s r i v)) src.toNat r i (s.reg r i) v false := by
  simp only [taken, Bool.and_eq_true, Bool.not_eq_true', decide_eq_true_eq] at h
  simp [regCommand, regWrite, h.1, h.2]

end Sys2Proof.Machine
end

