-- ==== Sys2Proof/Tests/Slice0.lean ====
section
/-! SUPPORT. Tests of the model: what each well-formedness check refuses, single steps on small states with results
taken from the rules of spec/, and for every statement with hypotheses a witness: a state and operands that meet them,
clause by clause. -/

namespace Sys2Proof.Tests

set_option Elab.async false

open Sys2Proof.Machine

/-! ## Small states -/

/-- The state that a command leaves; the state itself where it leaves none. -/
def after (f : State → Host.Outcome State Fault Refusal) (s : State) : State :=
  match f s with
  | .next t => t
  | _ => s

/-- Fields set. -/
def put (s : State) (l : List (Fld × Nat × Nat)) : State := l.foldl (fun s x => s.setFld x.1 x.2.1 x.2.2) s

/-- Words in memory from address a. -/
def words (s : State) (a : Nat) (l : List Nat) : State :=
  let t := s.write (atAddr a (l.flatMap (leBytes 8))) fun _ => false
  commit t t

/-- Poison marks on the words of a range. -/
def poison (s : State) (a n : Nat) : State :=
  let t := markWord s a n
  commit t t

/-- Scalar registers of a core set, clean. -/
def regs (s : State) (c : Core) (l : List (Nat × Nat)) : State :=
  l.foldl (fun s x => s.setCore c ((s.core c).writeG (BitVec.ofNat 5 x.1) ⟨w64 x.2, false⟩)) s

/-- A core changed. -/
def coreIn (s : State) (c : Core) (f : CoreSt → CoreSt) : State := s.setCore c (f (s.core c))

/-- The Timebase set. -/
def atTime (s : State) (sec ns : Nat) : State := { s with tb := { sec := sec, ns := ns } }

/-- Words of a noun: base, format, extents and strides. -/
def nounWords (base fmt : Nat) (ext st : List Nat) : List Nat :=
  [base + fmt * 2 ^ 40 + ext.length * 2 ^ 44 + 2 ^ 57] ++
    (upFrom 0 5).map (fun d => ext.getD d 0 + st.getD d 0 * 2 ^ 24) ++ [0, 0]

/-- A noun entry set. -/
def noun (s : State) (e i : Nat) (base fmt : Nat) (ext st : List Nat) : State :=
  coreIn s (engine e) fun k => (upFrom 0 8).foldl (fun k j =>
    { k with n := tput (fun _ => 0) k.n (8 * i + j) (w64 ((nounWords base fmt ext st).getD j 0)) }) k

/-- The reset state. -/
abbrev s0 : State := State.reset

/-- A Cistern address and the first address of engine 3's Basin. -/
abbrev cis : Nat := 0x4000100000
abbrev bas : Nat := 0x5000000000 + 3 * 0x200000

/-- Lane 3, ENABLED, at an address of its memory. -/
def laneOn (s : State) : State :=
  coreIn (put s [(SLV_LANE_STAT.STATE, 3, 0), (SLV_LANE_CTL.ENTRY, 3, 0x100)]) (.lane 3) fun k => { k with pc := laneBase 3 + 0x100 }

/-- A range of the Cistern below the runtime's areas. -/
def plainB (s : State) (a n : Nat) : Bool := s.within .cistern a n && decide (a + n ≤ 0x403F000000)

/-! ## Well-formed commands -/

/-- Every check of Instr.wellFormed refuses a term that breaks it. -/
theorem test_wellFormed_refuses :
    (Instr.dvorilFrameReceive 0 ⟨0, List.replicate 31 0⟩).wellFormed = false ∧
    (Instr.spiTransaction 0 (List.replicate 63 0)).wellFormed = false ∧
    (Instr.lockstepDigestReceive 0 (List.replicate 33 0)).wellFormed = false ∧
    (Instr.hostWindowBWrite 0 0 [] false).wellFormed = false ∧
    (Instr.hostWindowBWrite 0 0 (List.replicate 513 0) false).wellFormed = false ∧
    (Instr.hostWindowBRead 0 0 0).wellFormed = false ∧ (Instr.hostWindowBRead 0 0 4097).wellFormed = false ∧
    (Instr.powerCapExcursion 0 [0]).wellFormed = false ∧ (Instr.inputPowerExcursion 0 []).wellFormed = false := by
  decide +kernel

/-- A row packet of more than 65,535 bytes. -/
theorem test_wellFormed_refuses_long :
    (Instr.csi2RowReceive 0 ⟨0, 0x2A, .clean, true, List.replicate 65536 0⟩).wellFormed = false := by
  show decide ((List.replicate 65536 (0 : Byte)).length ≤ 65535) = false
  rw [List.length_replicate]
  decide

/-- A CAN frame: a base identifier below bit 18, an FD remote frame, a classical frame with BRS or ESI, a payload that is
not its DLC's, a remote frame with a payload; and one that can stand on a bus. -/
theorem test_canFrame_wellFormed :
    CanFrame.wellFormed ⟨1, false, false, false, false, false, 0, []⟩ = false ∧
    CanFrame.wellFormed ⟨0, false, true, true, false, false, 0, []⟩ = false ∧
    CanFrame.wellFormed ⟨0, false, false, false, true, false, 0, []⟩ = false ∧
    CanFrame.wellFormed ⟨0, false, false, false, false, true, 0, []⟩ = false ∧
    CanFrame.wellFormed ⟨0, false, false, true, true, false, 9, List.replicate 9 0⟩ = false ∧
    CanFrame.wellFormed ⟨0, false, true, false, false, false, 2, [1, 2]⟩ = false ∧
    CanFrame.wellFormed ⟨5 * 2 ^ 18, false, false, true, true, true, 9, List.replicate 12 0⟩ = true := by decide +kernel

/-- An image slot at rest in flash. -/
def slotA : BootSlot := ⟨true, true, 5, 3, true, true, List.replicate 32 5, 77, false, []⟩

/-- What a start finds, with a cold plate at tcp. -/
def found (tcp : Int) : BootInput := ⟨.m128I, 99, 2, List.replicate 32 1, List.replicate 32 2, slotA, { slotA with seq := 7 }, tcp⟩

/-- What a start finds: every digest and the key have 32 bytes. -/
theorem test_bootInput_wellFormed :
    (found 20).wellFormed = true ∧ { found 20 with romDigest := [] }.wellFormed = false ∧
    { found 20 with pubKey := [] }.wellFormed = false ∧
    { found 20 with slotA := { slotA with manifestDigest := [] } }.wellFormed = false ∧
    { found 20 with slotB := { slotA with components := [⟨0, .inside, [], []⟩] } }.wellFormed = false := by decide +kernel

/-- A malformed command faults. -/
theorem test_malformed_faults : exec (.hostWindowBRead 0 0 0) s0 = .fault .malformedCommand := rfl

/-- The table gives no row bits: a word spells no command, and places none. -/
theorem test_no_word_decodes : decodeTableWord 32 5 = none ∧ (s0.withFetchWord 32 5).pending = [] := by decide +kernel

/-! ## The worked examples of the spec -/

/-- After R30: the Basin of engine 181, its last used byte, the unused quarter, lane 40, and HBM on CVP16-M064-I. -/
theorem test_example_addresses :
    regionOf .m128I 0x5016A00000 = .basin 181 ∧ regionOf .m128I 0x5016B7FFFF = .basin 181 ∧
    regionOf .m128I 0x5016B80000 = .absent ∧ laneBase 40 = 0x5201400000 ∧
    regionOf .m128I 0x1840000000 = .hbm ∧ regionOf .m064I 0x1840000000 = .absent := by decide +kernel

/-- After R157 and in the scrub example: banks of three addresses. -/
theorem test_example_banks : bankOf 0x4001234580 = 6 ∧ bankOf 0x400ABC0100 = 114 ∧ bankOf 0x4007F02E00 = 28 := by
  decide +kernel

/-- After R45: the words of a BF16 noun, its fields and its footprint. -/
theorem test_example_noun :
    let n := nounOf [0x0202334001200000, 0x80, 0x0000000400000018, 0x0000006000000020, 0, 0, 0, 0]
    n.base = 0x4001200000 ∧ n.fmt = 3 ∧ n.rank = 3 ∧ n.allot = 2 ∧ n.ext = [128, 24, 32] ∧
    n.stride = [0, 0x400, 0x6000] ∧ n.foot = (0x4001200000, 0x40012BFCFF) := by decide +kernel

/-- After R140: the scale of row 5, element 70 of an INT8 weight noun. -/
theorem test_example_scale :
    (nounOf [0x0202264000000000, 256, 32, 0, 0, 0, 0x4003000000 + 2 ^ 40, 0]).scaleAddr [70, 5] = 0x4003000054 := by
  decide +kernel

/-- In the chapter on number formats: conversions of the signalling NaN 0x7D23, and with FMODE.CNAN. -/
theorem test_example_nan :
    fCvt .f16 .f32 (RMode.ofWord 0) false 0x7D23 = (0x7FE46000, flNV) ∧
    fCvt .f32 .bf16 (RMode.ofWord 0) false 0x7FE46000 = (0x7FE4, 0) ∧
    (fCvt .f32 .e4m3 (RMode.ofWord 0) false 0x7FE46000).1 = 0x7F ∧
    (fCvt .f16 .f32 (RMode.ofWord 0x10) false 0x7D23).1 = 0x7FC00000 := by decide +kernel

/-- In the chapter on the solver: the descriptor of the deadline case gives w of R317. -/
theorem test_example_signature_word :
    let w0 := 240 + 360 * 2 ^ 16 + 20 * 2 ^ 32 + 0x31 * 2 ^ 40
    w0 = 0x00003114016800F0 ∧ slotEntry 40 3 = laneBase 40 + 0x7FF30 ∧ (Problem.mk 0x4000 [w64 w0, 0, w64 (960 * 2 ^ 32)] 0 0 none false 0 false false 0 0).half = 7744 := by
  decide +kernel

/-- After R355: the full time of the stamp 0x103F0000 near second 1,000, nanosecond 999,999,000. -/
theorem test_example_full_time :
    (atTime s0 1000 999999000).stamp = 0x103FD618 ∧
    fullTime (atTime s0 1000 999999000) 0x103F0000 = 1000999944192 := by decide +kernel

/-- In the chapter on CAN: the bit time of CB_NBT 0x0F9F7E00; in the register directory: an address. -/
theorem test_example_can :
    nomClocks 0x0F9F7E00 = 160 ∧ RegName.addr .CB_MBX_CTL (128 * 2 + 5) = 0x6007024280 := by decide +kernel

/-- In the register directory: the record of bus fault 3 at compact stamp 0x30011940, in event queue 0. -/
theorem test_example_bus_fault :
    let t := after (execCanBusFault 2 3) (atTime s0 0 0x30011940)
    t.word (evqAddr 0) = 0x7005700230011940 ∧ t.word (evqAddr 0 + 8) = 3 ∧ t.fld CST_EVQ.WR 0 = 1 := by decide +kernel

/-- After R474: the entry of a write of DVL_GRP, except the link to a head that the example chose. -/
theorem test_example_change_log :
    let t := after (execRegisterWrite 0xC000 0x6009000000 8 0x12340005) (put (atTime s0 1000 999999000) [(SEC_BOOT.READY, 0, 1)])
    t.clog.staged = [⟨1, [0x00000C0009000000, 0x000000E9103FD618, 0, 0x12340005]⟩] ∧ t.reg .DVL_GRP 0 = 0x12340005 := by
  decide +kernel

/-- In the chapter on the Servo Engine: the low-pass stage with b0 = b1 = 0.25, a1 = -0.5 halves a step of 1 at once. -/
theorem test_example_stage :
    (bfStage 0x007F200000200000 0x0000C00000000000 0 0 0 (bfOfVal (fDecode .f32 0x3F800000) 0).get!.1).1 =
      (bfOfVal (fDecode .f32 0x3E800000) 0).get!.1 := by decide +kernel

/-- In the chapter on safety: with MAX 150,000 ns the window after a check-in at 0x40000000 closes at 0x400249F0; a
detection of class 2 at 0x40024FCC enters safe state with that stamp. -/
theorem test_example_watchdog :
    let w := put s0 [(DRD_WD0.EN, 7, 1), (DRD_WD0.MIN, 7, 100000), (DRD_WD0.MAX, 7, 150000), (DRD_WD1.RUN, 7, 1),
      (DRD_WD1.LAST, 7, 0x40000000), (DRD_REACT.REACT, 2, 3), (DRD_REACT.THRESH, 2, 1)]
    (after (execWatchdogMiss 7) (atTime w 1 (0x400249EF - 1000000000))).bit DRD_WD1.RUN 7 = true ∧
    (after (execWatchdogMiss 7) (atTime w 1 (0x400249F0 - 1000000000))).bit DRD_WD1.RUN 7 = false ∧
    (after (execWatchdogMiss 7) (atTime w 1 (0x40024FCC - 1000000000))).fld DRD_SAFE.STAMP 0 = 0x40024FCC := by decide +kernel

/-! ## Published check values -/

/-- The check value of CRC-32 (IEEE 802.3) and of CRC-16 with polynomial 0x1021 and seed 0xFFFF, over "123456789". -/
theorem test_crc_check_values :
    crc32 ((upFrom 0x31 9).map (BitVec.ofNat 8)) = 0xCBF43926 ∧ crc16 0xFFFF ((upFrom 0x31 9).map (BitVec.ofNat 8)) = 0x29B1 := by
  decide +kernel

/-- SHA-256 of "abc" (FIPS 180-4): its first eight bytes. -/
theorem test_sha256_abc : (sha256 [0x61, 0x62, 0x63]).take 8 = [0xBA, 0x78, 0x16, 0xBF, 0x8F, 0x01, 0xCF, 0xEA] := by decide +kernel

/-! ## Single steps, with results by hand from the rules -/

/-- Engine 3 with 2^64 - 1 in g1, 1 in g2, the Basin address of a negative word in g3. -/
def sOne : State :=
  words (regs s0 (engine 3) [(1, 2 ^ 64 - 1), (2, 1), (3, bas)]) bas [0x80000000]
/-- g5 of engine 3 after a command. -/
def g5 (f : State → Host.Outcome State Fault Refusal) : Nat := (((after f sOne).core (engine 3)).readG 5).v.toNat

/-- After R76: wrap, signed high product, arithmetic shift, unsigned and signed order, sign extension, constants. -/
theorem test_scalar_results :
    g5 (execAdd (engine 3) 5 1 2 true) = 0 ∧ g5 (execSub (engine 3) 5 2 1 true) = 2 ∧ g5 (execMulh (engine 3) 5 1 2 true) = 2 ^ 64 - 1 ∧
    g5 (execSrai (engine 3) 5 1 63 true) = 2 ^ 64 - 1 ∧ g5 (execShri (engine 3) 5 1 63 true) = 1 ∧
    g5 (execSlt (engine 3) 5 1 2 true) = 1 ∧ g5 (execSltu (engine 3) 5 1 2 true) = 0 ∧
    g5 (execLw (engine 3) 5 3 0 true) = 0xFFFFFFFF80000000 ∧ g5 (execLd (engine 3) 5 3 0 true) = 0x80000000 ∧
    g5 (execLi (engine 3) 5 0x3FFFF true) = 2 ^ 64 - 1 := by decide +kernel

/-- After R48 and R63: a misaligned load faults with the address in EDETAIL; g0 stays 0. -/
theorem test_scalar_faults :
    (let k := (after (execLd (engine 3) 5 2 0 true) (coreIn sOne (engine 3) fun k => { k with runtime := false })).core (engine 3)
     k.runtime = true ∧ k.special 0x021 = 4 ∧ k.special 0x022 = 1 ∧ (k.readG 5).v = 0) ∧
    (((after (execAdd (engine 3) 0 2 2 true) sOne).core (engine 3)).readG 0).v = 0 := by decide +kernel

/-- After R111 to R113: 1 + 1, 1/3 rounded to nearest even with NX, the fused product that one rounding keeps, 0/0. -/
theorem test_float_results :
    fAdd .f32 rne 0x3F800000 0x3F800000 = (0x40000000, 0) ∧ fDiv .f32 rne 0x3F800000 0x40400000 = (0x3EAAAAAB, flNX) ∧
    fFma .f32 rne 0x3F800001 0x3F800001 0xBF800002 = (0x28800000, 0) ∧ fDiv .f32 rne 0 0 = (0x7FC00000, flNV) := by decide +kernel

/-! ## Witnesses: states and operands that meet the hypotheses of the statements -/

theorem test_w_StepRunsFrontCommand :
    { s0 with pending := [Instr.resetPin, .powerLoss] }.pending = .resetPin :: [.powerLoss] ∧ s0.pending = [] := by
  decide +kernel

/-- A state with the invariant from which a step answers a next state. -/
theorem test_w_StepKeepsMemoryForm :
    inv (words s0 cis [5]) = true ∧ ∃ t, step (words s0 cis [5]) = .next t := ⟨by decide +kernel, _, rfl⟩

theorem test_w_MalformedAloneFaults :
    (Instr.hostWindowBRead 0 0 0).wellFormed = false ∧ (Instr.hostWindowBRead 0 0 4096).wellFormed = true ∧
    (Instr.powerLoss).wellFormed = true ∧ alive (after (exec .powerLoss) s0) = false ∧
    reachesDead (Instr.hostWindowBRead 0 0 4096) = false := by decide +kernel

/-- Engine 3 may not write the Ditch Rider's reaction table. -/
theorem test_w_RefusedWriterChangesNothing :
    let a := RegName.DRD_REACT.addr 0
    still s0 = true ∧ isControlAddr a = true ∧ ctlAligned a 8 = true ∧ regAt (a / 8 * 8) = some (.DRD_REACT, 0) ∧
    mayWrite s0 0x0003 .DRD_REACT = false ∧ regWaits s0 0x0003 .DRD_REACT 0 (mergeWrite s0 .DRD_REACT 0 a 8 5) = false := by
  decide +kernel

theorem test_w_ChangeLogChainExtends :
    still s0 = true ∧ taken s0 0xA000 .CST_CLEVQ 15 5 = true ∧ changes s0 .CST_CLEVQ 15 5 = true := by decide +kernel

/-- Engine 3 and lane 3, ready. -/
def sE : State := regs (laneOn s0) (engine 3) [(1, cis), (2, bas + 64), (4, 0x100000)]

theorem test_w_ScalarArithmetic :
    still sE = true ∧ ready sE (engine 3) = true ∧ ready sE (.lane 3) = true ∧ ready sE .drd = true ∧
    (63 : BitVec 13).toNat < 64 := by decide +kernel

/-- Engine 3 in task mode. -/
def sT : State := coreIn sE (engine 3) fun k => { k with runtime := false }

theorem test_w_FaultEntry :
    still sT = true ∧ ready sT (.eng 3) = true ∧ 64 ≤ (64 : BitVec 13).toNat ∧ (sT.core (.eng 3)).runtime = false ∧
    (sT.fld CST_EVQ.WR (engineQ sT 3) + 1) % 4096 ≠ sT.fld CST_EVQ.RD (engineQ sT 3) := by decide +kernel

theorem test_w_BranchesAndJumps :
    still sE = true ∧ ready sE (engine 3) = true ∧ (isEng (engine 3) = true → ((sE.core (engine 3)).readG 1).p = false) ∧
    ((sE.core (engine 3)).readG 1).v.toNat % 4 = 0 := by decide +kernel

/-- An engine loads from the Cistern, the Ditch Rider from its memory. -/
theorem test_w_LoadsFromMemory :
    still sE = true ∧ ready sE (engine 3) = true ∧ ready sE .drd = true ∧ (sE.core (engine 3)).state ≠ 1 ∧
    (sE.core .drd).state ≠ 1 ∧
    scalarPasses sE (engine 3) .rd 1 (scalarAddr (sE.core (engine 3)) 1 3 8) 8 = true ∧
    scalarPasses sE (engine 3) .rd 1 (scalarAddr (sE.core (engine 3)) 1 3 4) 4 = true ∧
    sE.region (scalarAddr (sE.core (engine 3)) 1 3 8) ≠ .control ∧
    loadWaits (sE.core (engine 3)) (span (scalarAddr (sE.core (engine 3)) 1 3 8) 8) = false ∧
    scalarPasses sE .drd .rd 0 (scalarAddr (sE.core .drd) 0 3 8) 8 = true ∧
    sE.region (scalarAddr (sE.core .drd) 0 3 8) ≠ .control ∧
    (sE.view (corePt .drd)).mark (coreAddr .drd (scalarAddr (sE.core .drd) 0 3 8)) = false := by decide +kernel

/-- Engine 3 reads CST_CLEVQ of cluster 0, a read without a side effect. -/
def sR : State := regs s0 (engine 3) [(1, RegName.CST_CLEVQ.addr 0)]

theorem test_w_LoadsFromRegisters :
    let a := scalarAddr (sR.core (engine 3)) 1 0 8
    let fed := sR.begin.setCore (engine 3) (advanced (sR.core (engine 3)))
    still sR = true ∧ ready sR (engine 3) = true ∧ (sR.core (engine 3)).state ≠ 1 ∧
    scalarPasses sR (engine 3) .rd 1 a 8 = true ∧ sR.region a = .control ∧ isoRefuses sR a = false ∧
    regAt (a / 8 * 8) = some (.CST_CLEVQ, 0) ∧
    readActs fed (coreSrc (engine 3)) .CST_CLEVQ 0 (decide ((8 : Nat) = 8) || decide (a % 8 = 0)) = none ∧
    clearedMask .CST_CLEVQ a 8 = 0 := by decide +kernel

/-- Engine 3 stores to its Basin, lane 3 and the Ditch Rider to their memories. -/
theorem test_w_StoresToOwnMemory :
    let s := regs sE (.lane 3) [(1, laneBase 3 + 64)]
    let ae := scalarAddr (s.core (engine 3)) 2 (-1) 8
    let al := scalarAddr (s.core (.lane 3)) 1 1 4
    let ad := scalarAddr (s.core .drd) 0 2 8
    still s = true ∧ ready s (engine 3) = true ∧ ready s (.lane 3) = true ∧ ready s .drd = true ∧
    scalarPasses s (engine 3) .wr 2 ae 8 = true ∧ s.region ae = .basin 3 ∧
    storeWaits (s.core (engine 3)) (span ae 8) = false ∧ scalarPasses s (.lane 3) .wr 1 al 4 = true ∧
    storeWaits (s.core (.lane 3)) (span al 4) = false ∧ scalarPasses s .drd .wr 0 ad 8 = true ∧ ad < 0x40000 ∧
    storeWaits (s.core .drd) (span ad 8) = false := by decide +kernel

theorem test_w_StoresToTheCistern :
    let a := scalarAddr (sE.core (engine 3)) 1 (-1) 8
    still sE = true ∧ ready sE (.eng 3) = true ∧ scalarPasses sE (.eng 3) .wr 1 a 8 = true ∧ sE.region a = .cistern ∧
    storeWaits (sE.core (.eng 3)) (span a 8) = false := by decide +kernel

/-- Engine 3 in runtime mode with a value for VCTL and one for FMODE. -/
def sS : State := regs s0 (engine 3) [(1, 5), (2, 4)]

theorem test_w_SpecialRegisters :
    still sS = true ∧ ready sS (engine 3) = true ∧ ready sT (engine 3) = true ∧ ready sE (.lane 3) = true ∧
    ready sS .drd = true ∧ spReadable true 0x01B = true ∧ spReadable true 0x025 = true ∧
    ((sT.core (engine 3)).runtime = false ∧ strictFor sT (engine 3) = false ∧ spReadable false 0x019 = true) ∧
    ((sS.core (engine 3)).readG 2).p = false ∧ spWritable true 0x008 = true ∧
    ((sS.core (engine 3)).readG 2).v.toNat % 8 < 5 ∧ spWritable true 0x03F = true ∧
    (sS.core (engine 3)).inFlight = [] ∧ ((sS.core (engine 3)).readG 2).v.getLsbD 0 = false ∧
    ((sS.core (engine 3)).readG 1).v.getLsbD 0 = true := by decide +kernel

/-- A task descriptor at cis with one noun entry and a poisoned argument, its address in g1 of engine 3. -/
def sD : State :=
  regs (poison (words (words s0 cis [cis + 0x100 + 2 ^ 40, cis + 0x1000, 11, 12, 13, 14, 15, 16, 17, 18, 0, 0, 5, 0x99])
    (cis + 0x1000) [1, 2, 3, 4, 5, 6, 7, 8]) (cis + 24) 8) (engine 3) [(1, cis)]

theorem test_w_TaskEntryAndExit :
    (let k := sD.core (.eng 3)
     let v := sD.view (dieOf 3)
     still sD = true ∧ ready sD (.eng 3) = true ∧ k.runtime = true ∧ k.state = 0 ∧ k.inFlight = [] ∧
     (k.readG 1).p = false ∧ (k.readG 1).v.toNat = cis ∧ cis % 128 = 0 ∧ dispReach sD 3 cis 128 = true ∧
     bitsOf (v.word (cis + 8)) 39 0 = cis + 0x1000 ∧ bitsOf (v.word cis) 46 40 = 1 ∧
     dispReach sD 3 (cis + 0x1000) 64 = true ∧ bitsOf (v.word (cis + 80)) 39 0 = 0 ∧ bitsOf (v.word (cis + 80)) 43 40 = 0 ∧
     dispReach sD 3 0 0 = true ∧ taskBad (v.words cis 16) = false ∧ dispPoison v cis (cis + 0x1000) 1 0 0 = none) ∧
    (let s := coreIn sT (engine 3) fun k => k.setSpecial 1 (w64 cis)
     let k := s.core (.eng 3)
     still s = true ∧ ready s (.eng 3) = true ∧ k.runtime = false ∧ k.inFlight = [] ∧ engineMoves s 3 = [] ∧
     unreadPoison k = none ∧ bitsOf (k.special 1) 39 0 = cis) := by decide +kernel

/-- Engine 3 with values in vectors and a predicate, a Basin address in g1 and a number in g2. -/
def sV : State :=
  coreIn (words (regs s0 (engine 3) [(1, bas), (2, 7)]) bas [1, 2, 3]) (engine 3) fun k =>
    ((k.writeV 1 ⟨0x3F800000400000007F800001, 0⟩).writeV 2 ⟨0x4040000000000000FF800000, 0xF0⟩).writeP 1 0xF0F0

theorem test_w_VectorArithmetic :
    still sV = true ∧ ready sV (.eng 3) = true ∧ (arithTy 0).isSome = true ∧ (arithTy 3).isSome = true ∧
    (arithTy 8).isSome = true ∧ (arithTy 15).isSome = true := by decide +kernel

theorem test_w_VectorDivideFmaBitwise : still sV = true ∧ ready sV (.eng 3) = true := by decide +kernel

theorem test_w_ComparesAndPredicates :
    still sV = true ∧ ready sV (.eng 3) = true ∧ (arithTy 0).isSome = true ∧ ((arithTy 0).map (ccOk 5)) = some true ∧
    ((sV.core (.eng 3)).readV 1).p = 0 ∧ ((sV.core (.eng 3)).readG 2).p = false := by decide +kernel

/-- vcvt from FP16 to FP32, vget, and vld and vst at the Basin address and one vector below it. -/
theorem test_w_VectorMoves :
    let k := sV.core (.eng 3)
    let a := effAddr (k.readG 1).v ((0 : BitVec 10).toInt * 64)
    still sV = true ∧ ready sV (.eng 3) = true ∧ (elTy 3).isSome = true ∧ (k.readG 1).p = false ∧
    ((elTy 2).bind fun t => (cvtDst 0).bind fun d => cvtEl k.mode d.2 t d.1).isSome = true ∧ a = bas ∧ a % 64 = 0 ∧
    accessOkV sV 3 .rd a 64 = true ∧ loadWaits k (span a 64) = false ∧ accessOkV sV 3 .wr a 64 = true ∧
    storeWaits k (span a 64) = false ∧ sV.region a = .basin 3 := by decide +kernel

/-- The checks of verbPasses as a Bool. -/
def passB (s : State) (e : Fin 256) (gt : BitVec 5) (kind : VerbKind) (bad : Word → Bool) (ns : VerbNouns)
    (own : Word → List Noun → List (Bool × Trap)) : Bool :=
  let k := s.core (.eng e)
  let v := verbOf k gt kind ns
  decide (gt ≠ 0) && ! (k.readG gt).p && ! bad (k.readG gt).v &&
    (nounChecks ⟨.eng e, 0, k, storesAccepted s e.val, false⟩ s e ns).isOk &&
    (own v.ctl (v.nouns.map nounOf)).all (fun c => ! c.1) && ! verbWaits k v &&
    (verbAcc v).all fun a => ! accBusy k a

theorem passes_of_passB {s : State} {e : Fin 256} {gt : BitVec 5} {kind : VerbKind} {bad : Word → Bool}
    {ns : VerbNouns} {own : Word → List Noun → List (Bool × Trap)} (h : passB s e gt kind bad ns own = true) :
    verbPasses s e gt kind bad ns own := by
  unfold passB at h
  unfold verbPasses
  simp only [Bool.and_eq_true, Bool.not_eq_true', decide_eq_true_eq, List.all_eq_true] at h
  obtain ⟨⟨⟨⟨⟨⟨h1, h2⟩, h3⟩, h4⟩, h5⟩, h6⟩, h7⟩ := h
  refine ⟨h1, h2, h3, ?_, h5, h6, fun a ha => ?_⟩
  · revert h4
    cases nounChecks _ s e ns with
    | ok u => intro _; rfl
    | error x => intro h; cases h
  · rw [ha] at h7
    simpa using h7

/-- Engine 3 with nouns for every verb: tiles of one row at d, of halves, and one list of indices. -/
def sN (d : Nat) : State :=
  noun (noun (noun (noun (noun (noun (noun (noun (noun s0 3 1 d 2 [32, 1] [0, 64]) 3 2 (d + 0x1000) 2 [32, 1] [0, 64])
    3 3 (d + 0x2000) 2 [1, 1, 1] [0, 64, 64]) 3 4 (d + 0x3000) 2 [1, 1, 1] [0, 64, 64])
    3 5 (d + 0x4000) 2 [1, 1, 1, 1] [0, 64, 64, 64]) 3 6 (d + 0x5000) 2 [32, 1] [0, 64])
    3 7 (d + 0x6000) 2 [32, 1] [0, 64]) 3 8 (d + 0x7000) 1 [4, 1] [0, 64]) 3 9 (d + 0x8000) 2 [32, 2] [0, 64] |>
    fun s => noun s 3 10 (d + 0x9000) 9 [1] [0]

/-- Each row of the verb table with nouns that it accepts. -/
def rowNouns : List (Nat × BitVec 6 × BitVec 6 × BitVec 6) :=
  [(0, 0, 1, 2), (1, 0, 1, 2), (2, 3, 4, 5), (3, 3, 4, 5), (4, 3, 4, 5), (5, 3, 4, 5), (6, 6, 7, 8), (7, 6, 7, 8),
   (8, 6, 7, 9), (9, 6, 7, 9), (10, 6, 7, 10), (11, 6, 7, 10), (12, 6, 7, 10), (13, 6, 7, 10), (14, 6, 7, 0), (15, 6, 0, 0)]

/-- A row of the verb table passes on engine 3. -/
def rowB (s : State) (x : Nat × BitVec 6 × BitVec 6 × BitVec 6) : Bool :=
  match (verbRows ⟨.eng 3, 0, s.core (.eng 3), storesAccepted s 3, false⟩ s 3 1 x.2.1 x.2.2.1 x.2.2.2 0)[x.1]? with
  | some r => passB s 3 1 r.2.1 r.2.2.1 r.2.2.2.1 r.2.2.2.2
  | none => false

theorem test_w_VerbIssue :
    still (sN cis) = true ∧ ready (sN cis) (.eng 3) = true ∧ freeSlot ((sN cis).core (.eng 3)) = some 0 ∧
    (rowNouns.map fun x => rowB (sN cis) x) = List.replicate 16 true := by decide +kernel

/-- Engine 3 with the nouns of an attention over one sequence and of a crop; g2 selects two lists. -/
def sA : State :=
  regs (noun (noun (noun (noun (noun (noun (noun (noun s0 3 1 cis 2 [32, 1, 1, 1] [0, 64, 64, 64])
    3 2 (cis + 0x1000) 2 [32, 1, 1, 1] [0, 64, 64, 64]) 3 3 (cis + 0x2000) 9 [8, 1, 1] [0, 64, 64])
    3 4 (cis + 0x3000) 1 [4, 1, 1, 1] [0, 64, 64, 64]) 3 7 (cis + 0x10000) 6 [68096] [0])
    3 11 (cis + 0x5000) 2 [1, 1, 1, 1] [0, 64, 64, 64]) 3 12 (cis + 0x6000) 2 [1, 1, 1] [0, 64, 64])
    3 13 (cis + 0x7000) 9 [8, 1] [0, 64]) (engine 3) [(2, 2)]

/-- The attn of nouns 1, 2 and 3 in a form, and the crop of nouns 11, 12 and 13. -/
def attnB (rc : Bool) : Bool :=
  let ns := attnEntries ((sA.core (.eng 3)).readG 1).v rc 1 2 3
  ns.all (fun n => decide (n.1 ≤ 63)) && passB sA 3 1 (.attn rc) (outside (maskBits 12 0 ||| maskBits 63 32)) ns
    (attnChecks ⟨.eng 3, 0, sA.core (.eng 3), storesAccepted sA 3, false⟩ sA 3 rc 1 2 3)
def cropB : Bool :=
  passB sA 3 2 .crop (outside (maskBits 3 0)) (cropNouns ((sA.core (.eng 3)).readG 2).v 11 12 13) (cropChecks 11 12 13)

theorem test_w_AttnAndCropIssue :
    still sA = true ∧ ready sA (.eng 3) = true ∧ freeSlot (sA.core (.eng 3)) = some 0 ∧ attnB false = true ∧
    attnB true = true ∧ cropB = true := by decide +kernel

/-- Engine 3 after one verb of each completion command has been issued into slot 0. -/
def verbStates (d : Nat) : List State :=
  [execMma (.eng 3) 1 0 1 2 true, execConv (.eng 3) 1 3 4 5 true, execDwconv (.eng 3) 1 3 4 5 true, execSmax (.eng 3) 1 6 7 8 true,
   execNormLayer (.eng 3) 1 6 7 9 true, execCvt (.eng 3) 1 6 7 true, execGath (.eng 3) 1 6 7 10 true].map fun f => after f (sN d)

/-- The verb in slot 0 of engine 3 is one that row j of the completion commands may end. -/
def endsB (s : State) (j : Nat) : Bool :=
  match (verbEnds 3 0)[j]?, (s.core (.eng 3)).slot 0 with
  | some r, some v => still s && ! v.done && r.2.1 v.kind && isOldest (s.core (.eng 3)) v r.2.2
  | _, _ => false

theorem test_w_VerbCompletion :
    (verbStates cis).mapIdx (fun j s => endsB s j) = List.replicate 7 true := by decide +kernel

/-- What the cvt in slot 0 delivers lies in the Basin, or in the Cistern, with its nouns. -/
def cvtBulk (d : Nat) : List Nat :=
  let s := after (execCvt (.eng 3) 1 6 7 true) (sN d)
  match (s.core (.eng 3)).slot 0 with
  | some v => (verbRun false (s.begin.view (dieOf 3)) 3 v).bulk.map Prod.fst
  | none => []

theorem test_w_VerbCompletion_places :
    (cvtBulk bas).length = 64 ∧ ((cvtBulk bas).all fun a => s0.region a == .basin 3) = true ∧
    (cvtBulk cis).length = 64 ∧ ((cvtBulk cis).all fun a => s0.region a == .cistern) = true := by decide +kernel

/-- The gath in slot 0 takes a poisoned index. -/
theorem test_w_VerbCompletion_poison :
    (let s := after (execGath (.eng 3) 1 6 7 10 true) (poison (sN cis) (cis + 0x9000) 8)
     endsB s 6 = true ∧ ((s.core (.eng 3)).slot 0).map (fun v => (verbRun false (s.begin.view (dieOf 3)) 3 v).eaten) =
       some (some (cis + 0x9000))) := by decide +kernel

/-- Engine 3 with the rows of an append and its control word in g3: the page table gives no page, or a poisoned entry. -/
def sAp (p : Bool) : State :=
  let s := regs (noun (noun sA 3 5 (cis + 0x8000) 2 [32, 1, 1, 1] [0, 64, 64, 64]) 3 6 (cis + 0x9000) 2 [32, 1, 1, 1] [0, 64, 64, 64])
    (engine 3) [(3, 3)]
  if p then poison s (slotAddr 0 + 0x40) 8 else s

/-- The attn in slot 0 is the one that its command ends: whether it is over, and whether it has taken poison. -/
def attnEnds (s : State) : Option (Bool × Bool) :=
  match (s.core (.eng 3)).slot 0 with
  | some v =>
    let rc := isRecompute v
    let x := runSeqs (shapeOf v) 3 rc false (fun q => ! q.begun) { s := s.begin.view (dieOf 3), acc := v.att } (initSeqs v)
    if still s && ! v.done && isOldest (s.core (.eng 3)) v usesMatrix && v.kind == .attn rc then
      some (attnOver { v with seqs := x.2, att := x.1.acc }, x.1.acc.eaten.isSome)
    else none
  | none => none

/-- The crop in slot 0 is the one that its command ends: whether it takes poison. -/
def cropEnds (s : State) : Option Bool :=
  match (s.core (.eng 3)).slot 0 with
  | some v => if still s && ! v.done && v.kind == .crop && samplerTurn s 3 v then
      some (cropRun (s.begin.view (dieOf 3)) 3 v).eaten.isSome else none
  | none => none

theorem test_w_AttnAndCropCompletion :
    attnEnds (after (execAttn (.eng 3) 1 1 2 3 true) sA) = some (true, false) ∧
    attnEnds (after (execAttnRecompute (.eng 3) 1 1 2 3 true) sA) = some (true, false) ∧
    attnEnds (after (execAttn (.eng 3) 3 1 2 3 true) (sAp false)) = some (false, false) ∧
    attnEnds (after (execAttn (.eng 3) 3 1 2 3 true) (sAp true)) = some (true, true) := by decide +kernel

theorem test_w_AttnAndCropCompletion_crop :
    cropEnds (after (execCrop (.eng 3) 2 11 12 13 true) sA) = some false ∧
    cropEnds (after (execCrop (.eng 3) 2 11 12 13 true) (poison sA (cis + 0x7000) 8)) = some true := by decide +kernel

/-- Row 63 of an accumulator, and the token of a verb that is done. -/
theorem test_w_AccumulatorsAndWaitv :
    (let s := regs s0 (engine 3) [(2, 63)]
     still s = true ∧ ready s (.eng 3) = true ∧ accBusy (s.core (.eng 3)) 7 = false ∧
     ((s.core (.eng 3)).readG 2).p = false ∧ ((s.core (.eng 3)).readG 2).v.toNat < 64) ∧
    (let s := after (execCvtComplete 3 0) (after (execCvt (.eng 3) 1 6 7 true) (sN bas))
     let k := s.core (.eng 3)
     still s = true ∧ ready s (.eng 3) = true ∧ tokenOk k (k.readG 1).v = true ∧
     (k.slot (bitsOf (k.readG 1).v 2 0)).map (fun v => (v.done, v.psn)) = some (true, none)) := by decide +kernel

/-- One unit of each kind, and the configuration that its own checks ask for. -/
def unitList : List DrainUnit :=
  [.engine 3, .mover 2, .edge 1, .channel 5, .forebay, .lane 2, .loop 7, .eth 1, .dvoril 1, .can 3, .journal]
def sU : State :=
  coreIn (put s0 [(ING_CH_CTL.DT, 5, 0x2A), (ING_CH_GEOM.W0, 5, 16), (ING_CH_GEOM.H0, 5, 16), (ING_CH_CTL.NLVL, 5, 1),
    (ING_CH_CTL.STRIPE, 5, 1), (ING_CH_CTL.NB, 5, 1), (ING_CH_BASE.BASE, 5, 0x4000000000), (ING_CH_GEOM.BSTRIDE, 5, 256),
    (SRV_LP_TIME.PER, 7, 25000), (JNL_STG.SIZE, 0, 1), (CB_NBT.NBRP, 3, 15), (CB_NBT.NTSEG1, 3, 20), (CB_NBT.NTSEG2, 3, 5),
    (CB_NBT.NSJW, 3, 2), (CB_CTL.FDEN, 3, 0), (CB_CTL.BRSEN, 3, 0), (EDG_RING.STATE, 1, 2), (CST_MVR_PTR.STATE, 2, 2)]) (engine 3) fun k => { k with state := 2 }

/-- The writes that enable, drain and abort a unit take effect. -/
def enableTaken (s : State) (u : DrainUnit) : Bool :=
  stateOf s u == some 2 &&
    taken s 0xA000 (ctlOf u).1 (ctlOf u).2 (if u = .journal then putBits 1 1 0 1 else kept s (ctlOf u).1 (ctlOf u).2 ||| 1)
def drainTaken (s : State) (u : DrainUnit) : Bool :=
  stateOf s u == some 0 && taken s 0xA000 (ctlOf u).1 (ctlOf u).2 (kept s (ctlOf u).1 (ctlOf u).2 &&& ~~~1)
def abortTaken (s : State) (u : DrainUnit) (st : Nat) : Bool :=
  stateOf s u == some st && taken s 0xA000 (ctlOf u).1 (ctlOf u).2
    (kept s (ctlOf u).1 (ctlOf u).2 ||| (if u = .aes then bit64 57 else 2))

theorem test_w_UnitEnable :
    still sU = true ∧ unitList.all (enableTaken sU) = true ∧ chanOk sU 5 = true ∧ loopBad sU 7 = false ∧
    canCfgBad sU 3 (sU.reg .CB_CTL 3) = false ∧ sU.fld JNL_STG.SIZE 0 ≠ 0 := by decide +kernel

/-- Every unit in state n with EN as given, a Dvoril port in state d. -/
def unitsAt (n en d : Nat) : State :=
  coreIn (put sU ([(CST_MVR_PTR.STATE, 2, n), (EDG_RING.STATE, 1, n), (ING_CH_PTR.STATE, 5, n), (ING_FB_CTL.STATE, 0, n),
    (SLV_LANE_STAT.STATE, 2, n), (SRV_LP_CTL.STATE, 7, n), (ETH_CTL.STATE, 1, n), (CB_CTL.STATE, 3, n), (JNL_CTL.STATE, 0, n),
    (DVL_STAT.STATE, 1, d)] ++ unitList.map fun u => (⟨(ctlOf u).1, 0, 0⟩, (ctlOf u).2, en))) (engine 3) fun k =>
    { k with state := n }
/-- Every unit ENABLED, a Dvoril port UP; and every unit DRAINING. -/
def sOn : State := unitsAt 0 1 2
def sOff : State := unitsAt 1 0 3

theorem test_w_UnitDrainAndAbort :
    still sOn = true ∧ unitList.all (drainTaken sOn) = true ∧ sOn.fld DVL_STAT.STATE 1 = 2 ∧
    unitList.all (fun u => abortTaken sOn u 0) = true ∧
    (let s := sOn.setBit SEC_AES_RING.EN 0 true; still s = true ∧ abortTaken s .aes 0 = true) := by decide +kernel

theorem test_w_UnitDrainAndAbort_draining :
    still sOff = true ∧ unitList.all (fun u => abortTaken sOff u 1) = true := by decide +kernel

/-- Nothing of any of the units is in flight; in replay the journal has nothing to seal. -/
theorem test_w_DrainsEnd :
    (let s := put sOff [(JNL_CTL.MODE, 0, 1)]
     still s = true ∧ unitList.all (fun u => stateOf s u == some 1) = true ∧ s.bit JNL_CTL.MODE 0 = true) ∧
    (sOff.core (.eng 3)).inFlight = [] ∧ (sOff.core (.eng 3)).runtime = true ∧ (sOff.mover (.ring 2)).prog = [] ∧
    sOff.edgeJob 1 = none ∧ (sOff.chan 5).frames = [] ∧ openFrame sOff 5 = none ∧ filling sOff = [] ∧
    ((sOff.lane 2).prob.isNone = true) ∧ (sOff.loop 7).released = [] ∧ (sOff.loop 7).sel = none ∧
    (sOff.port 1).wire = none ∧ (sOff.dv 1).replay = [] ∧ (sOff.canSt 3).wire = none ∧
    sOff.jnl.held = [] ∧ sOff.jnl.out = [] := by decide +kernel

/-- Engine 3 with a Cistern noun at 1, a Basin noun at 2 and an HBM noun at 4, addresses in g6 and g7, handles in g1
(cluster gate 5), g2 (module gate 7) and g8 (cluster check 5), and amounts in g3 to g5. -/
def sX : State :=
  regs (noun (noun (noun (words (words s0 cis [1, 2, 3, 4, 5, 6, 7, 8]) bas [11, 12]) 3 1 cis 2 [32, 1] [0, 64])
    3 2 bas 2 [32, 1] [0, 64]) 3 4 0x1000000 2 [32, 1] [0, 64]) (engine 3)
    [(1, 5), (2, 0x807), (3, 3), (4, 0x80000000), (6, cis), (7, bas), (8, 5 + 2 ^ 20)]

theorem test_w_NounTable :
    let k := sX.core (.eng 3)
    still sX = true ∧ ready sX (.eng 3) = true ∧ (k.readG 6).p = false ∧ (k.readG 6).v.toNat = cis ∧ cis % 64 = 0 ∧
    accessOkV sX 3 .rd cis 64 = true ∧ loadWaits k (span cis 64) = false ∧
    (sX.begin.view (dieOf 3)).firstPoison cis 64 = none ∧ (k.readG 7).v.toNat = bas ∧ bas % 64 = 0 ∧
    accessOkV sX 3 .wr bas 64 = true ∧ storeWaits k (span bas 64) = false ∧ sX.region bas = .basin 3 := by decide +kernel

/-- A copy within the engine's mover, and one on a quadrant's. -/
def moveB (nd na : BitVec 6) : Option Bool :=
  let k := sX.core (.eng 3)
  let src := k.noun na.toNat
  let dst := k.noun nd.toNat
  let x : Ctx := ⟨.eng 3, 0, k, storesAccepted sX 3, false⟩
  (moveRoute sX 3 (nounOf src) (nounOf dst)).map fun m =>
    ! (k.readG 1).p && (moveChecks x sX [(nd.toNat, .wr), (na.toNat, .rd)]).isOk &&
    (moveReason sX 3 (nounOf src) (nounOf dst)).isNone && handleOkEngine (k.readG 1).v false &&
    (engineMoves sX 3).isEmpty && ! moverFull sX m && (moveChecks x sX [(na.toNat, .rd)]).isOk

theorem test_w_MoveAndPrefetch :
    still sX = true ∧ ready sX (.eng 3) = true ∧ moveB 2 1 = some true ∧ moveB 1 4 = some true := by decide +kernel

/-- The cluster gate holds 3, as much as the amount that gwait takes; nothing less than it serves 2^31 - 1. -/
theorem test_w_GateSignalAndWait :
    let s := after (execGateWrite 0xA000 (.cluster 0 5) 3) (regs sX (engine 3) [(5, 0x7FFFFFFF)])
    let k := s.core (.eng 3)
    let h := handleKey (handleOfEngine 3 (k.readG 1).v)
    still s = true ∧ ready s (.eng 3) = true ∧ handleOkEngine (k.readG 1).v false = true ∧
    bitsOf (k.readG 1).v 11 10 ≠ 1 ∧ (k.readG 1).p = false ∧ (k.readG 3).p = false ∧ storesAccepted s 3 = true ∧
    memVerbs k = false ∧ s.waiters h = [] ∧ ((k.readG 3).v.toNat : Int) ≤ gateValue (gateWord s h) ∧
    gateValue (gateWord s h) < (k.readG 5).v.toNat ∧ (k.readG 5).v.toNat < 2 ^ 31 ∧
    handleOkEngine (k.readG 2).v false = true ∧ bitsOf (k.readG 2).v 11 10 ≠ 1 ∧
    gateTaken s 0xA000 (.cluster 0 5) 7 = true ∧ gateTaken s 0xA000 (.die 1 5) 7 = true ∧
    gateTaken s 0xA000 (.module 7) 7 = true := by decide +kernel

/-- The wait of the statement's last clause: the gate that engine 3 waits at is written with what it asks. -/
theorem test_w_GateSignalAndWait_served :
    let s := regs sX (engine 3) [(5, 0x7FFFFFFF)]
    let t := after (execGwait (.eng 3) 1 5 true) s
    still s = true ∧ ready s (.eng 3) = true ∧ handleKey (handleOfEngine 3 ((s.core (.eng 3)).readG 1).v) = gateKey (.cluster 0 5) ∧
    (t.core (.eng 3)).waiting = true ∧ gateTaken t 0xA000 (.cluster 0 5) 0x7FFFFFFF = true ∧
    ((0x7FFFFFFF : Nat) : Int) ≤ gateValue 0x7FFFFFFF := by decide +kernel

/-- A cluster check of one participant and one of two; writes of every kind of check. -/
theorem test_w_ChecksMeet :
    let s := fun n => after (execCheckWrite 0xA000 (.cluster 0 5) false n) sX
    let ok := fun (s : State) =>
      let k := s.core (.eng 3)
      let h := checkKey (.cluster 0 5)
      still s && ready s (.eng 3) && handleOkEngine (k.readG 8).v true && decide (bitsOf (k.readG 8).v 11 10 ≠ 1) &&
      ! (k.readG 8).p && decide (handleKey (handleOfEngine 3 (k.readG 8).v) = h) && storesAccepted s 3 && ! memVerbs k &&
      (s.chk h).even.isEmpty && (s.chk h).odd.isEmpty && (s.chk h).held.isEmpty &&
      decide (chkCount s h (roundOdd s h) = 0) && ! (checkWord s h 1).getLsbD 32
    ok (s 1) = true ∧ partOf (s 1) (checkKey (.cluster 0 5)) = 1 ∧ ok (s 2) = true ∧
    partOf (s 2) (checkKey (.cluster 0 5)) = 2 ∧
    taken (s 1) 0xA000 .CST_CCHK1 5 9 = true ∧ taken (s 1) 0xA000 .CST_MCHK0 7 9 = true := by decide +kernel

/-- A post is held, then released; a post of module 1 leaves on port 1, alone or beside a draining port 0, or on no
port. -/
theorem test_w_PostsAndFences :
    (let k := sX.core (.eng 3)
     still sX = true ∧ ready sX (.eng 3) = true ∧ (k.readG 1).p = false ∧ (k.readG 3).p = false ∧
     handleOkPost (k.readG 2).v = true ∧ postLocal sX (k.readG 2).v = true ∧
     keyIsolated sX (handleKey (putBits (k.readG 2).v 19 17 0)) = false ∧ memVerbs k = false ∧
     engineMoves sX 3 = [] ∧ sX.sluice.length < 64 ∧ storesAccepted sX 3 = true ∧ sX.pend = [] ∧
     taken sX 0xA000 .CST_GDBG_SEL 0 5 = true) ∧
    (let s := after (execPost (.eng 3) 2 3 true) sX
     still s = true ∧ s.sluice.length = 1 ∧ s.sluice.all (fun p => postReady s p && handleOkUnit p.here false &&
       ! keyIsolated s (handleKey p.here) && decide (bitsOf p.here 11 10 ≠ 1) && (s.waiters (handleKey p.here)).isEmpty) = true) ∧
    ([0, 2].map fun st =>
      let s := put (regs sX (engine 3) [(2, 0x807 + 2 ^ 17 + 2 ^ 19)])
        [(DVL_STAT.STATE, 1, st), (DVL_STAT.PIDX, 1, 1), (DVL_STAT.STATE, 0, 3), (DVL_STAT.PIDX, 0, 1)]
      let h := ((s.core (.eng 3)).readG 2).v
      (still s && ready s (.eng 3) && handleOkPost h && ! postLocal s h, (upFrom 0 2).map fun q =>
        dvUp s q && dvReaches s (bitsOf h 18 17) q)) = [(true, [false, false]), (true, [false, true])] := by decide +kernel

/-- Engine 3's queue filled to n by pushes of a descriptor at cis; its and engine 4's running slots. -/
def sQ (n : Nat) : State :=
  (upFrom 0 n).foldl (fun s _ => after (execTaskPush 0xA000 3 (w64 cis)) s)
    (put (words s0 cis [cis + 0x100 + 2 ^ 40, cis + 0x1000, 11, 12, 13, 14, 15, 16, 17, 18, 0, 7, 5, 0x99])
      [(FE_TQ_RUN.RUN, 3, cis + 0x2000), (FE_TQ_RUN.RUN, 4, cis + 0x2080)])

theorem test_w_TaskQueues_push :
    (still (sQ 0) = true ∧ taken (sQ 0) 0xA000 .FE_TQ_PUSH 3 (w64 cis) = true ∧ (sQ 0).fld FE_TQ.COUNT 3 = 0 ∧
     taskPlace cis = true ∧ taskBad (((sQ 0).begin.view (dieOf 3)).words cis 16) = false ∧
     taken (sQ 0) 0xA000 .FE_TQ_PUSH 3 (w64 (cis + 8)) = true ∧ taskPlace (cis + 8) = false) ∧
    (let s := put (sQ 0) [(FE_TQ.COUNT, 3, 64)]
     still s = true ∧ s.fld FE_TQ.COUNT 3 = 64 ∧ taken s 0xA000 .FE_TQ_PUSH 3 (w64 cis) = true) := by decide +kernel

/-- Engine 3 takes its own task; engine 4 takes engine 3's; engine 4 finds none. -/
theorem test_w_TaskQueues_take :
    still (sQ 1) = true ∧ ((sQ 1).core (.eng 3)).state ≠ 1 ∧ taskPlace ((sQ 1).fld FE_TQ_RUN.RUN 3) = true ∧
    0 < (sQ 1).fld FE_TQ.COUNT 3 ∧ (sQ 1).fld FE_TQ.COUNT 4 = 0 ∧ taskPlace ((sQ 1).fld FE_TQ_RUN.RUN 4) = true ∧
    ((victims 4).find? (fun x => (tailFlags (sQ 1) x.1).testBit x.2.2)).map (fun x => x.1) = some 3 ∧
    ((victims 4).find? (fun x => (tailFlags (sQ 0) x.1).testBit x.2.2)).isNone = true := by decide +kernel

/-- The first descriptor of a quadrant mover's handoff queue. -/
def sM : State := after (execMove (.eng 3) 1 4 1 true) sX
/-- The same descriptor in the ring of mover 0. -/
def sRing : State :=
  words (put sX [(CST_MVR_PTR.TAIL, 0, 1)]) (ringEntry 0 0)
    ((sM.movers.flatMap fun x => x.2.handoff.flatMap fun d => (upFrom 0 24).map fun i => (d.words.getD i 0).toNat).take 24)

/-- The mover that the handed-over descriptor waits at, and whether one of its kind could be taken. -/
theorem test_w_MoversWork_take :
    still sM = true ∧ (moveRoute sX 3 (nounOf ((sX.core (.eng 3)).noun 4)) (nounOf ((sX.core (.eng 3)).noun 1))) = some (.ring 2) ∧
    sM.fld CST_MVR_PTR.STATE 2 = 0 ∧ (sM.mover (.ring 2)).handoff.length = 1 ∧
    (sM.mover (.ring 2)).prog.length < moverDepth (.ring 2) ∧ sM.fld CST_MVR_PTR.HEAD 2 = sM.fld CST_MVR_PTR.TAIL 2 ∧
    (sM.mover (.ring 2)).handoff.all (fun d => (descReason sM (.ring 2) true d).isNone) = true ∧
    taken sM 0xA000 .CST_MVR_PTR 2 5 = true := by decide +kernel

theorem test_w_MoversWork_ring :
    still sRing = true ∧ sRing.fld CST_MVR_PTR.HEAD 0 ≠ sRing.fld CST_MVR_PTR.TAIL 0 ∧ (sRing.mover (.ring 0)).handoff = [] ∧
    descReason sRing (.ring 0) true ⟨.ring 0, sRing.words (ringEntry 0 0) 24⟩ = none ∧
    (descReason (put sX [(CST_MVR_PTR.TAIL, 0, 1)]) (.ring 0) true
      ⟨.ring 0, (put sX [(CST_MVR_PTR.TAIL, 0, 1)]).words (ringEntry 0 0) 24⟩).isSome = true := by decide +kernel

/-- A descriptor in progress on engine 3's own mover, and one on mover 0 from its ring. -/
def completesB (s : State) (mv : MoverId) : Bool :=
  match (s.mover mv).prog with
  | d :: _ => still s && (sendPort mv).isNone && ! sourcePending s d && s.region d.srcN.base != .outbound &&
      s.region d.dstN.base != .outbound
  | [] => false
theorem test_w_MoversWork_complete :
    completesB (after (execMove (.eng 3) 2 1 1 true) sX) (.engine 3) = true ∧
    completesB (after (execMoverTakeDescriptor (.ring 0)) sRing) (.ring 0) = true := by decide +kernel

/-- A store of engine 3 presented to its bank; reads presented to an HBM channel; accesses that have waited 31 and 32. -/
theorem test_w_ArbitersGrant :
    (let s := after (execSt (.eng 3) 3 6 0 true) sX
     still s = true ∧ inFallback s (bankOf cis) = false ∧
     (pickGrant s (bankOf cis)).map (fun w => (w.bank, decide (w.src < 256))) = some (bankOf cis, true)) ∧
    (let a := hbmArrive s0 0 5 [2] (tget (fun _ => {}) s0.hbmArb 5)
     (hbmPick (hbmPresent a.wait a)).map (fun r => r.wr.isNone) = some true) ∧
    (let s := { s0 with basinArb := tput (fun _ => {}) [] 0 { owner := 2, sibs := [(1, 31), (2, 32)] } }
     still s = true ∧ (tget (fun _ => {}) s.basinArb 0).sibs.any (fun x => decide (32 ≤ x.2)) = true) := by decide +kernel

/-! ### The Solver Array -/

/-- The sixteen words of a problem descriptor. -/
def desc (w1 w2 w3 w4 : Nat) : List Nat :=
  [4 + 0x77 * 2 ^ 40, w1, w2, w3, w4, 0x3FE0000000000000, 0, 0x3FF0000000000000, 0x4340000000000000, 0, 0, 0, 0, 0xABCD, 0, 0]
/-- A primitive record of n = 2, k = 2, m = 1 at 0x3400, 0x3500, 0x3600 and 0x3700. -/
def prec (op : Nat) : List Nat :=
  [op + 2 * 2 ^ 16 + 2 * 2 ^ 32 + 2 ^ 48, 0x3400 + 2 * 2 ^ 32, 0x3500 + 2 * 2 ^ 32, 0x3600 + 2 * 2 ^ 32, 0x3700 + 2 * 2 ^ 32, 0, 0, 0]
/-- Lane 3 with a descriptor at 0x1000, a block of merit 1.0 in g1 and a Cholesky record, of a matrix with the first pivot
x, in g5; codes 7, 0, 64 and 255 in g2, g3, g6 and g7. -/
def sL (d : List Nat) (x : Nat) : State :=
  let b := laneBase 3
  regs (words (words (words (words (laneOn s0) (b + 0x1000) d) (b + 0x4000) [0x3FF0000000000000, 1, 2, 3])
    (b + 0x3100) (prec 1)) (b + 0x3400) [x, 0x3FF0000000000000, 0x3FF0000000000000, 0x4008000000000000]) (.lane 3)
    [(1, b + 0x4000), (2, 7), (3, 0), (5, b + 0x3100), (6, 64), (7, 255)]
/-- A descriptor without a deadline, one with WUSE and WSLOT 0, one with the deadline 5 and one with REGU. -/
def dPlain : List Nat := desc 0 (2 + 2 * 2 ^ 32) (0x2000 + 0x2400 * 2 ^ 32) 0
def dWarm : List Nat := desc (2 ^ 33) (2 * 2 ^ 32) (0x2000 + 0x2400 * 2 ^ 32) 0x2600
def dLate : List Nat := desc (5 + 2 ^ 32) (2 * 2 ^ 32) (0x2000 + 0x2400 * 2 ^ 32) 0
def dRegu : List Nat := desc (2 ^ 39) (2 + 2 * 2 ^ 32) (0x2000 + 0x2400 * 2 ^ 32) 0
/-- The offset queued; the problem in progress. -/
def queued (s : State) : State := s.setLane 3 { s.lane 3 with fifo := [0x1000] }
def begin3 (s : State) (d : List Nat) : State := s.setLane 3 { s.lane 3 with prob := some { desc := 0x1000, words := d.map w64 } }
/-- A state at which lane 3 has a problem in progress with results that nothing checks and nothing queued. -/
def solving (s : State) : Bool :=
  still s && ! (s.reg .DRD_SLV_EN 0).getLsbD 3 && (s.lane 3).fifo.isEmpty &&
    match (s.lane 3).prob with
    | some p => decide (p.res % 8 = 0) && ! (p.w 12).getLsbD 21
    | none => false

theorem test_w_SignatureOfAProblem :
    let p : Problem := { desc := 0, words := (desc 0 0 0 0).map w64 }
    let q : Problem := { desc := 0, words := ((desc 0 0 0 0).set 0 (4 + 0x78 * 2 ^ 40)).map w64 }
    (bitsOf (p.w 0) 15 0, bitsOf (p.w 0) 31 16, bitsOf (p.w 0) 39 32) =
      (bitsOf (q.w 0) 15 0, bitsOf (q.w 0) 31 16, bitsOf (q.w 0) 39 32) ∧ bitsOf (p.w 0) 63 40 ≠ bitsOf (q.w 0) 63 40 := by
  decide +kernel

/-- Codes 0, 64 and 255 with no block and with one, code 7, and no problem. -/
theorem test_w_SdoneCodes :
    (let s := begin3 (sL dPlain 0x4010000000000000) dPlain
     let k := s.core (.lane 3)
     solving s = true ∧ ready s (.lane 3) = true ∧ bitsOf (k.readG 3).v 7 0 = 0 ∧ bitsOf (k.readG 6).v 7 0 = 64 ∧
     bitsOf (k.readG 7).v 7 0 = 255 ∧ bitsOf (k.readG 2).v 7 0 = 7 ∧ (k.readG 1).v.toNat % 8 = 0 ∧
     ((s.lane 3).prob.map fun p => inGang s 3 (k.readG 1).v.toNat (32 + 8 * p.klen)) = some true) ∧
    (let s := sL dPlain 0x4010000000000000
     still s = true ∧ ready s (.lane 3) = true ∧ (s.lane 3).fifo = [] ∧ (s.lane 3).prob = none) := by decide +kernel

/-- The state of a queue that a doorbell finds: with room, full, a lane that is not ENABLED; offsets that are aligned or
not. -/
theorem test_w_ProblemsBeginAndOffer_door :
    let s := sL dPlain 0
    still s = true ∧ taken s 0xA000 .SLV_DOOR 3 0x1000 = true ∧ isMember s 3 = false ∧ s.fld SLV_LANE_STAT.STATE 3 = 0 ∧
    taken s 0xA000 .SLV_DOOR 3 0x1001 = true ∧ s.fld SLV_LANE_STAT.STATE 4 ≠ 0 := by decide +kernel

/-- Problems begun without a slot, from a slot that fits, from one that does not. -/
def slotGood (s : State) : State :=
  words s (slotEntry 3 0) [(postedProblem s 3 0x1000).sig.toNat, 0x2700 + 2 * 2 ^ 32 + 2 ^ 63]
def slotBad (s : State) : State := words s (slotEntry 3 0) [5, 0x2700 + 2 * 2 ^ 32 + 2 ^ 63]
def begins (s : State) : Bool :=
  still s && ready s (.lane 3) && (s.lane 3).prob.isNone &&
    (problemBad s 3 (postedProblem s.begin 3 0x1000)).isNone && ! ((postedProblem s.begin 3 0x1000).w 1).getLsbD 32
theorem test_w_ProblemsBeginAndOffer_snext :
    begins (queued (sL dPlain 0)) = true ∧ (postedProblem (sL dPlain 0) 3 0x1000).wuse = false ∧
    (let s := queued (slotGood (sL dWarm 0))
     let p := postedProblem s.begin 3 0x1000
     begins s = true ∧ p.wuse = true ∧ (s.word (slotEntry 3 p.wslot + 8)).getLsbD 63 = true ∧
       s.word (slotEntry 3 p.wslot) = p.sig ∧ bitsOf (s.word (slotEntry 3 p.wslot + 8)) 45 32 = p.klen) ∧
    (let s := queued (slotBad (sL dWarm 0))
     let p := postedProblem s.begin 3 0x1000
     begins s = true ∧ p.wuse = true ∧ (s.word (slotEntry 3 p.wslot + 8)).getLsbD 63 = true ∧
       s.word (slotEntry 3 p.wslot) ≠ p.sig) := by decide +kernel

/-- A record that prim accepts; an offer in a problem in progress, better than what is kept and then not. -/
theorem test_w_ProblemsBeginAndOffer_offers :
    (let s := sL dPlain 0
     let a := ((s.core (.lane 3)).readG 5).v.toNat
     still s = true ∧ ready s (.lane 3) = true ∧ a % 8 = 0 ∧ inGang s 3 a 64 = true ∧
     primTrap s (primCtx s 3 (s.words a 8)) = none) ∧
    (let s := begin3 (sL dPlain 0) dPlain
     let a := ((s.core (.lane 3)).readG 1).v.toNat
     still s = true ∧ ready s (.lane 3) = true ∧ s.fld SLV_LANE_STAT.STATE 3 = 0 ∧ a % 8 = 0 ∧ s.poisoned a 8 = false ∧
     s.bit SEC_ATT.BUSY 0 = false ∧
     ((s.lane 3).prob.map fun p => (inGang s 3 a (32 + 8 * p.klen),
       fLt (fDecode .f64 (s.load a 8)) (fDecode .f64 p.merit.toNat))) = some (true, true)) := by decide +kernel

/-- The Cholesky primitive of lane 3 under way, without a problem, with one, with a first pivot below 0. -/
def primOn (s : State) : State := after (execPrim 3 8 5 true) s
def primB (s : State) : Option (Bool × Option PrimStop) :=
  (s.lane 3).run.map fun r =>
    (still s && inGang s 3 r.addr 64 && (preempted s 3).isNone && decide (bitsOf (r.words.getD 0 0) 7 0 = 1),
     (runPrim (primCtx s.begin 3 r.words) r.addr r.psn { s := s.begin }).stop)
theorem test_w_PrimitivesComplete :
    primB (primOn (sL dPlain 0x4010000000000000)) = some (true, none) ∧
    (let s := primOn (begin3 (sL dPlain 0x4010000000000000) dPlain); primB s = some (true, none) ∧ solving s = true) ∧
    (let s := primOn (begin3 (sL dPlain 0xC010000000000000) dPlain); primB s = some (true, some .singular) ∧ solving s = true) := by
  decide +kernel
/-- A product above OVT, of lane 3's problem. -/
theorem test_w_PrimitivesComplete_overflow :
    let b := laneBase 3
    let s := primOn (words (words (begin3 (sL dPlain 0x43B0000000000000) dPlain) (b + 0x3100) (prec 7)) (b + 0x3500) [0x3FF0000000000000])
    solving s = true ∧ (s.lane 3).keep.isNone = true ∧ (s.lane 3).run.map (fun r =>
      (still s && inGang s 3 r.addr 64 && (preempted s 3).isNone && decide (bitsOf (r.words.getD 0 0) 7 0 = 7),
       (runPrim (primCtx s.begin 3 r.words) r.addr r.psn { s := s.begin }).stop)) = some (true, some .overflow) := by
  decide +kernel

/-- A deadline that is reached, one that is not, a budget that is reached, one that is not. -/
theorem test_w_SolverPreemption :
    (let s := atTime (begin3 (laneOn s0) dLate) 0 (5 + 2 ^ 30)
     solving s = true ∧ (s.lane 3).run.isNone = true ∧ s.bit DET_STAT.STRICTNOW 0 = false ∧
     ((s.lane 3).prob.map fun p => ((p.w 1).getLsbD 32, decide ((s.stamp + 2 ^ 32 - bitsOf (p.w 1) 31 0) % 2 ^ 32 < 2 ^ 31))) =
       some (true, true)) ∧
    ([1, 2].map fun n =>
      let s := begin3 (laneOn s0) dPlain
      let s := s.setLane 3 { s.lane 3 with prob := (s.lane 3).prob.map fun p => { p with clauses := n } }
      (solving s, (s.lane 3).prob.map fun p => ((p.w 1).getLsbD 32, bitsOf (p.w 2) 31 0, p.clauses))) =
      [(true, some (false, 2, 1)), (true, some (false, 2, 2))] := by decide +kernel

/-! ### Functional safety -/

/-- Every class with reaction r, threshold 2, leak 5 and count n; the Ditch Rider with its class, unit and a code that is
no class in g1 to g3; watchdog 5 enabled with MIN 10 and MAX 1000. -/
def sZ (r n : Nat) : State :=
  let s := put s0 ((upFrom 0 26).flatMap fun k =>
    [(DRD_REACT.REACT, k, r), (DRD_REACT.THRESH, k, 2), (DRD_REACT.COUNT, k, n), (DRD_REACT.LEAK, k, 5)])
  regs (regs (atTime (put s [(DRD_WD0.EN, 5, 1), (DRD_WD0.MIN, 5, 10), (DRD_WD0.MAX, 5, 1000)]) 1 500) .drd
    [(1, 7), (2, 0x5003), (3, 30)]) (engine 3) [(1, 5)]
/-- The window of watchdog 5 opened n ns ago. -/
def openFor (s : State) (n : Nat) : State :=
  put s [(DRD_WD1.RUN, 5, 1), (DRD_WD1.LAST, 5, (s.stamp + 2 ^ 32 - n) % 2 ^ 32)]
/-- The golden window is over. -/
def golden (s : State) (pass : Nat) : State :=
  put s [(DRD_GOLD_GSTART.GSTART, 0, 100), (DRD_GOLD_GWIN.GWIN, 0, 1000), (DRD_GOLD_BUD.BUD, 0, 100),
    (DRD_GOLD_PASS.PASS, 0, pass), (DRD_ST_CTL.STDL, 0, 1)]

/-- Reaction 0; reaction 1 below and at the threshold; reactions 2 and 3 at it; a window that closes now. -/
theorem test_w_DetectionsReact :
    (still (sZ 0 0) && still (sZ 1 1) && still (sZ 2 0) && still (sZ 2 1) && still (sZ 3 1)) = true ∧
    [reactionOf (sZ 0 1) 7, reactionOf (sZ 1 1) 7, reactionOf (sZ 2 0) 7, reactionOf (sZ 2 1) 7, reactionOf (sZ 3 1) 7] =
      [0, 1, 1, 2, 3] ∧
    (let s := { sZ 3 1 with drd := { (sZ 3 1).drd with fwRun := true } }; still s = true ∧ s.drd.fwRun = true) ∧
    taken (sZ 3 1) 0xA000 .DRD_SAFE 0 2 = true ∧
    (let s := openFor (sZ 2 1) 1000
     still s = true ∧ s.bit DRD_WD0.EN 5 = true ∧ s.bit DRD_WD1.RUN 5 = true ∧ s.fld DRD_WD0.MAX 5 ≤ wdSince s 5) ∧
    (let s := golden (sZ 1 1) 0
     still s = true ∧ s.reached (goldenEnd s % 2 ^ 32) = true ∧ s.bit DRD_GOLD_PASS.PASS 0 = false ∧
     (sliceCount 3).isSome = true ∧ (sliceCount 0x105).isSome = true ∧
     (s.selfTest 3).since + s.fld DRD_ST_CTL.STDL 0 * 1000000 ≤ s.totalNs) ∧
    ready (sZ 1 1) .drd = true ∧ bitsOf (((sZ 1 1).core .drd).readG 1).v 7 0 < 26 := by decide +kernel

/-- The units that the last clauses of a detection's reaction ask for. -/
theorem test_w_DetectionsReact_units :
    ((0x00FF < 0x100 ∨ 0x5000 ≤ 0x00FF ∧ 0x00FF < 0x5040) ∧ (0x503F < 0x100 ∨ 0x5000 ≤ 0x503F ∧ 0x503F < 0x5040)) ∧
    (0x110 ≤ 0x5040 ∧ ¬ (0x2200 ≤ 0x5040 ∧ 0x5040 < 0x2280) ∧ ¬ (0x5000 ≤ 0x5040 ∧ 0x5040 < 0x5040)) := by decide

/-- A record that waits; a ticket pending in stream 4 alone, and one pending in none; ARM 0; OKNOW. -/
theorem test_w_DitchRiderInstructions :
    (let s := { sZ 1 1 with drd := { (sZ 1 1).drd with wr := 3, rd := 1 } }
     still s = true ∧ ready s .drd = true ∧ s.drd.rd < s.drd.wr) ∧
    (let s := (sZ 1 1).setSeal 4 { ticket := some 7 }
     still s = true ∧ ready s .drd = true ∧ bitsOf ((s.core .drd).readG 1).v 15 0 = 7 ∧ (s.sealSt 4).ticket = some 7 ∧
     ((upFrom 0 64).all fun j => j = 4 || (s.sealSt j).ticket != some 7) = true ∧
     bitsOf ((s.core .drd).readG 3).v 15 0 = 30 ∧ ((upFrom 0 64).all fun j => (s.sealSt j).ticket != some 30) = true) ∧
    taken s0 0xA000 .DRD_CTL 0 (kept s0 .DRD_CTL 0 ||| 1) = true ∧ s0.bit DRD_CTL.ARM 0 = false ∧
    taken s0 0xA000 .DRD_ISO 0 0x5003 = true ∧ bitsOf (0x5003 : Word) 15 0 = 0x5003 := by decide +kernel

/-- Check-ins at a disabled watchdog, at one that waits, at t + MIN, at t + MAX, before t + MIN. -/
theorem test_w_WatchdogsAndInjection :
    still (sZ 2 1) = true ∧ (sZ 2 1).bit DRD_WD0.EN 5 = true ∧ (sZ 2 1).bit DRD_WD1.RUN 5 = false ∧
    (sZ 2 1).bit DRD_WD0.EN 6 = false ∧ ready (sZ 2 1) (.eng 3) = true ∧ (((sZ 2 1).core (.eng 3)).readG 1).v = w64 5 ∧
    (((sZ 2 1).core (.eng 3)).readG 1).p = false ∧ (sZ 2 1).boot.injDone = false ∧
    ([10, 1000, 9].map fun n =>
      let s := openFor (sZ 2 1) n
      (still s && s.bit DRD_WD1.RUN 5, decide (s.fld DRD_WD0.MIN 5 ≤ wdSince s 5 ∧ wdSince s 5 ≤ s.fld DRD_WD0.MAX 5))) =
      [(true, true), (true, true), (true, false)] := by decide +kernel

/-- Engine 3's target with an idle window that lasts; one with a slice in progress whose window is over. -/
theorem test_w_SelfTestsAndGolden :
    (let s := (sZ 1 1).setTest 3 { idleEnd := some 1000030501 }
     still s = true ∧ sliceCount 3 ≠ none ∧ taken s 0xA000 .DRD_ST_IDLE 0 (3 + 5 * 2 ^ 16) = true ∧
     bitsOf (3 + 5 * 2 ^ 16 : Word) 15 0 = 3 ∧ (s.selfTest 3).idleEnd = some 1000030501 ∧ s.totalNs + 20000 < 1000030501 ∧
     (s.selfTest 3).running = false ∧ inWindowNow s = false ∧ windowSoon s = false) ∧
    (let s := (sZ 1 1).setTest 3 { idleEnd := some 1000000500, running := true, passed := 2 }
     still s = true ∧ (s.selfTest 3).running = true ∧ 1000000500 ≤ s.totalNs) ∧
    (let s := golden (sZ 1 1) 0
     still s = true ∧
     s.reached ((goldenEnd s - s.fld DRD_GOLD_BUD.BUD 0 * s.fld DRD_GOLD_GWIN.GWIN 0 / 1000) % 2 ^ 32) = true) ∧
    (let s := golden (sZ 1 1) 1
     still s = true ∧ s.bit DRD_GOLD_PASS.PASS 0 = true ∧ s.reached (goldenEnd s % 2 ^ 32) = true) ∧
    (let s := put s0 [(CST_BANKFB.STATE, 0, 1), (CST_BANKFB.BANK, 0, 5), (CST_BANKFB.BASE, 0, 2 ^ 24)]
     still s = true ∧ s.fld CST_BANKFB.STATE 0 = 1 ∧ s.fld CST_BANKFB.BASE 0 % 2 ^ 23 = 0 ∧
     s.fld CST_BANKFB.BASE 0 < 0x4000000000) := by decide +kernel

/-- A scrub pass: its range set, in progress, at its last word. -/
def scrubSet (s : State) (h : ScrubId) (base len prog busy : Nat) : State :=
  put s [((scrubRegs h).base, 0, base), ((scrubRegs h).len, 0, len), ((scrubRegs h).prog, 0, prog), ((scrubRegs h).busy, 0, busy)]
def scrubB (h : ScrubId) (base prog : Nat) : Bool :=
  let s := scrubSet s0 h base 256 prog 1
  still s && s.bit (scrubRegs h).busy 0 && taken s 0xA000 (scrubRegs h).busy.reg 0 (kept s (scrubRegs h).busy.reg 0 ||| 4) &&
    decide (s.fld (scrubRegs h).prog 0 + codeSize (scrubRegion h) < 2 ^ 40) && decide (s.fld CST_BANKFB.STATE 0 ≠ 1) &&
    scrubTurn s h (s.fld (scrubRegs h).prog 0)
theorem test_w_ScrubPasses :
    ([ScrubId.cistern, .hbm].all fun h => taken s0 0xA000 (scrubRegs h).busy.reg 0 (kept s0 (scrubRegs h).busy.reg 0 ||| 1)) = true ∧
    ([ScrubId.cistern, .hbm].all fun h =>
      let s := put s0 [((scrubRegs h).status, 0, 2)]
      still s && taken s 0xA000 (scrubRegs h).busy.reg 0 (kept s (scrubRegs h).busy.reg 0 ||| 3)) = true ∧
    scrubB .cistern 0x4000000000 0x4000000000 = true ∧ scrubB .cistern 0x4000000000 0x40000000F0 = true ∧
    scrubB .hbm 0x1000 0x1000 = true ∧ scrubB .hbm 0x1000 0x10E0 = true ∧
    s0.within .hbm 0x1000 256 = true ∧ s0.within .cistern 0x4000000000 256 = true := by decide +kernel
/-- A pass whose bank has a store presented to it. -/
theorem test_w_ScrubPasses_turn :
    let s := scrubSet (after (execSt (engine 3) 1 2 0 true) (regs s0 (engine 3) [(2, cis)])) .cistern cis 256 cis 1
    still s = true ∧ s.bit (scrubRegs .cistern).busy 0 = true ∧ scrubTurn s .cistern (s.fld (scrubRegs .cistern).prog 0) = false := by
  decide +kernel

/-! ### CAN -/

/-- A classical data frame. -/
def fr (id : Nat) (data : List Byte) : CanFrame :=
  ⟨BitVec.ofNat 29 (id * 2 ^ 18), false, false, false, false, false, BitVec.ofNat 4 data.length, data⟩
/-- Controller 1 ENABLED, mailbox 5 receiving identifier 5, mailbox 6 sending identifier 9 with three bytes. -/
def sC : State :=
  let i := mbxAt 1 5
  let j := mbxAt 1 6
  (put (atTime s0 1 500) [(CB_CTL.STATE, 1, 0), (CB_CTL.EN, 1, 1), (CB_CTL.FDEN, 1, 0), (CB_CTL.BRSEN, 1, 0), (CB_NBT.NBRP, 1, 15),
    (CB_NBT.NTSEG1, 1, 20), (CB_MBX_CTL.EN, i, 1), (CB_MBX_ID.IDF, i, 5 * 2 ^ 18), (CB_MBX_MASK.IDM, i, 0x1FFFFFFF),
    (CB_MBX_CTL.EN, j, 1), (CB_MBX_CTL.DIR, j, 1), (CB_MBX_ID.IDF, j, 9 * 2 ^ 18), (CB_MBX_ID.DLC, j, 3)]).setReg
      .CB_MBX_DATA (8 * j) 0x030201
/-- A register of controller 1 takes its kept value with a bit set. -/
def takes1 (s : State) (r : RegName) (i : Nat) (b : Nat) : Bool := taken s 0xA000 r i (kept s r i ||| w64 b)

theorem test_w_CanReception :
    still sC = true ∧ (fr 5 [7, 8]).wellFormed = true ∧ canHears sC 1 = true ∧
    (upFrom 0 128).find? (rxMatch sC 1 (frameWord (fr 5 [7, 8]))) = some 5 ∧
    (upFrom 0 128).find? (rxMatch sC 1 (frameWord (fr 6 [7, 8]))) = none ∧
    (let s := after (execCanFrameReceive 1 (fr 5 [7, 8]) 100) (put sC [(CB_MBX_CMD.LOCK, mbxAt 1 5, 1)])
     still s = true ∧ s.bit CB_MBX_CMD.LOCK (mbxAt 1 5) = true ∧
     (s.mbxSt 1 5).shadow.map (fun x => decide (x.2.2 < 2 ^ 32)) = some true ∧ taken s 0xA000 .CB_MBX_CMD (mbxAt 1 5) 0 = true) := by
  decide +kernel

/-- Bus-off, with recovery asked for and not; off the bus by a fault that lasts; a measurement under way; a stamp queued. -/
theorem test_w_CanReception_states :
    (let s := put sC [(CB_STAT.EST, 1, 2)]
     still s = true ∧ canEst s 1 = 2 ∧ s.bit CB_CTL.EN 1 = decide (s.fld CB_CTL.STATE 1 = 0) ∧
     takes1 s .CB_CTL 1 256 = true ∧ (s.setCan 1 { recover := true }).canSt 1 = { recover := true } ∧
     canEst (s.setCan 1 { recover := true }) 1 = 2) ∧
    (let s := after (execCanBusFault 1 3) sC
     still s = true ∧ canEst s 1 = 3 ∧ (s.canSt 1).cond = true ∧ takes1 s .CB_PHY 1 4 = true) ∧
    takes1 sC .CB_PHY 1 2 = true ∧
    (let s := put sC [(CB_PHY.MPER, 1, 4), (CB_PHY.MBUSY, 1, 1)]
     still s = true ∧ s.fld CB_PHY.MPER 1 ≠ 0 ∧ s.bit CB_PHY.MBUSY 1 = true) ∧
    (let s := sC.setCan 1 { txts := [(5, 77), (6, 88)] }
     still s = true ∧ (s.canSt 1).txts = (5, 77) :: [(6, 88)]) ∧ (sC.canSt 1).txts = [] := by decide +kernel

/-- The resistances where the clauses of a measurement meet. -/
theorem test_w_CanReception_ohms :
    (44 < 45 ∧ 45 ≤ 45 ∧ 45 ≤ 75) ∧ (75 < 90 ∧ 90 ≤ 90 ∧ 90 ≤ 150) ∧ (150 < 500 ∧ 500 ≤ 500) ∧ ¬ 2000 < 2000 ∧ 2000 < 2001 := by
  decide

/-- The launch buffer of mailbox 6: empty, waiting, on the wire, with a launch time, in a guarded stream. -/
def canQ : State := after (execCanMbxQueue 0xA000 1 6) sC
def canW : State := after (execCanFrameStart 1) canQ
def canT (lt : Nat) : State :=
  put sC [(CB_MBX_CTL.LTEN, mbxAt 1 6, 1), (CB_MBX_LT.LT, mbxAt 1 6, lt), (CB_MBX_LT.EXP, mbxAt 1 6, 5)]
def canG : State := put sC [(DRD_SAFE.STATE, 0, 0), (DRD_SAFE.OKNOW, 0, 1), (DRD_GS0.EN, 4, 1), (DRD_GS0.KIND, 4, 1), (DRD_GS0.UNIT, 4, 1), (DRD_GS0.MBX, 4, 6)]

theorem test_w_CanLaunch_queue :
    (sC.fld CB_CTL.STATE 1 = 0 ∧ canDown sC 1 = false ∧ mbxSends sC 1 6 = true ∧ mbxSends sC 1 5 = false ∧
     onWire sC 1 6 = false ∧ streamOf sC 1 1 6 = none ∧ takes1 sC .CB_MBX_CMD (mbxAt 1 6) 1 = true ∧
     takes1 sC .CB_MBX_CMD (mbxAt 1 5) 1 = true) ∧
    (still canW = true ∧ mbxSends canW 1 6 = true ∧ onWire canW 1 6 = true ∧ canW.fld CB_CTL.STATE 1 = 0 ∧
     canDown canW 1 = false ∧ takes1 canW .CB_MBX_CMD (mbxAt 1 6) 1 = true) ∧
    (let b := (template canG 1 6 none canG.stamp false).data
     still canG = true ∧ streamOf canG 1 1 6 = some 4 ∧ canG.bit DRD_GS0.FW 4 = false ∧ judge canG 4 b canG.stamp = 0 ∧
     takes1 canG .CB_MBX_CMD (mbxAt 1 6) 1 = true) := by decide +kernel

/-- A buffer that may start, one whose launch time has come, one that has expired, a cancel on and off the wire. -/
theorem test_w_CanLaunch_buffer :
    (still canQ = true ∧ (canQ.mbxSt 1 6).launch.isSome = true ∧ (canQ.canSt 1).wire = none ∧ canQ.fld CB_CTL.MODE 1 = 0 ∧
     (canPick canQ 1).map (fun x => (x.1, some x.2 == (canQ.mbxSt 1 6).launch, x.2.psn.isEmpty)) = some (6, true, true) ∧
     takes1 canQ .CB_MBX_CMD (mbxAt 1 6) 2 = true ∧ streamOf canQ 1 1 6 = none) ∧
    ((canW.canSt 1).wire.map (fun x => (x.1, decide (x.2 < 2 ^ 32))) = some (6, true) ∧ (canW.mbxSt 1 6).held = none ∧
     takes1 canW .CB_MBX_CMD (mbxAt 1 6) 2 = true) ∧
    (let s := atTime (after (execCanMbxQueue 0xA000 1 6) (canT (sC.stamp + 1000))) 1 20000
     still s = true ∧ canDown s 1 = false ∧ onWire s 1 6 = false ∧
     (s.mbxSt 1 6).launch.map (fun l => (l.ready, l.lt.map s.reached, decide (l.exp ≠ 0), s.reached l.deadline)) =
       some (false, some true, true, true)) ∧
    canHears sC 1 = true := by decide +kernel

/-- A template with a poisoned word in the buffer. -/
theorem test_w_CanLaunch_poisoned :
    let s := canQ.setMbx 1 6 { canQ.mbxSt 1 6 with launch := (canQ.mbxSt 1 6).launch.map fun b => { b with psn := [0] } }
    still s = true ∧ (canPick s 1).map (fun x => (x.1, x.2.psn, decide (8 * 0 < idLen x.2.id))) = some (6, [0], true) := by
  decide +kernel

/-! ### Ethernet -/

/-- A frame of n bytes to every station with an EtherType. -/
def ef (et n : Nat) : EthFrame :=
  ⟨([255, 255, 255, 255, 255, 255, 1, 2, 3, 4, 5, 6] ++ [et / 256, et % 256] ++ List.replicate (n - 14) 7).map (BitVec.ofNat 8), true⟩
/-- Port 1 ENABLED with link, receive queues with buffers at cis + 0x8000, servo slot 3 for EtherType 0x8888, and a
transmit descriptor of queue 2 with a launch time, or none. -/
def sP (len lt t : Nat) : State :=
  words (words (put (atTime s0 1 500000) [(ETH_CTL.STATE, 1, 0), (ETH_CTL.EN, 1, 1), (ETH_LINK.LINK, 1, 1), (ETH_TXQ0.BASE, 6, cis),
    (ETH_RXQ0.BASE, 2, cis + 0x4000), (ETH_RXQ0.BASE, 3, cis + 0x6000), (ETH_RXQ0.BUFSZ, 2, 2), (ETH_RXQ1.TAIL, 2, 3),
    (ETH_RXCLS.ETYPE1, 1, 0x9999), (ETH_RXSV0.ETYPE, 19, 0x8888), (ETH_RXSV0.EN, 19, 1)])
    (cis + 0x4000) [cis + 0x8000]) cis [cis + 0x9000 + len * 2 ^ 40 + lt * 2 ^ 54 + 2 ^ 55, t + 77 * 2 ^ 32]
def ethPost (s : State) : State := after (execEthTxqPost 0xA000 1 2 (1 + 2 ^ 16)) s
/-- Frames that are too short by one, addressed elsewhere, for the slot, for a queue with a buffer, for one with none. -/
theorem test_w_EthernetPorts_receive :
    let s := sP 64 0 0
    still s = true ∧ s.fld ETH_CTL.STATE 1 = 0 ∧ replaying s = false ∧ s.bit ETH_LINK.LINK 1 = true ∧
    (ef 0x800 59).bytes.length = 59 ∧ (ef 0x800 60).bytes.length = 60 ∧ 60 ≤ s.fld ETH_CTL.MAXLEN 1 ∧
    isPause (ef 0x800 60).bytes = false ∧ destOk s 1 (ef 0x800 60).bytes = true ∧
    destOk s 1 ((ef 0x800 60).bytes.set 0 2) = false ∧ (upFrom 0 16).find? (slotMatch s 1 (ef 0x8888 60).bytes) = some 3 ∧
    s.bit ETH_RXSV0.COPY 19 = false ∧ (upFrom 0 16).find? (slotMatch s 1 (ef 0x800 60).bytes) = none ∧
    etherType (ef 0x9999 60).bytes = s.fld ETH_RXCLS.ETYPE1 1 ∧ s.fld ETH_RXQ1.HEAD 3 = s.fld ETH_RXQ1.TAIL 3 ∧
    s.fld ETH_RXQ1.HEAD 2 ≠ s.fld ETH_RXQ1.TAIL 2 ∧ hubCarries s = true ∧ 60 ≤ 128 * s.fld ETH_RXQ0.BUFSZ 2 ∧
    bitsOf (s.word (s.fld ETH_RXQ0.BASE 2 / 32 * 32)) 39 0 = cis + 0x8000 ∧ plainB s (cis + 0x8000) 60 = true ∧
    plainB s (cis + 0x4000) 32 = true ∧ s.bit ETH_RXQ2.GEN 2 = false := by decide +kernel

/-- Posts of a descriptor without a launch time, with one ahead, with one reached, and of one that is too short. -/
def postB (s : State) : Bool × Option Bool :=
  (still s && decide (headOf s 1 2 = 0) && (s.port 1).wire.isNone && ((upFrom 0 4).all fun r => r = 2 || ! s.bit ETH_TXQ1.EN (4 + r)) &&
    taken s 0xA000 .ETH_TXQ1 6 (1 + 2 ^ 16) && decide (s.fld ETH_TXQ1.HEAD 6 = 0) && plainB s (txDesc s 1 2 0) 32 &&
    hubCarries s && ! txBad s 1 (txWords s 1 2 0), (txLt (txWords s 1 2 0)).map (launchDue s 1))
theorem test_w_EthernetPorts_post :
    postB (sP 64 0 0) = (true, none) ∧ postB (sP 64 1 ((sP 64 0 0).stamp + 100000)) = (true, some false) ∧
    postB (sP 64 1 ((sP 64 0 0).stamp - 1000)) = (true, some true) ∧ txBad (sP 59 0 0) 1 (txWords (sP 59 0 0) 1 2 0) = true ∧
    bitsOf (1 + 2 ^ 16 : Word) 7 0 = 1 ∧ ethUp (sP 64 0 0) 1 = true := by decide +kernel

/-- A launch time that comes; a queued frame that may start, on the wire, and the same for a servo slot. -/
theorem test_w_EthernetPorts_transmit :
    (let s := atTime (ethPost (sP 64 1 ((sP 64 0 0).stamp + 100000))) 1 700000
     still s = true ∧ headOf s 1 2 = 1 ∧ ethUp s 1 = true ∧ (txLt (txWords s 1 2 0)).map (launchDue s 1) = some true) ∧
    (let s := ethPost (sP 64 0 0)
     still s = true ∧ (s.port 1).wire = none ∧
     ((ethReady s 1).find? (fun y => ethFits s 1 y.2)).map (fun y => y.1) = some (.queue 2 0) ∧
     s.firstPoison (bitsOf (txWords s 1 2 0).1 39 0) (bitsOf (txWords s 1 2 0).1 53 40) = none) ∧
    (let s := after (execEthFrameTransmit 1) (ethPost (sP 64 0 0))
     still s = true ∧ (s.port 1).wire.map (fun x => (x.1, decide (x.2.2 < 2 ^ 32))) = some (.queue 2 0, true) ∧
     (s.fld ETH_TXQ1.HEAD 6 + 1) % 256 = s.fld ETH_TXQ1.TAIL 6 ∧ (txWords s 1 2 0).1.getLsbD 55 = true ∧
     (s.port 1).txts.length < 32) := by decide +kernel

/-- A servo slot whose launch time is reached, ready, poisoned, on the wire; the link down; stamps to be read. -/
def slotIn (s : State) (ready psn : Bool) : State :=
  setSlotBuf s 1 3 (some { data := List.replicate 64 1, lt := some (s.stamp - 5), psn := psn, ready := ready })
theorem test_w_EthernetPorts_slots :
    (let s := slotIn (sP 64 0 0) false false
     still s = true ∧ (s.ethSlot 1 3).map (fun e => (e.ready, e.lt.map (launchDue s 1))) = some (false, some true) ∧
     streamOf s 2 1 3 = none ∧ ethUp (put s [(ETH_LINK.LINK, 1, 0)]) 1 = false ∧ still (put s [(ETH_LINK.LINK, 1, 0)]) = true) ∧
    ([false, true].map fun psn =>
      let s := slotIn (sP 64 0 0) true psn
      (still s, ((ethReady s 1).find? (fun y => ethFits s 1 y.2)).map fun y => y.1, (s.ethSlot 1 3).map fun e => e.psn)) =
      [(true, some (.slot 3), some false), (true, some (.slot 3), some true)] ∧
    (let s := slotIn (ethPost (sP 64 1 ((sP 64 0 0).stamp + 450))) true false
     still s = true ∧ ((ethReady s 1).find? (fun y => ethFits s 1 y.2)).isNone = true ∧ (s.port 1).wire = none) ∧
    (let s := after (execEthFrameTransmit 1) (slotIn (sP 64 0 0) true false)
     still s = true ∧ (s.port 1).wire.map (fun x => x.1) = some (.slot 3)) ∧
    (let s := (sP 64 0 0).setPort 1 { (sP 64 0 0).port 1 with txts := [(5, 77), (6, 88)] }
     still s = true ∧ (s.port 1).txts = (5, 77) :: [(6, 88)]) ∧ ((sP 64 0 0).port 1).txts = [] := by decide +kernel

/-! ### The Servo Engine -/

/-- The BF value of an FP32 number. -/
def bf (x : Nat) : Nat := (bfOfVal (fDecode .f32 x) 0).elim 0 fun v => v.1.toNat
/-- Loop 7 ENABLED and its next instant n ns from now; what it holds of released instants. -/
def sV7 (n : Int) (released : List Nat) (k4 : Bool) : State :=
  let s := put (atTime s0 1 500000) [(SRV_LP_CTL.STATE, 7, 0), (SRV_LP_CTL.EN, 7, 1), (SRV_LP_TIME.PER, 7, 25000),
    (SRV_LP_LIM.UMIN, 7, bf 0xC1200000), (SRV_LP_LIM.UMAX, 7, bf 0x41200000), (SRV_LP_GAIN.KI, 7, bf 0x3F000000),
    (DRD_SAFE.STATE, 0, 0), (DRD_SAFE.OKNOW, 0, 1)]
  let s := s.setLoop 7 { next := ((s.stamp : Int) + n).toNat, released := released.map fun d => s.stamp - d }
  if k4 then (s.setReg .SRV_LP_IN 7 (w64 (4 + 0x4000002000 / 8 * 8))).setReg .SRV_LP_SPB 7 (w64 (4 + 0x4000002008 / 8 * 8)) else s

theorem test_w_ServoLoops_instants :
    (still (sV7 (-10) [] false) = true ∧ (sV7 (-10) [] false).fld SRV_LP_CTL.STATE 7 = 0 ∧
     (sV7 (-10) [] false).reached ((sV7 (-10) [] false).loop 7).next = true ∧
     (sV7 5000 [] false).reached ((sV7 5000 [] false).loop 7).next = false) ∧
    (let s := sV7 5000 [1000, 500] true
     still s = true ∧ (s.loop 7).released = [s.stamp - 1000, s.stamp - 500] ∧ (s.loop 7).sel.isNone = true ∧
     (s.loop 7).waits = none ∧ s.reached ((s.stamp - 1000 + 1000) % 2 ^ 32) = true ∧ inSafe s = false ∧ srvStrict s = false ∧
     ((upFrom 0 3).all fun r => (readInput s 7 r (s.stamp - 1000)).psn.isNone) = true ∧
     (let u := put s [(DRD_SAFE.STATE, 0, 1), (DRD_SAFE.OKNOW, 0, 0)]; inSafe u = true ∧ still u = true)) := by decide +kernel

/-- In strict mode: an input that is not fresh, that the loop waits for, and that has become fresh. -/
def strict7 (used : List (Nat × Option Nat)) (wait : Bool) : State :=
  let s := put (sV7 5000 [1000] true) [(DET_STAT.STRICTNOW, 0, 1)]
  let l := { s.loop 7 with used := used, prev := [(0, 5)] }
  s.setLoop 7 (if wait then { l with released := [], waits := some (s.stamp - 1000) } else l)
theorem test_w_ServoLoops_strict :
    (let s := strict7 [(0, some 0)] false
     still s = true ∧ srvStrict s = true ∧ cellWaits s 7 (s.stamp - 1000) = true) ∧
    (let s := strict7 [(0, some 0)] true
     still s = true ∧ (s.loop 7).waits = some (s.stamp - 1000) ∧ cellWaits s 7 (s.stamp - 1000) = true) ∧
    (let s := strict7 [(0, some 0), (1, some 3)] true |> fun s => words s 0x4000002000 [0x3F800000 + 5 * 2 ^ 32]
     still s = true ∧ (s.loop 7).waits = some (s.stamp - 1000) ∧ cellWaits s 7 (s.stamp - 1000) = false ∧
     ((upFrom 0 3).all fun r => (readInput s 7 r (s.stamp - 1000)).psn.isNone) = true) := by decide +kernel

/-- An evaluation of used inputs, of stale ones held, in automatic and in manual. -/
def eval7 (stale : Bool) (man : Nat) (pol : Nat) : State :=
  let s := put (sV7 5000 [] false) [(SRV_LP_MODE.MODE, 7, man), (SRV_LP_CTL.STALEPOL, 7, pol)]
  s.setLoop 7 { s.loop 7 with sel := some { t := s.stamp - 1000, meas := 0, sp := 0, ff := 0, stale := stale }, wasMan := decide (man = 1) }
theorem test_w_ServoLoops_evaluate :
    ((eval7 false 0 0).loop 7).sel.isSome = true ∧
    ([eval7 false 0 0, eval7 true 0 1, eval7 false 1 0].all fun s =>
      still s && servoTurn s 7 (s.stamp - 1000) && ! injects s 7 && decide (Bfv.mant (BitVec.ofNat 32 (s.fld SRV_LP_RATE.RMAX 7)) = 0) &&
      ! childManual s 7 && decide (kindOf (s.reg .SRV_LP_SPB 7) ≠ 5) && decide (s.fld SRV_LP_CTL.FFM 7 ≠ 1) &&
      decide (s.fld SRV_LP_CTL.AW 7 = 0) && ! (s.loop 7).preset) = true ∧ ((eval7 false 1 0).loop 7).wasMan = true ∧
    [(eval7 false 0 0).bit SRV_LP_MODE.MODE 7, (eval7 false 1 0).bit SRV_LP_MODE.MODE 7] = [false, true] ∧
    [(eval7 true 0 1).fld SRV_LP_CTL.STALEPOL 7, (eval7 false 0 0).fld SRV_LP_CTL.STALEPOL 7] = [1, 0] := by decide +kernel

/-- The writes that commit a stage, start and stop an injection and a capture; a capture that has ended. -/
theorem test_w_ServoLoops_writes :
    taken (sV7 5000 [] false) 0xA000 .SRV_LP_COEF2 63 5 = true ∧
    (let s := put s0 [(SRV_SPI.EN, 2, 1)]; still s = true ∧ s.bit SRV_SPI.EN 2 = true ∧ s0.bit SRV_SPI.EN 2 = false) ∧
    taken s0 0xA000 .SRV_INJ_CTL 0 (putBits 0 1 0 1) = true ∧ s0.bit SRV_INJ_CTL.BUSY 0 = false ∧
    taken s0 0xA000 .SRV_INJ_CTL 0 (kept s0 .SRV_INJ_CTL 0 ||| 2) = true ∧
    taken s0 0xA000 .SRV_CAP_CTL 0 (putBits 0 1 0 1) = true ∧ s0.bit SRV_CAP_CTL.BUSY 0 = false ∧
    taken s0 0xA000 .SRV_CAP_CTL 0 (kept s0 .SRV_CAP_CTL 0 ||| 2) = true ∧
    (let s := { put s0 [(SRV_CAP_CTL.BUSY, 0, 1)] with cap := { ended := true, t0 := 77 } }
     still s = true ∧ s.bit SRV_CAP_CTL.BUSY 0 = true ∧ s.cap.ended = true ∧ s.cap.t0 < 2 ^ 32) := by decide +kernel

/-! ### Dvoril, page walkers and edge engines -/

/-- The words of a bulk frame without its link fields. -/
def bulkW (a len : Nat) : List Word :=
  ([2 * 2 ^ 2 + len * 2 ^ 8 + 5 * 2 ^ 16 + a % 256 * 2 ^ 56, a / 256 + 2 * 2 ^ 32] ++ List.replicate 28 100).map w64
/-- Port 1 training, and UP with its partner at index 1. -/
def dvTrain : State :=
  put (atTime s0 1 500000) [(DVL_GRP.GID, 0, 7), (DVL_GRP.SIZE, 0, 2), (DVL_CTL.EN, 1, 1), (DVL_RXWIN0.BASE, 1, 0x4000000000),
    (DVL_RXWIN1.LIMIT, 1, 0x4000000FFF), (DVL_STAT.STATE, 1, 1)]
def dvUp1 : State := after (execDvorilLinkUp 1 ⟨7, 1, 0x4000000000, 0x400000FFFF, 0, false⟩) dvTrain
def dvTx : DvTx := { vc := 0, words := bulkW 0x4000000200 24, send := some 1, last := true }
def dvQueued (n r : Nat) : State :=
  let d := dvUp1.dv 1
  dvUp1.setDv 1 (if n = 0 then { d with queue := [dvTx] } else { d with replay := [(3, dvTx)], resends := r })
/-- A frame of the partner: 24 bytes at 0x4000000100 with link number 0, its CRC by IEEE 802.3 (zlib's value). -/
def dvWords (a : Nat) (crc : Nat) : List Word := (bulkW a 24) ++ [0, w64 (crc * 2 ^ 32)]
def dvGood : DvFrame := ⟨3, dvWords 0x4000000100 0x26E1460C⟩

theorem test_w_DvorilLinks_up :
    still dvTrain = true ∧ dvTrain.fld DVL_STAT.STATE 1 = 1 ∧ dvTrain.fld DVL_GRP.GID 0 = 7 ∧ dvTrain.fld DVL_GRP.IDX 0 = 0 ∧
    dvTrain.fld DVL_GRP.SIZE 0 = 2 ∧ dvTrain.bit DET_LS.EN 0 = false ∧ still dvUp1 = true ∧ dvUp1.fld DVL_STAT.STATE 1 = 2 := by
  decide +kernel

/-- A frame to send; one sent that is to be sent again, for the first and for the eighth time. -/
theorem test_w_DvorilLinks_send :
    (still (dvQueued 0 0) = true ∧ ((dvQueued 0 0).dv 1).replay.length < 64 ∧
      (nextFrame ((dvQueued 0 0).dv 1)).isSome = true) ∧
    (still (dvQueued 1 0) = true ∧ ((dvQueued 1 0).dv 1).replay ≠ [] ∧ ((dvQueued 1 0).dv 1).resends + 1 ≠ 8) ∧
    (still (dvQueued 1 7) = true ∧ ((dvQueued 1 7).dv 1).replay ≠ [] ∧ ((dvQueued 1 7).dv 1).resends + 1 = 8) := by
  decide +kernel

/-- The frame's bytes in six parts, and the CRC after each. -/
def dvHead : List Byte := leBytes 8 0x51808 ++ leBytes 8 0x240000001
def dvSeven : List Byte := (List.replicate 7 100).flatMap (leBytes 8)
def dvTail : List Byte := List.replicate 12 0
theorem dv_parts : (dvGood.words.flatMap fun w => leBytes 8 w.toNat).take 252 =
    dvHead ++ (dvSeven ++ (dvSeven ++ (dvSeven ++ (dvSeven ++ dvTail)))) := by decide +kernel
theorem dv_crc0 : (dvHead).foldl crcByte 0xFFFFFFFF = 0x514F861C := by decide +kernel
theorem dv_crc1 : (dvSeven).foldl crcByte 0x514F861C = 0x2CE81448 := by decide +kernel
theorem dv_crc2 : (dvSeven).foldl crcByte 0x2CE81448 = 0x929B127B := by decide +kernel
theorem dv_crc3 : (dvSeven).foldl crcByte 0x929B127B = 0x245D0EDD := by decide +kernel
theorem dv_crc4 : (dvSeven).foldl crcByte 0x245D0EDD = 0x9397982F := by decide +kernel
theorem dv_crc5 : (dvTail).foldl crcByte 0x9397982F = 0xD91EB9F3 := by decide +kernel
theorem test_w_DvorilLinks_crc : dvCrcOk dvGood.words = true := by
  unfold dvCrcOk crc32
  rw [dv_parts]
  simp only [List.foldl_append]
  rw [show BitVec.allOnes 32 = 0xFFFFFFFF from rfl, dv_crc0, dv_crc1, dv_crc2, dv_crc3, dv_crc4, dv_crc5]
  decide +kernel

/-- Frames in order and not, within the window and outside; one that has landed; a send that is acknowledged. -/
theorem test_w_DvorilLinks_receive :
    (let d := dvUp1.dv 1
     dvGood.wellFormed = true ∧ dvLseq dvGood.words = (d.gotSeq + 1) % 65536 ∧ dvVc dvGood.words = 0 ∧
     inWindow dvUp1 d dvGood.words = true ∧ inWindow dvUp1 d (dvWords 0x4000001100 0) = false ∧
     dvLseq dvGood.words ≠ (9 + 1) % 65536) ∧
    (let s := dvUp1.setDv 1 { dvUp1.dv 1 with landing := [(0, { dvTx with words := dvGood.words })] }
     still s = true ∧ (s.dv 1).landing.length = 1) ∧
    (let s := dvUp1.setDv 1 { dvUp1.dv 1 with sends := [(5, ⟨.ring 0, [1, 2, 3]⟩, 1, 1)], acked := [(5, 1)], freed0 := 1 }
     still s = true ∧ (s.dv 1).sends.length = 1 ∧ (s.dv 1).sendLanded 5 = true) := by decide +kernel

/-- A verb of engine 35 with its only sequence stalled at cluster 2's walker. -/
def sWalk : State :=
  let q : AttnSeq := { idx := 0, begun := true, stalled := true }
  let v : Verb := { kind := .attn false, seq := 0, ctl := 0, nidx := [], nouns := [], fmode := 0, srseed := 0, seqs := [q] }
  put { coreIn s0 (engine 35) (fun k => { k with slots := [(0, some v)] }) with stalls := [(2, [(35, 0, 0)])] }
    [(CST_PW_STAT.STALLED, 2, 1)]
theorem test_w_WalkersAndEdgeEngines_stalls :
    still sWalk = true ∧ stallsOf sWalk 2 = [(35, 0, 0)] ∧ 35 / 16 = 2 ∧
    ((sWalk.core (engine 35)).slot 0).map (fun w => w.seqs.map fun q => (q.idx, q.stalled, q.ended)) = some [(0, true, false)] ∧
    [1, 2, 4].map (fun v => taken sWalk 0xA000 .CST_PW_CTL 2 (w64 v)) = [true, true, true] := by decide +kernel

/-- An edge job over a 2 by 2 image with a kernel of ones, as an entry of both rings and as the diverse job; bad sets a
reserved bit. -/
def edgeWords (bad : Nat) : List Nat :=
  [bad * 2 ^ 9, 0, 0, 0, 0, 64 * 2 ^ 21, 0, 0] ++ nounWords 0x4000001000 6 [2, 2, 2] [0, 2, 4] ++
    nounWords 0x4000002000 6 [2, 2, 2] [0, 2, 4]
/-- Its entry of engine x's ring, with the words as the ring holds them. -/
def ringJob (bad : Nat) : EdgeJob := { idx := some 0, words := (edgeWords bad).map w64 }
def divJob : EdgeJob := { idx := none, words := (edgeWords 0).map w64 }
def sEdge (bad : Nat) : State :=
  put (words s0 (edgeEntry 0 0) (edgeWords bad)) [(EDG_RING.STATE, 0, 0), (EDG_RING.TAIL, 0, 2)]
def sDiv : State :=
  (upFrom 0 24).foldl (fun s i => s.setReg .DRD_DIVJ i (w64 ((edgeWords 0).getD i 0))) (put s0 [(DRD_DIV_CTL.BUSY, 0, 1)])

/-- Where one kernel width and one height alone give the output, the free choice is that kernel. -/
theorem edgeShape_one {s : State} {x : Nat} {j : EdgeJob}
    (hw : edgeKernels x (j.inN.e 1) j.geom.pl j.geom.pr j.geom.sx (j.outN.e 1) = [1])
    (hh : edgeKernels x (j.inN.e 2) j.geom.pt j.geom.pb j.geom.sy (j.outN.e 2) = [1]) : edgeShape s x j = some (1, 1) := by
  unfold edgeShape
  simp only [hw, hh, List.length_cons, List.length_nil, Nat.zero_add, Nat.mod_one]
  rfl

theorem ring_shape : edgeShape (sEdge 0) 0 (ringJob 0) = some (1, 1) :=
  edgeShape_one (by decide +kernel) (by decide +kernel)
theorem div_shape : edgeShape sDiv 1 divJob = some (1, 1) := edgeShape_one (by decide +kernel) (by decide +kernel)

/-- Entries to take: a sound one, one with a reserved bit set, and the diverse job. -/
theorem test_w_WalkersAndEdgeEngines_take :
    ([0, 1].all fun bad =>
      let s := sEdge bad
      still s && (s.edgeJob 0).isNone && decide (s.fld EDG_RING.STATE 0 = 0) && decide (s.fld EDG_RING.HEAD 0 ≠ s.fld EDG_RING.TAIL 0) &&
        decide (s.words (edgeEntry 0 0) 24 = (ringJob bad).words)) = true ∧
    edgeReason (sEdge 1) 0 true (ringJob 1) = some 1 ∧
    still sDiv = true ∧ sDiv.edgeJob 1 = none ∧ sDiv.bit DRD_DIV_CTL.BUSY 0 = true ∧
    ((upFrom 0 24).map fun i => sDiv.reg .DRD_DIVJ i) = divJob.words ∧
    taken (sEdge 0) 0xA000 .EDG_RING 0 5 = true ∧ taken s0 0xA000 .DRD_DIV_CTL 0 1 = true := by decide +kernel
theorem test_w_WalkersAndEdgeEngines_sound :
    edgeReason (sEdge 0) 0 true (ringJob 0) = none ∧ edgeReason sDiv 1 true divJob = none := by
  constructor
  · unfold edgeReason; rw [ring_shape]; decide +kernel
  · unfold edgeReason; rw [div_shape]; decide +kernel

/-- A job in progress, from the ring and from the register. -/
theorem test_w_WalkersAndEdgeEngines_complete :
    [(s0.setEdgeJob 0 (some { ringJob 0 with taken := true }), 0), (s0.setEdgeJob 1 (some { divJob with taken := true }), 1)].map
      (fun (y : State × Nat) => (still y.1 && y.1.pend.isEmpty, (y.1.edgeJob y.2).map fun k => (k.taken, k.idx,
        (edgeRun y.1.begin y.2 k).1.all fun b => plainB y.1 b.1 1))) =
      [(true, some (true, some 0, true)), (true, some (true, none, true))] := by decide +kernel

/-! ### Intake and the Forebay -/

/-- Channel 5 with rows of 16 bytes, n rows, and its packets. -/
def sI (h : Nat) : State :=
  put (atTime s0 1 500000) [(ING_CH_CTL.DT, 5, 0x2A), (ING_CH_GEOM.W0, 5, 16), (ING_CH_GEOM.H0, 5, h), (ING_CH_GEOM.BSTRIDE, 5, 256),
    (ING_CH_CTL.NLVL, 5, 1), (ING_CH_CTL.STRIPE, 5, 1), (ING_CH_CTL.NB, 5, 1), (ING_CH_BASE.BASE, 5, 0x4000000000),
    (ING_CH_PTR.STATE, 5, 0), (ING_CH_CTL.EN, 5, 1), (ING_CH_LINK.LOCK, 5, 1), (ING_CH_CTL.PIPE, 5, 2)]
def rowPkt (n : Nat) : CsiPacket := ⟨0, 0x2A, .clean, true, (upFrom 3 n).map (BitVec.ofNat 8)⟩
def opened : State := after (execCsi2FrameStart 5 0 7 .clean) (sI 16)
/-- A frame whose rows have all come, and has ended; that has passed its pipe. -/
def framed (rows : Nat) : State :=
  after (execCsi2FrameEnd 5 0 .clean)
    (opened.setChan 5 { opened.chan 5 with frames := (opened.chan 5).frames.map fun f =>
      { f with rows := List.replicate rows (unpackRow 0x2A (rowPkt 16).bytes) } })

theorem test_w_CameraFrames_open :
    still (sI 16) = true ∧ hears (sI 16) 5 = true ∧ (openFrame (sI 16) 5).isNone = true ∧ (sI 16).fld ING_CH_PTR.STATE 5 = 0 ∧
    ((sI 16).chan 5).frames.length = 0 ∧ 0 < setCount (sI 16) 5 ∧
    (let s := put (sI 16) [(ING_CH_PTR.WR, 5, 2)]; still s = true ∧ setCount s 5 ≤ 2) ∧
    (sI 16).bit ING_CH_LINK.LOCK 5 = true := by decide +kernel

/-- Rows of the right and of another length for an open frame. -/
theorem test_w_CameraFrames_row :
    still opened = true ∧ hears opened 5 = true ∧ (openFrame opened 5).map (fun f => (f.rows.length, rowBusy opened 5 f 0)) = some (0, false) ∧
    (rowPkt 16).wellFormed = true ∧ (rowPkt 16).bytes.length = rowBytes 0x2A 16 ∧ (rowPkt 17).bytes.length ≠ rowBytes 0x2A 16 ∧
    opened.fld ING_CH_CTL.DT 5 = 0x2A ∧ opened.fld ING_CH_CTL.VC 5 = 0 ∧ opened.fld ING_CH_GEOM.H0 5 = 16 := by decide +kernel

/-- A stripe that can be processed, and a frame that can be delivered. -/
theorem test_w_CameraFrames_deliver :
    still (framed 16) = true ∧
    (pipeNext (framed 16) 2).map (fun x => (x.1, x.2.1)) = some (5, 0) ∧
    ((framed 16).chan 5).frames.map (fun f => (f.fe.isSome, f.zeros.isEmpty)) = [(true, true)] ∧
    (let s := (framed 16).setChan 5 { (framed 16).chan 5 with frames := ((framed 16).chan 5).frames.map fun f => { f with done := f.ready.length } }
     still s = true ∧ s.fld ING_CH_PTR.STATE 5 ≠ 2 ∧
     (s.chan 5).frames.map (fun f => (f.fe.isSome, decide (f.ready.length ≤ f.done))) = [(true, true)] ∧
     s.within .cistern (setAddr s 5 0) 128 = true) := by decide +kernel

/-- Power over coax; a steering copy of two boxes, of none. -/
theorem test_w_CameraFrames_steer :
    (let s := put (sI 16) [(ING_CH_CTL.POC, 5, 1), (ING_CH_LINK.POCST, 5, 1)]
     still s = true ∧ s.bit ING_CH_CTL.POC 5 = true ∧ s.fld ING_CH_LINK.POCST 5 = 1 ∧ s.fld ING_CH_LINK.POCST 5 ≠ 3) ∧
    (sI 16).bit ING_STEER.BUSY 5 = false ∧ taken (sI 16) 0xA000 .ING_STEER 5 (w64 (cis + 2 * 2 ^ 40) ||| bit64 48) = true ∧
    ([2, 0].map fun n => ((after (execSteerGo 0xA000 5 (w64 (cis + n * 2 ^ 40))) (sI 16)).chan 5).steer) =
      [some (cis, 2), some (cis, 0)] ∧ cis % 16 = 0 ∧ s0.within .cistern cis 32 = true := by decide +kernel

/-- The Forebay with a descriptor of two raw samples at cis; after its push, with one sample ended, with both. -/
def sFb : State :=
  words (words (words (put (atTime s0 1 500000) [(ING_FB_CTL.STATE, 0, 0), (ING_FB_BASE.BASE, 0, 0x4001000000), (ING_FB_BASE.SLOTSZ, 0, 4),
    (ING_FB_CTL.FLOOR, 0, 10), (ING_FB_CTL.BMUL, 0, 8)]) cis [2, cis + 0x1000, 5 + 2 ^ 32, cis + 0x1000, 0, 256, 0, 0])
    (cis + 0x1000) [cis + 0x2000, 32, cis + 0x2000, 32]) (cis + 0x2000) [1, 2, 3, 4]
def fbPushed : State := after (execForebayPush 0xA000 (w64 cis)) sFb
def fbIn (st : Nat) : State :=
  { sFb with fb := { sFb.fb with slots := [(0, { state := st })], order := if st = 3 then [] else [0] } }

theorem test_w_ForebayBatches_push :
    still sFb = true ∧ taken sFb 0xA000 .ING_FB_CMD 0 (putBits (w64 cis) 46 45 1) = true ∧ sFb.fld ING_FB_CTL.STATE 0 = 0 ∧
    (upFrom 0 32).find? (fun m => decide ((sFb.fbSlot m).state = 0)) = some 0 ∧ batchBad sFb 0 cis (sFb.words cis 8) = false ∧
    batchBad sFb 0 (cis + 4) (sFb.words (cis + 4) 8) = true ∧ plainB sFb (slotBase sFb 0) 64 = true ∧
    taken sFb 0xA000 .ING_FB_CMD 0 (putBits (w64 (cis + 4)) 46 45 1) = true := by decide +kernel

theorem test_w_ForebayBatches_samples :
    still fbPushed = true ∧ pipeIdle fbPushed = true ∧ sampleOpen fbPushed 0 0 = true ∧ batchNs fbPushed 0 = 2 ∧ fbStrict fbPushed = false ∧
    5 < fbBudget fbPushed 0 0 ∧ (fbPushed.fbSlot 0).state = 1 ∧ (fbWord fbPushed 0 2).getLsbD 32 = true ∧
    fbPushed.reached (bitsOf (fbWord fbPushed 0 2) 31 0) = true ∧
    plainB fbPushed (slotBase fbPushed 0) (512 + 2 * bitsOf (fbWord fbPushed 0 5) 31 0) = true := by decide +kernel

theorem test_w_ForebayBatches_take :
    still (fbIn 2) = true ∧ (fbIn 2).fb.order = [0] ∧ ((fbIn 2).fbSlot 0).state = 2 ∧ sFb.fb.order = [] ∧
    still (fbIn 1) = true ∧ (fbIn 1).fb.order = [0] ∧ ((fbIn 1).fbSlot 0).state ≠ 2 ∧ still (fbIn 3) = true ∧
    ((fbIn 3).fbSlot 0).state = 3 ∧ taken (fbIn 3) 0xA000 .ING_FB_CMD 0 (putBits 0 46 45 2) = true ∧ bitsOf (0 : Word) 44 40 = 0 := by
  decide +kernel

/-! ### The journal, strict mode and lock-step -/

/-- The journal recording into a ring in HBM, with held inputs and lost ones. -/
def sJ (st mode rd : Nat) (held : List JIn) (lost : Nat) : State :=
  let s := put (atTime s0 1 500000) [(JNL_CTL.STATE, 0, st), (JNL_CTL.EN, 0, 1), (JNL_CTL.MODE, 0, mode), (JNL_RING.BASE, 0, 0x100000000),
    (JNL_RING.SIZE, 0, 1), (JNL_STG.BASE, 0, 0x4000400000), (JNL_STG.SIZE, 0, 1), (JNL_PTR_RD.RD, 0, rd)]
  { s with jnl := { s.jnl with held := held, lost := lost } }
def jin (s : State) (ago n : Nat) : JIn := { kind := 3, src := 0x7001, stamp := s.stamp - ago, delta := 0, payload := List.replicate n 5 }
def sHeld (rd : Nat) : State :=
  let s := sJ 0 0 rd [] 0
  { s with jnl := { s.jnl with held := [jin s 30000 24, jin s 40000 8] } }
/-- Bytes of a record that fits the ring or does not. -/
def fitsB (s : State) : Option Bool := (nextInput s).map fun x => ringFits s (recordBytes s x.1 x.2 s.jnl.seq).length

theorem test_w_JournalAndReplay_write :
    still (sHeld 0) = true ∧ (sHeld 0).jnl.out = [] ∧ (sHeld 0).fld JNL_CTL.STATE 0 ≠ 2 ∧ fitsB (sHeld 0) = some true ∧
    still (sHeld 64) = true ∧ fitsB (sHeld 64) = some false ∧
    (let s := sJ 1 0 0 [] 0
     still s = true ∧ s.fld JNL_CTL.STATE 0 = 1 ∧ s.jnl.held = [] ∧ s.jnl.sealed = false ∧ s.bit JNL_CTL.MODE 0 = false ∧
     ringFits s (recordBytes s (sealRecord s) false s.jnl.seq).length = true) ∧
    (let s := sJ 0 0 0 [] 3
     still s = true ∧ s.jnl.lost ≠ 0 ∧ ringFits s 64 = true) := by decide +kernel

/-- A record being copied whose last piece has been performed, and one with more to copy. -/
def sLand (piece : Nat) : State :=
  let s := sJ 0 0 0 [] 0
  { s with jnl := { s.jnl with out := [{ bytes := List.replicate 64 1, off := 0, seq := some 5, piece := piece, tag := some 7 }] },
           unitDone := [(jnlSrc, 7, 1)] }
theorem test_w_JournalAndReplay_landed :
    ([64, 32].all fun p =>
      let s := sLand p
      still s && doneOf s 7 == some 1 && ! s.bit JNL_CTL.STREAM 0 && decide (s.jnl.out.length = 1) && s.jnl.out.all fun o =>
        ! o.rows && o.tag == some 7 && o.host.isNone && o.seq == some 5 && ! o.isSeal &&
          (decide (o.bytes.length ≤ o.staged + o.piece) == decide (p = 64))) = true := by decide +kernel

/-- Marks, feeds, strict mode; a feed whose copies are done. -/
theorem test_w_JournalAndReplay_feed :
    taken (sHeld 0) 0xA000 .JNL_MARK 0 5 = true ∧ recording (sHeld 0) = true ∧ taken s0 0xA000 .DET_CTL 0 1 = true ∧
    (let s := sJ 0 1 0 [] 0
     still s = true ∧ taken s 0xA000 .JNL_FEED 0 64 = true ∧ s.bit JNL_CTL.MODE 0 = true ∧ bitsOf (64 : Word) 31 0 ≠ 0) ∧
    (let s := { sJ 0 1 0 [] 0 with unitDone := [(jnlSrc, 7, 1)] }
     let s := { s with jnl := { s.jnl with feed := some (64, [7]) } }
     still s = true ∧ s.jnl.feed = some (64, [7]) ∧ (doneOf s 7).isSome = true) := by decide +kernel

/-- Records at the ring's start: kind, flags, length and the nanosecond they are due. -/
def sRec (kind fl len due : Nat) : State :=
  words (put (sJ 0 1 0 [] 0) [(DET_STAT.REPLAYING, 0, 1), (JNL_PTR_WR.WR, 0, 0x1000)]) 0x100000000
    ([kind + fl + 0x6000 * 2 ^ 16 + len * 2 ^ 32, 77, 1, due] ++ List.replicate (len / 8) 2)
/-- Zero header, kind, due time reached, still. -/
def recB (s : State) : Bool × Nat × Bool × Bool :=
  let w := fun i => w64 (leNat (((replayBytes s 32).drop (8 * i)).take 8))
  (decide (w 0 = 0), bitsOf (w 0) 7 0,
   decide (bitsOf (w 2) 47 0 * 1000000000 + bitsOf (w 3) 29 0 + bitsOf (w 3) 63 32 ≤ s.totalNs),
   still s && replaying s && decide (jnlRd s ≠ jnlWr s))
theorem test_w_JournalAndReplay_present :
    recB (put (sRec 5 0 16 5) [(JNL_PTR_RD.RD, 0, 0x40)]) = (true, 0, true, true) ∧
    recB (sRec 5 0 16 600000) = (false, 5, false, true) ∧ recB (sRec 5 0 16 500000) = (false, 5, true, true) ∧
    recB (sRec 9 0 8 5) = (false, 9, true, true) ∧ recB (sRec 1 2048 8 5) = (false, 1, true, true) ∧
    [2, 3, 4, 7, 8, 10, 11, 16].all (fun k => recB (sRec k 0 16 5) == (false, k, true, true)) = true := by decide +kernel

/-- The comparison enabled at the end of epoch 0: with frames that have their codes, with a digest kept. -/
def sLs (code : Option Nat) (own partner : List (Nat × List Byte)) (act dv : Nat) : State :=
  let s := atTime s0 1 500000
  let s := put s [(DET_LS.EN, 0, 1), (DET_LS.EPER, 0, 100000), (DET_LS_START.START, 0, s.stamp - 450000), (DVL_STAT.STATE, 1, dv),
    (DET_LS.ACTIVE, 0, act)]
  { s with ls := { s.ls with frames := [{ stamp := s.stamp - 420000, src := 0x7001, mbx := 3, code := code, payload := [1, 2] }],
                             own := own, partner := partner } }
def dig : List Byte := List.replicate 32 7
theorem test_w_LockstepComparison :
    (let s := sLs (some 2) [] [] 0 2
     still s = true ∧ s.bit DET_LS.EN 0 = true ∧ s.ls.epoch = 0 ∧ s.reached (epochStart s 1) = true ∧
     s.ls.frames.map (fun f => (inEpoch s 0 f, f.code.isSome)) = [(true, true)] ∧ dvUp s 1 = true ∧ s.ls.partner = []) ∧
    (let s := sLs (some 2) [(1, dig)] [] 1 2
     still s = true ∧ s.bit DET_LS.ACTIVE 0 = true ∧ dig.length = 32 ∧ dvUp s 1 = true ∧
     s.ls.own.find? (fun x => x.1 == 1) = some (1, dig) ∧ s.reached (epochStart s 2) = true ∧ s.reached (epochStart s 4) = true) ∧
    (let s := sLs (some 2) [(1, dig)] [] 1 0
     still s = true ∧ s.reached (epochStart s 4) = true ∧ dvUp s 1 = false) := by decide +kernel

/-! ### Time, clocks and power -/

/-- Something pending and nothing; increments at both ends of the range, one beyond each. -/
theorem test_w_TimebaseSteps :
    (let s := { atTime s0 1 500 with tbPend := { load := some 5, adj := [-3, 7] } }; still s = true ∧ stepDue s = true) ∧
    still (atTime s0 1 500) = true ∧ stepDue (atTime s0 1 500) = false ∧
    [0x0200000000, 0x02FFFFFFFF].all (fun v => taken s0 0xA000 .TB_INC 0 v) = true ∧
    mayWrite s0 0xA000 .TB_INC = true ∧ regWaits s0 0xA000 .TB_INC 0 0x0300000000 = false ∧
    bitsOf (0x01FFFFFFFF : Word) 39 0 < 0x0200000000 ∧ 0x02FFFFFFFF < bitsOf (0x0300000000 : Word) 39 0 ∧
    taken s0 0xA000 .TB_ADJ 0 (5 ||| bit64 63) = true ∧ taken s0 0xA000 .TB_LOADSEC 0 (5 ||| bit64 63) = true := by
  decide +kernel

/-- Engine 3 and lane 3, ready; a cluster's island at its floor or not; what the Watermaster measures. -/
def sW : State :=
  regs (put (atTime (laneOn s0) 1 500000) [(WTM_CTL.CAP, 0, 150), (WTM_CTL.EVQ, 0, 2)]) (engine 3) [(1, 5), (2, 7)]

theorem test_w_IslandClocksAndPower_gates :
    let k := sW.core (.eng 3)
    let h := handleKey (handleOfEngine 3 (k.readG 1).v)
    still sW = true ∧ ready sW (.eng 3) = true ∧ handleOkEngine (k.readG 1).v false = true ∧ bitsOf (k.readG 1).v 11 10 ≠ 1 ∧
    (k.readG 1).p = false ∧ sW.waiters h = [] ∧ (k.readG 2).v.toNat < 2 ^ 31 ∧
    gateValue (gateWord sW h) < (k.readG 2).v.toNat ∧ ready sW (.lane 3) = true ∧ (sW.lane 3).prob = none ∧
    (sW.lane 3).fifo = [] := by decide +kernel

/-- A limit below the clock; room for a step up; a decided step; a loan to be recalled. -/
theorem test_w_IslandClocksAndPower_steps :
    isAdjustable 1 = true ∧ isAdjustable 33 = false ∧
    (let s := put sW [(WTM_ISL.NOW, 1, 40), (WTM_ISL.FREQ, 1, 30)]; still s = true ∧ clockLimit s 1 < s.fld WTM_ISL.NOW 1) ∧
    (sW.fld WTM_ISL.NOW 1 ≤ clockLimit sW 1 ∧ 0 ≤ islandBudget sW 1) ∧
    (let s := { sW with wtm := { sW.wtm with want := [(1, some false)] } }
     still s = true ∧ tget (fun _ => none) s.wtm.want 1 = some false ∧ (stepBelow 1 (s.fld WTM_ISL.NOW 1)).isSome = true) ∧
    (let s := { put sW [(WTM_ISL.LENT, 1, 50), (WTM_ISL.BORROW, 30, 50)] with wtm := { sW.wtm with loans := [⟨1, 30, 50⟩] } }
     still s = true ∧ s.wtm.loans.filter (fun x => x.lender == 1) = [⟨1, 30, 50⟩]) := by decide +kernel

/-- Powers at and above each limit; temperatures at and about each threshold; pins. -/
theorem test_w_IslandClocksAndPower_inputs :
    (List.replicate 36 0).length = 36 ∧ 150000 ≤ 1000 * sW.fld WTM_CTL.CAP 0 ∧ 1000 * sW.fld WTM_CTL.CAP 0 < 150001 ∧
    sW.wtm.capOver = false ∧ sW.wtm.inpOver = false ∧ sW.wtm.crit = false ∧ sW.wtm.hot = [] ∧
    (sW.fld WTM_THERM.THR 0 < 120 ∧ sW.fld WTM_THERM.CRIT 0 < 120 ∧ sW.fld WTM_THERM.THR 0 < sW.fld WTM_THERM.CRIT 0) ∧
    (let s := { put sW [(WTM_THERM.THROT, 0, 1)] with wtm := { sW.wtm with hot := [0] } }; still s = true ∧ s.wtm.hot = [dieNum .die0]) ∧
    plateIn sW.part 200 = false ∧ sW.wtm.plateOver = false ∧ sW.bit WTM_GPIO_CFG.IN 5 = false ∧
    tget (fun _ => none) sW.wtm.edges 5 = none ∧
    (let s := { sW with wtm := { sW.wtm with edges := [(5, some (sW.stamp - 99))] } }
     still s = true ∧ (s.stamp + 2 ^ 32 - (sW.stamp - 99)) % 2 ^ 32 < 100) ∧
    (let s := put sW [(WTM_GPIO_CFG.EDGE, 5, 3), (WTM_GPIO_CFG.MODE, 5, 1), (WTM_GPIO_CFG.IN, 5, 1)]
     still s = true ∧ s.fld WTM_GPIO_CFG.MODE 5 = 1 ∧ s.bit WTM_GPIO_CFG.IN 5 ≠ s.bit WTM_GPIO_CFG.OUT 5) ∧
    sW.fld WTM_GPIO_CFG.MODE 5 ≠ 1 := by decide +kernel

/-! ### Host interface and security -/

/-- READY, the four windows B open on cis, whose second word is poisoned where asked. -/
def sH (poisoned : Bool) : State :=
  let s := words (put (atTime s0 1 500000) ([(SEC_BOOT.READY, 0, 1)] ++ (upFrom 0 4).flatMap fun f =>
    [(HST_WINB.EN, f, 1), (HST_WINB.BASE, f, cis)])) cis [1, 2, 3, 4, 5]
  if poisoned then poison s (cis + 8) 8 else s

theorem test_w_HostInterface_windows :
    still (sH false) = true ∧ (sH false).fld HST_WINB.BASE 0 + 5 = cis + 5 ∧ (sH false).bit HST_WINB.EN 0 = true ∧
    (sH false).bit SEC_BOOT.READY 0 = true ∧ windowBRegion ((sH false).region cis) = true ∧
    windowBRegion ((sH false).region (cis + 4095)) = true ∧ replaying (sH false) = false ∧ plainB (sH false) (cis + 5) 512 = true ∧
    ((sH false).begin.view 2).firstPoison cis 24 = none ∧ still (sH true) = true ∧
    (((sH true).begin.view 2).firstPoison cis 24).isSome = true ∧ s0.bit SEC_BOOT.READY 0 = false ∧
    ¬ 2 ^ 34 + 1 ≤ 2 ^ 34 ∧ windowAReaches (sH false) 0 = true ∧ windowAReaches (sH false) (2 ^ 39) = false ∧
    recording (sH false) = false := by decide +kernel

/-- Ring 3 of function 0 with a gate; tails ahead, at and behind; interrupt vectors sent and pending. -/
def sRings (en : Nat) : State :=
  put (sH false) [(HST_RING0.EN, 3, en), (HST_RING0.SIZE, 3, 4), (HST_RING1.HEAD, 3, 2), (HST_RING1.TAIL, 3, 5), (HST_RING2.GEN, 3, 1),
    (HST_RING2.GATE, 3, 5)]
theorem test_w_HostInterface_rings :
    let past := fun x => (x + 65536 * 2 ^ 4 - 2) % 2 ^ 4
    still (sRings 1) = true ∧ still (sRings 0) = true ∧ (sRings 1).bit SEC_BOOT.READY 0 = true ∧ ringFn 3 = 0 ∧ ringFn 16 ≠ 0 ∧
    past 4 < past 5 ∧ past 5 ≤ past 5 ∧ past 5 ≤ past 9 ∧ (sRings 1).bit HST_RING0.EN 3 = true ∧ (sRings 0).bit HST_RING0.EN 3 = false ∧
    (sRings 1).bit HST_RING2.GEN 3 = true ∧ handleOkUnit (w64 ((sRings 1).fld HST_RING2.GATE 3)) false = true ∧
    keyIsolated (sRings 1) (handleKey (w64 ((sRings 1).fld HST_RING2.GATE 3))) = false ∧
    (sRings 1).waiters (handleKey (w64 ((sRings 1).fld HST_RING2.GATE 3))) = [] := by decide +kernel

theorem test_w_HostInterface_vectors :
    (let s := { sH false with msix := [(5, { pend := true, masked := true })], fns := [(0, ⟨true, true⟩)] }
     still s = true ∧ taken s 0xA000 .HST_IRQ 0 5 = true ∧ (5 : Nat) < (fnVectors 0).2 ∧ (fnVectors 0).2 ≤ 255 ∧
     (tget (fun _ => ({} : MsixEntry)) s.msix 5).pend = true ∧ (tget (fun _ => ({} : FnSt)) s.fns 0).msix = true) ∧
    (let r := RegName.CST_CLEVQ.addr 3
     regAt r = some (.CST_CLEVQ, 3) ∧ isControlAddr r = true ∧ ctlAligned r 8 = true ∧
     readActs s0 0xA000 .CST_CLEVQ 3 true = none) ∧ taken s0 0xA000 .DBG_MARK 0 5 = true := by decide +kernel

/-- A change-log line that is under way, performed or refused. -/
theorem test_w_HostInterface_log :
    ([1, 3].all fun (code : Nat) =>
      let s : State := { s0 with clog := { s0.clog with line := 4, staged := (upFrom 0 5).map fun i => ⟨i, [1, 2, 3, 4]⟩, tag := 1 },
                                 unitDone := [(0xE003, 0, code)] }
      still s && s.clog.line != 0 && s.unitDone.find? (fun d => d.1 == 0xE003 && d.2.1 == s.clog.tag - 1) == some (0xE003, 0, code)) = true ∧
    (s0.unitDone.find? fun d => d.1 == 0xE003 && d.2.1 == s0.clog.tag - 1) = none := by decide +kernel

/-- Key slot 2 loaded; a descriptor on the ring at cis that is sound, or of a length that is not a multiple of 128. -/
def sAes (len : Nat) : State :=
  let s := words (put (atTime s0 1 500000) [(SEC_AES_RING.BASE, 0, cis), (SEC_AES_STG.BASE, 0, 0x4000400000)]) cis
    [0x1000, 0x2000, len, 2, 0x123456789, 0x55, 0, 0]
  { s with sec := { s.sec with keyed := [2] } }
def aesEntryJob (s : State) : AesJob :=
  { idx := 0, words := s.words cis 8, key := (upFrom 8 4).map (tget (fun _ => 0) s.sec.keys) }
def aesPostWord : Word := w64 (cis + 2 ^ 40 + 2 ^ 56)

theorem test_w_SecurityUnits_aes :
    still (sAes 128) = true ∧ taken (sAes 128) 0xA000 .SEC_AES_RING 0 aesPostWord = true ∧ aesPostWord.getLsbD 57 = false ∧
    aesPostWord.getLsbD 56 = true ∧ (sAes 128).sec.aes = none ∧ aesBad (sAes 128) (aesEntryJob (sAes 128)) = false ∧
    aesBad (sAes 100) (aesEntryJob (sAes 100)) = true ∧ plainB (sAes 128) cis 64 = true ∧
    taken (sAes 128) 0xA000 .SEC_KEY 9 5 = true := by decide +kernel

/-- A job whose piece a quadrant mover copies into the staging region; one with no piece left. -/
def aesQ : MoverId := .ring (Fin.ofNat 12 (quadOf 0x4000400000))
def aesUnder : State :=
  after (execMoverTakeDescriptor aesQ) (after (execAesRingPost 0xA000 aesPostWord) (sAes 128))
def aesOver : State :=
  { sAes 128 with sec := { (sAes 128).sec with aes := some { aesEntryJob (sAes 128) with pos := 128, phase := 4 } } }

theorem test_w_SecurityUnits_piece :
    still aesUnder = true ∧ aesUnder.sec.aes.map (fun j => (j.phase, j.bad, j.tag, j.piece)) = some (1, false, 0, 128) ∧
    (aesUnder.mover aesQ).prog.map (fun d => (decide (d.origin = .unit aesSrc 0), sourcePending aesUnder d,
      decide (aesUnder.region d.srcN.base = .outbound), decide (aesUnder.region d.dstN.base = .outbound))) =
      [(true, false, false, false)] ∧
    sendPort aesQ = none ∧ plainB aesUnder (aesStg aesUnder) 128 = true := by decide +kernel

theorem test_w_SecurityUnits_job :
    let s := aesOver
    still s = true ∧ s.sec.aes.map (fun j => (j.phase, j.idx)) = some (4, 0) ∧ s.fld SEC_AES_RING.HEAD 0 % 16 = s.fld SEC_AES_RING.TAIL 0 % 16 ∧
    s.within .hbm 0x2000 128 = true ∧ plainB s (aesEntry s 0) 64 = true := by decide +kernel

/-- Reports to an area that serves and to one that does not; measurement; commit by function 0. -/
theorem test_w_SecurityUnits_writes :
    taken s0 0xA000 .SEC_ATT 0 (w64 cis ||| bit64 40) = true ∧ cis % 64 = 0 ∧ s0.within .cistern cis 17568 = true ∧
    taken s0 0xA000 .SEC_ATT 0 (w64 (cis + 8) ||| bit64 40) = true ∧ (cis + 8) % 64 ≠ 0 ∧ s0.bit SEC_ATT.BUSY 0 = false ∧
    (let s := put s0 [(SEC_ATT.BUSY, 0, 1)]; still s = true ∧ s.bit SEC_ATT.BUSY 0 = true) ∧
    taken (sH false) 0xC000 .SEC_EXTEND 3 5 = true ∧ taken s0 0xA000 .SEC_BOOT 0 8 = true ∧
    taken (sH false) 0xC000 .SEC_FWC_CTL 0 1 = true ∧ taken s0 0xA000 .SEC_FWC_CTL 0 1 = true ∧
    taken (sH false) 0xC000 .SEC_FWC_CTL 0 2 = true ∧ s0.bit SEC_FWC_CTL.BUSY 0 = false ∧
    (let s := put s0 [(SEC_FWC_CTL.BUSY, 0, 1), (SEC_FWC.ADDR, 0, 0x1000), (SEC_FWC.LEN, 0, 16)]
     still s = true ∧ s.bit SEC_FWC_CTL.BUSY 0 = true) ∧
    (let s := s0.setBoot { s0.boot with loaded := true, svn := 5, otp := 3 }
     still s = true ∧ s.boot.loaded = true) := by decide +kernel

/-! ### Boot and resets -/

/-- Two slots: the newer accepted; the newer below the security version; none accepted. -/
def bootSlots (svnA svnB : BitVec 8) : BootInput :=
  { found 20 with slotA := { slotA with svn := svnA }, slotB := { slotA with svn := svnB, seq := 7 } }
theorem test_w_BootAndResets_slots :
    let ok := fun (b : BootInput) => [b.slotA, b.slotB].map fun x => (slotValid x, slotAccepted x 2)
    (bootSlots 3 3).wellFormed = true ∧ ok (bootSlots 3 3) = [(true, true), (true, true)] ∧
    ok (bootSlots 3 1) = [(true, true), (true, false)] ∧ ok (bootSlots 1 1) = [(true, false), (true, false)] ∧
    (slotA.seq.toNat < 7) ∧ plateIn .m128I 20 = true ∧ plateIn .m128I 200 = false := by decide +kernel

/-- A module that runs, and one that waits for its plate. -/
theorem test_w_BootAndResets_resets :
    still s0 = true ∧ s0.boot.last = none ∧ s0.bit SEC_FWC_CTL.BUSY 0 = false ∧ s0.boot.loaded = false ∧
    s0.boot.waits = false ∧ s0.boot.reversed = false ∧
    [1, 2].all (fun n => taken s0 0xA000 .WTM_RST 0 (kept s0 .WTM_RST 0 ||| BitVec.ofNat 64 n)) = true ∧
    (let s := s0.setBoot { s0.boot with last := some (found 20), loaded := true, injDone := true }
     still s = true ∧ s.boot.last.isSome = true) ∧
    (let s := s0.setBoot { s0.boot with waits := true }; still s = true ∧ s.boot.waits = true) ∧
    s0.bit WTM_ISL.INRST 1 = false ∧
    taken s0 0xA000 .WTM_RST 0 (putBits (kept s0 .WTM_RST 0) 9 4 1 ||| 4) = true ∧ clusterOf 1 = 1 ∧
    mayWrite s0 0xA000 .WTM_RST = true ∧ islandFixed 33 = true ∧
    regWaits s0 0xA000 .WTM_RST 0 (putBits (kept s0 .WTM_RST 0) 9 4 33 ||| 4) = false ∧
    taken s0 0xA000 .WTM_RST 0 (putBits (kept s0 .WTM_RST 0) 17 10 3 ||| 8) = true ∧
    (s0.core (.eng 3)).inFlight = [] := by decide +kernel

/-- Nothing works on memory after reset. -/
theorem test_w_BootAndResets_restful : restful s0 :=
  ⟨by decide +kernel, rfl, rfl, fun _ => rfl, rfl, by decide +kernel, rfl, by decide +kernel⟩

end Sys2Proof.Tests
end

/-! Scalar accesses on a ready core: what their checks answer, and what a load leaves behind. -/

namespace Sys2Proof.Machine

/-! ## Writing a scalar register -/

@[simp] theorem CoreSt.writeG_stream (k : CoreSt) (x : BitVec 5) (w : PWord) : (k.writeG x w).stream = k.stream := by
  unfold CoreSt.writeG
  split <;> rfl

@[simp] theorem CoreSt.writeG_underWay (k : CoreSt) (x : BitVec 5) (w : PWord) :
    (k.writeG x w).underWay = k.underWay := by
  unfold CoreSt.writeG
  split <;> rfl

/-- A ready core holds no instruction and has no clause under way. -/
theorem ready_idle (s : State) (c : Core) (h : ready s c = true) :
    (s.core c).stream = [] ∧ (s.core c).underWay = false := by
  simp only [ready, Bool.and_eq_true, List.isEmpty_iff, Bool.not_eq_true'] at h
  obtain ⟨⟨⟨⟨⟨⟨⟨⟨_, hstream⟩, _⟩, _⟩, _⟩, _⟩, hunder⟩, _⟩, _⟩ := h
  exact ⟨hstream, hunder⟩

/-- The core of an issued clause of one instruction is the ready core moved past it; a retired result is its only other
change. -/
theorem retire_sole (s : State) (c : Core) (i : Instr) (rd : BitVec 5) (w : PWord) (h : ready s c = true) :
    retire (soleCtx s c i) (s.begin.setCore c (advanced (s.core c))) rd w =
      .ok (s.begin.setCore c ((advanced (s.core c)).writeG rd w)) := by
  simp only [retire, soleCtx, State.modCore, core_setCore_same, setCore_advanced s c _ h]

/-! ## Checks of a scalar access (R46, R48, R74) -/

/-- Only an engine refuses a poisoned operand. -/
theorem useG_clean (x : Ctx) (r : BitVec 5) (kind : Nat) (h : (isEng x.c && (x.b.readG r).p) = false) :
    useG x r kind = .ok (x.b.readG r).v := by
  cases he : isEng x.c with
  | false => simp [useG, he]
  | true =>
    have hp : (x.b.readG r).p = false := by simpa [he] using h
    simp [useG, he, cleanG, hp, trapIf, bind, Except.bind, pure, Except.pure]

/-- Reach and allotments do not see that the core has been fed and moved on. -/
theorem accessOk_fed (s : State) (c : Core) (i : Instr) (r : Right) (a n : Nat) :
    accessOk ((s.begin.setCore c (advanced (s.core c))).setCore c (fedWith (s.core c) i)) c r a n =
      accessOk s c r a n := by
  rw [accessOk_setCore _ c _ r a n (by rw [core_setCore_same]; rfl),
    accessOk_setCore s.begin c (advanced (s.core c)) r a n rfl]
  rfl

/-! The functions that look an address up in the register directory are unfolded below as constants, by `delta`, and
rewritten with what `regAt` answers: an equation of theirs at a variable address makes the kernel evaluate `regAt`, which
counts down from 0x6000000000. -/

/-- What an isolated cluster refuses depends on the isolated units alone. -/
theorem isoRefuses_congr (s t : State) (a : Nat) (h : t.drd = s.drd) : isoRefuses t a = isoRefuses s a := by
  conv => lhs; fun; fun; delta isoRefuses
  conv => rhs; fun; fun; delta isoRefuses
  rw [h]

/-- The checks of an access one by one: operand, alignment, reach and allotments, isolated clusters. -/
theorem scalarAccess_ok (x : Ctx) (t : State) (r : Right) (ra : BitVec 5) (imm : BitVec 13) (n a : Nat) (g : Word)
    (hg : useG x ra 1 = .ok g) (ha : effAddr g (sext imm * n) = a) (halign : a % n = 0)
    (hok : accessOk (t.setCore x.c x.b) x.c r a n = true) (hi : t.region a = .control → isoRefuses t a = false) :
    scalarAccess x t r ra imm n = .ok a := by
  have hiso : (decide (t.region a = .control) && isoRefuses t a) = false := by
    by_cases h : t.region a = .control
    · simp [hi h]
    · simp [h]
  simp only [scalarAccess, hg, bind, Except.bind, ha, hok, hiso, halign, trapIf, ne_eq, not_true_eq_false, decide_false,
    Bool.not_true, Bool.false_eq_true, if_false]

/-- An access that passes its checks, and no gate or check of an isolated cluster, answers its address. -/
theorem scalarAccess_sole (s : State) (c : Core) (i : Instr) (r : Right) (ra : BitVec 5) (imm : BitVec 13) (n : Nat)
    (hp : scalarPasses s c r ra (scalarAddr (s.core c) ra imm n) n = true)
    (hi : s.region (scalarAddr (s.core c) ra imm n) = .control → isoRefuses s (scalarAddr (s.core c) ra imm n) = false) :
    scalarAccess (soleCtx s c i) (s.begin.setCore c (advanced (s.core c))) r ra imm n =
      .ok (scalarAddr (s.core c) ra imm n) := by
  simp only [scalarPasses, Bool.and_eq_true, Bool.not_eq_true', decide_eq_true_eq] at hp
  obtain ⟨⟨hpoison, halign⟩, haccess⟩ := hp
  have hg : useG (soleCtx s c i) ra 1 = .ok ((s.core c).readG ra).v := useG_clean (soleCtx s c i) ra 1 hpoison
  have hiso := isoRefuses_congr s (s.begin.setCore c (advanced (s.core c))) (scalarAddr (s.core c) ra imm n) rfl
  exact scalarAccess_ok _ _ r ra imm n _ _ hg rfl halign ((accessOk_fed s c i r _ n).trans haccess) fun h =>
    hiso.trans (hi h)

/-! ## The command of a load -/

/-- A load that leaves its core with one register written completes with it. -/
theorem exec_load (s : State) (c : Core) (rd ra : BitVec 5) (imm : BitVec 13) (n : Nat) (w : PWord)
    (hst : still s = true) (hr : ready s c = true) (hd : (s.core c).state ≠ 1) (hn : n ∈ [4, 8])
    (hl : ∀ i, loadEff (soleCtx s c i) (s.begin.setCore c (advanced (s.core c))) rd ra imm n =
      .ok (s.begin.setCore c ((advanced (s.core c)).writeG rd w))) :
    exec ((if n = 8 then Instr.ld else Instr.lw) c rd ra imm true) s =
      .next (counted s c (s.begin.setCore c ((advanced (s.core c)).writeG rd w))) := by
  obtain ⟨hstream, hunder⟩ := ready_idle s c hr
  have hk : ((advanced (s.core c)).writeG rd w).stream = [] := (CoreSt.writeG_stream _ _ _).trans hstream
  have he : ((advanced (s.core c)).writeG rd w).underWay = false := (CoreSt.writeG_underWay _ _ _).trans hunder
  simp only [List.mem_cons, List.not_mem_nil, or_false] at hn
  rcases hn with rfl | rfl
  · exact runInstr_core s c (.lw c rd ra imm true) _ _ hst hr rfl rfl rfl rfl (fun _ _ => rfl) rfl (.inl hd) (hl _) hk he
  · exact runInstr_core s c (.ld c rd ra imm true) _ _ hst hr rfl rfl rfl rfl (fun _ _ => rfl) rfl (.inl hd) (hl _) hk he

/-! ## Islands of registers (R15) -/

theorem foldl_mul_dims (d : List (Nat × Nat)) (n : Nat) :
    d.foldl (fun m e => m * e.2) n = n * d.foldl (fun m e => m * e.2) 1 := by
  induction d generalizing n with
  | nil => simp
  | cons e d ih => rw [List.foldl_cons, List.foldl_cons, ih, ih (1 * e.2), Nat.one_mul, Nat.mul_assoc]

/-- The number that a distance gives is one of those that the dimensions have. -/
theorem dimIndex_lt (d : List (Nat × Nat)) (off i : Nat) (h : dimIndex d off = some i) :
    i < d.foldl (fun m e => m * e.2) 1 := by
  induction d generalizing off i with
  | nil =>
    simp only [dimIndex] at h
    split at h <;> simp_all
  | cons e d ih =>
    simp only [dimIndex] at h
    split at h
    · rename_i hlt
      obtain ⟨j, hj, rfl⟩ := Option.map_eq_some_iff.mp h
      have hj := ih _ _ hj
      rw [List.foldl_cons, foldl_mul_dims d (1 * e.2), Nat.one_mul]
      calc off / e.1 * d.foldl (fun m e => m * e.2) 1 + j
          < (off / e.1 + 1) * d.foldl (fun m e => m * e.2) 1 := by rw [Nat.succ_mul]; omega
        _ ≤ e.2 * d.foldl (fun m e => m * e.2) 1 := Nat.mul_le_mul_right _ hlt
    · simp at h

/-- An address is that of one of the numbers that its register has. -/
theorem regAt_lt (a : Nat) (r : RegName) (i : Nat) (h : regAt a = some (r, i)) : i < r.count := by
  obtain ⟨q, _, hq⟩ := List.exists_of_findSome?_eq_some h
  split at hq
  · obtain ⟨j, hj, he⟩ := Option.map_eq_some_iff.mp hq
    cases he
    exact dimIndex_lt _ _ _ hj
  · simp at hq

theorem islandOf_mono {i j : Nat} (h : i ≤ j) : islandOf i ≤ islandOf j := by
  simp only [islandOf]
  split <;> split <;> omega

/-- A register of a later number lies in a later island or the same. -/
theorem regIsland_mono (r : RegName) {i j : Nat} (h : i ≤ j) : regIsland r i ≤ regIsland r j := by
  have hcluster : ∀ n, islandOf (i / n) ≤ islandOf (j / n) := fun n => islandOf_mono (Nat.div_le_div_right h)
  have hlane : 30 + i / 32 ≤ 30 + j / 32 := Nat.add_le_add_left (Nat.div_le_div_right h) 30
  unfold regIsland
  repeat' split
  all_goals simp only [hcluster, hlane, islandOf_mono h, Nat.le_refl]

/-- The last number of every register lies in one of the islands. -/
theorem regIsland_last (r : RegName) : regIsland r (r.count - 1) < 37 := by
  cases r <;> decide

/-- Every number of a register lies in one of the islands. -/
theorem regIsland_lt (r : RegName) (i : Nat) (h : i < r.count) : regIsland r i < 37 :=
  Nat.lt_of_le_of_lt (regIsland_mono r (by omega)) (regIsland_last r)

/-- An access to a register waits for the register's island alone. -/
theorem ctlStops_of_regAt (s : State) {a : Nat} {r : RegName} {i : Nat} (h : regAt (a / 8 * 8) = some (r, i)) :
    ctlStops s a = islandStops s (regIsland r i) := by
  conv => lhs; fun; fun; delta ctlStops
  rw [h]

/-- In a quiet machine every register takes accesses. -/
theorem ctlStops_quiet (s : State) {a : Nat} {r : RegName} {i : Nat} (hq : quiet s = true)
    (h : regAt (a / 8 * 8) = some (r, i)) : ctlStops s a = false := by
  rw [ctlStops_of_regAt s h]
  exact quiet_running s hq _ (regIsland_lt r i (regAt_lt _ _ _ h))

/-! ## Reads of the control space (R10, R455) -/

/-- The half of a register that a 4-byte access at an address reads. -/
def readHalf (a : Nat) (w : Word) : Nat := if a % 8 = 0 then w.toNat % 2 ^ 32 else w.toNat / 2 ^ 32

/-- A read at an address is a read of the register there. -/
theorem ctlRead_of_regAt (s : State) (src n : Nat) {a : Nat} {r : RegName} {i : Nat}
    (h : regAt (a / 8 * 8) = some (r, i)) :
    ctlRead s src a n =
      let p := regRead s src r i (decide (n = 8) || decide (a % 8 = 0)) (clearedMask r a n)
      (p.1, if n = 8 then p.2 else if a % 8 = 0 then p.2 &&& maskBits 31 0 else p.2 >>> 32) := by
  conv => lhs; fun; fun; fun; fun; delta ctlRead
  rw [h]

/-- A read without a side effect leaves the state as it was and answers the register's contents. -/
theorem ctlRead_plain (s : State) (src a n : Nat) (r : RegName) (i : Nat) (hr : regAt (a / 8 * 8) = some (r, i))
    (ha : readActs s src r i (decide (n = 8) || decide (a % 8 = 0)) = none) (hm : clearedMask r a n = 0) :
    ctlRead s src a n = (s, if n = 8 then regView s r i
      else if a % 8 = 0 then regView s r i &&& maskBits 31 0 else regView s r i >>> 32) := by
  have hread : regRead s src r i (decide (n = 8) || decide (a % 8 = 0)) 0 = (s, regView s r i) := by
    simp [regRead, ha]
  rw [ctlRead_of_regAt s src n hr, hm, hread]

/-- What a load of n bytes makes of the register word that it reads. -/
theorem loaded_half (n a : Nat) (w : Word) :
    loaded n (if n = 8 then w else if a % 8 = 0 then w &&& maskBits 31 0 else w >>> 32).toNat =
      if n = 8 then w else (BitVec.ofNat 32 (readHalf a w)).signExtend 64 := by
  have hlow : (w &&& maskBits 31 0).toNat = w.toNat % 2 ^ 32 := by
    rw [BitVec.toNat_and, show (maskBits 31 0).toNat = 2 ^ 32 - 1 from by decide, Nat.and_two_pow_sub_one_eq_mod]
  have hhigh : (w >>> 32).toNat = w.toNat / 2 ^ 32 := by
    rw [BitVec.toNat_ushiftRight, Nat.shiftRight_eq_div_pow]
  by_cases h8 : n = 8
  · simp [loaded, h8]
  · by_cases ha : a % 8 = 0
    · simp only [loaded, h8, ha, if_true, if_false, readHalf, hlow]
    · simp only [loaded, h8, ha, if_false, readHalf, hhigh]

/-- A load of the control space that passes its checks retires the word that it reads. -/
theorem loadEff_control (x : Ctx) (t u : State) (rd ra : BitVec 5) (imm : BitVec 13) (n a : Nat) (w : Word)
    (hacc : scalarAccess x t .rd ra imm n = .ok a) (hc : t.region a = .control) (hstop : ctlStops t a = false)
    (hread : ctlRead t (coreSrc x.c) a n = (u, w)) :
    loadEff x t rd ra imm n = retire x u rd ⟨loaded n w.toNat, false⟩ := by
  unfold loadEff
  rw [hacc]
  refine (if_pos hc).trans ?_
  rw [hstop, hread]
  rfl

/-- A load of a register whose read only returns its contents retires them. -/
theorem loadEff_register (s : State) (c : Core) (i : Instr) (rd ra : BitVec 5) (imm : BitVec 13) (n : Nat)
    (r : RegName) (j : Nat) (hq : quiet s = true) (hr : ready s c = true)
    (hp : scalarPasses s c .rd ra (scalarAddr (s.core c) ra imm n) n = true)
    (hc : s.region (scalarAddr (s.core c) ra imm n) = .control)
    (hi : isoRefuses s (scalarAddr (s.core c) ra imm n) = false)
    (ha : regAt (scalarAddr (s.core c) ra imm n / 8 * 8) = some (r, j))
    (hact : readActs (s.begin.setCore c (advanced (s.core c))) (coreSrc c) r j
      (decide (n = 8) || decide (scalarAddr (s.core c) ra imm n % 8 = 0)) = none)
    (hm : clearedMask r (scalarAddr (s.core c) ra imm n) n = 0) :
    loadEff (soleCtx s c i) (s.begin.setCore c (advanced (s.core c))) rd ra imm n =
      .ok (s.begin.setCore c ((advanced (s.core c)).writeG rd
        ⟨if n = 8 then regView (s.begin.setCore c (advanced (s.core c))) r j
         else (BitVec.ofNat 32 (readHalf (scalarAddr (s.core c) ra imm n)
           (regView (s.begin.setCore c (advanced (s.core c))) r j))).signExtend 64, false⟩)) := by
  obtain ⟨hstream, hunder⟩ := ready_idle s c hr
  have hacc := scalarAccess_sole s c i .rd ra imm n hp fun _ => hi
  have hstop := ctlStops_quiet _ (quiet_setCore s.begin c (advanced (s.core c)) hq (copying_ready s c hr) hstream hunder) ha
  have hread := ctlRead_plain _ (coreSrc c) _ n r j ha hact hm
  rw [loadEff_control _ _ _ rd ra imm n _ _ hacc hc hstop hread, loaded_half, retire_sole s c i rd _ hr]

/-- Settles O11: the load passes its checks, its register's island runs, and its read answers the contents alone. -/
theorem loadsFromRegisters : Obligations.LoadsFromRegisters := by
  intro s c rd ra imm hst hr hd n hn r i k a fed hp hc hi ha hact hm
  have hq : quiet s = true := by
    simp only [still, Bool.and_eq_true] at hst
    exact hst.2
  exact exec_load s c rd ra imm n _ hst hr hd hn fun j => loadEff_register s c j rd ra imm n r i hq hr hp hc hi ha hact hm

end Sys2Proof.Machine

/-! The change log: the hash chain's head is 32 bytes, and an entry makes it the digest of the old head and the entry. -/

namespace Sys2Proof.Machine

/-! ## Bytes of numbers -/

theorem length_leBytes (n x : Nat) : (leBytes n x).length = n := by
  induction n generalizing x with
  | zero => rfl
  | succ n ih => simp [leBytes, ih]

theorem length_beBytes (n x : Nat) : (beBytes n x).length = n := by
  rw [beBytes, List.length_reverse, length_leBytes]

theorem leNat_lt (l : List Byte) : leNat l < 256 ^ l.length := by
  induction l with
  | nil => simp [leNat]
  | cons b l ih =>
    have hb := b.isLt
    simp only [leNat, List.length_cons, Nat.pow_succ]
    omega

/-- The bytes of the number that bytes hold are those bytes. -/
theorem leBytes_leNat (l : List Byte) : leBytes l.length (leNat l) = l := by
  induction l with
  | nil => rfl
  | cons b l ih =>
    have hb := b.isLt
    have hlow : BitVec.ofNat 8 (b.toNat + 256 * leNat l) = b := BitVec.eq_of_toNat_eq (by simp; omega)
    have hrest : (b.toNat + 256 * leNat l) / 256 = leNat l := by omega
    simp only [List.length_cons, leBytes, leNat, hlow, hrest, ih]

/-- Eight bytes kept in a 64-bit word. -/
theorem leBytes_w64_leNat (l : List Byte) (h : l.length = 8) : leBytes 8 (w64 (leNat l)).toNat = l := by
  have hlt : leNat l < 256 ^ 8 := h ▸ leNat_lt l
  rw [BitVec.toNat_ofNat, Nat.mod_eq_of_lt (by omega), ← h, leBytes_leNat]

/-! ## The length of a digest (FIPS 180-4) -/

/-- A block's turn keeps its two groups of four chaining words. -/
theorem ShaWork.turn_lengths (q : ShaWork) (k : BitVec 32) (h : q.abcd.length = 4 ∧ q.efgh.length = 4) :
    (q.turn k).abcd.length = 4 ∧ (q.turn k).efgh.length = 4 := by
  simp [ShaWork.turn, h]

theorem foldl_turn_lengths (ps : List Nat) (q : ShaWork) (h : q.abcd.length = 4 ∧ q.efgh.length = 4) :
    let t := ps.foldl (fun q p => q.turn (rootFraction 3 p)) q
    t.abcd.length = 4 ∧ t.efgh.length = 4 := by
  induction ps generalizing q with
  | nil => exact h
  | cons p ps ih => exact ih _ (q.turn_lengths _ h)

/-- A block leaves eight chaining words. -/
theorem length_shaChain (h : List (BitVec 32)) (blk : List Byte) (hl : h.length = 8) : (shaChain h blk).length = 8 := by
  obtain ⟨habcd, hefgh⟩ := foldl_turn_lengths firstPrimes
    ⟨h.take 4, h.drop 4, (pieces 4 blk).map fun b => BitVec.ofNat 32 (beNat b)⟩ (by simp [hl])
  simp only [shaChain, List.length_map, List.length_zip, List.length_append, habcd, hefgh, hl, Nat.min_self]

theorem length_foldl_shaChain (bs : List (List Byte)) (h : List (BitVec 32)) (hl : h.length = 8) :
    (bs.foldl shaChain h).length = 8 := by
  induction bs generalizing h with
  | nil => exact hl
  | cons b bs ih => exact ih _ (length_shaChain h b hl)

theorem length_flatMap_beBytes (ws : List (BitVec 32)) :
    (ws.flatMap fun w => beBytes 4 w.toNat).length = 4 * ws.length := by
  induction ws with
  | nil => rfl
  | cons w ws ih =>
    simp only [List.flatMap_cons, List.length_append, ih, length_beBytes, List.length_cons]
    omega

theorem length_firstPrimes_take : (firstPrimes.take 8).length = 8 := by decide +kernel

/-- A digest has 32 bytes. -/
theorem length_sha256 (m : List Byte) : (sha256 m).length = 32 := by
  simp only [sha256]
  rw [length_flatMap_beBytes, length_foldl_shaChain _ _ (by rw [List.length_map, length_firstPrimes_take])]

/-! ## The chain head -/

/-- The change log's registers CLG_HEAD with 32 bytes in them. -/
def withHead (s : State) (h : List Byte) : State :=
  forL (upFrom 0 4) (fun k s => s.setReg .CLG_HEAD k (w64 (leNat ((h.drop (8 * k)).take 8)))) s

theorem withHead_eq (s : State) (h : List Byte) : withHead s h =
    (((s.setReg .CLG_HEAD 0 (w64 (leNat ((h.drop 0).take 8)))).setReg .CLG_HEAD 1 (w64 (leNat ((h.drop 8).take 8)))).setReg
      .CLG_HEAD 2 (w64 (leNat ((h.drop 16).take 8)))).setReg .CLG_HEAD 3 (w64 (leNat ((h.drop 24).take 8))) := rfl

theorem reg_withHead (s : State) (h : List Byte) (k : Nat) (hk : k < 4) :
    (withHead s h).reg .CLG_HEAD k = w64 (leNat ((h.drop (8 * k)).take 8)) := by
  have : k = 0 ∨ k = 1 ∨ k = 2 ∨ k = 3 := by omega
  rcases this with rfl | rfl | rfl | rfl <;> simp [withHead_eq, reg_setReg]

theorem reg_withHead_ne (s : State) (h : List Byte) {r : RegName} (i : Nat) (hr : r ≠ .CLG_HEAD) :
    (withHead s h).reg r i = s.reg r i := by
  simp only [withHead_eq, reg_setReg_ne _ _ _ _ hr]

/-- A list of 32 bytes is its four pieces of eight. -/
theorem flatMap_pieces (h : List Byte) (hl : h.length = 32) :
    ((upFrom 0 4).flatMap fun k => (h.drop (8 * k)).take 8) = h := by
  have h3 : (h.drop 24).take 8 = h.drop 24 := List.take_of_length_le (by simp [hl])
  have hp : ∀ n, (h.drop n).take 8 ++ h.drop (n + 8) = h.drop n := fun n => by
    rw [← List.drop_drop, List.take_append_drop]
  simp only [upFrom, List.flatMap_cons, List.flatMap_nil, List.append_nil, Nat.zero_add, Nat.reduceAdd, Nat.reduceMul, h3,
    hp 16, hp 8, List.drop_zero, List.take_append_drop]

/-- The chain head is what its registers have been given. -/
theorem chainHead_withHead (s : State) (h : List Byte) (hl : h.length = 32) : chainHead (withHead s h) = h := by
  have hw : ∀ k ∈ upFrom 0 4, leBytes 8 ((withHead s h).reg .CLG_HEAD k).toNat = (h.drop (8 * k)).take 8 := by
    intro k hk
    have hk4 : k < 4 := by simpa using ((mem_upFrom 4 0 k).1 hk).2
    rw [reg_withHead s h k hk4]
    exact leBytes_w64_leNat _ (by simp [hl]; omega)
  rw [chainHead, List.flatMap_def, List.map_congr_left hw, ← List.flatMap_def, flatMap_pieces h hl]

/-- The chain head is about its own registers. -/
theorem chainHead_congr (s t : State) (h : ∀ i, t.reg .CLG_HEAD i = s.reg .CLG_HEAD i) : chainHead t = chainHead s := by
  simp only [chainHead, h]

/-! ## Staging an entry (R475) -/

/-- Staging changes no register but the count of lost entries and the queue of its event. -/
theorem reg_stageEntry_ne (s : State) (x : ClogEntry) {r : RegName} (i : Nat) (hs : r ≠ .CLG_STAT) (hq : r ≠ .CST_EVQ) :
    (stageEntry s x).reg r i = s.reg r i := by
  simp only [stageEntry]
  split
  · rfl
  · split
    · exact reg_satAdd_ne _ _ _ _ _ hs
    · exact (reg_event_ne _ _ _ _ _ _ hq).trans (reg_satAdd_ne _ _ _ _ _ hs)

/-! ## An entry (R473, R474) -/

/-- The four words of the next entry of the change log. -/
def entryWords (s : State) (src : Nat) (r : RegName) (i : Nat) (ign : Bool) (old new : Word) : List Word :=
  [w64 (r.addr i - 0x6000000000 + src * 2 ^ 28 + (if ign then 2 ^ 46 else 0) + leNat ((chainHead s).take 2) * 2 ^ 48),
    w64 s.totalNs, old, new]

/-- The chain head that the next entry leaves. -/
def nextHead (s : State) (ws : List Word) : List Byte := sha256 (chainHead s ++ ws.flatMap fun w => leBytes 8 w.toNat)

/-- The words of an entry that a taken write appends: IGN is 0. -/
theorem entryWords_taken (s : State) (src : Nat) (r : RegName) (i : Nat) (old new : Word) :
    entryWords s src r i false old new =
      [w64 (r.addr i - 0x6000000000 + src * 2 ^ 28 + leNat ((chainHead s).take 2) * 2 ^ 48), w64 s.totalNs, old, new] := by
  rw [entryWords, if_neg Bool.false_ne_true, Nat.add_zero]

/-- The start of a command changes nothing that an entry is made of. -/
theorem nextHead_begin (s : State) (src : Nat) (r : RegName) (i : Nat) (ign : Bool) (old new : Word) :
    nextHead s.begin (entryWords s.begin src r i ign old new) = nextHead s (entryWords s src r i ign old new) := by
  have hh : chainHead s.begin = chainHead s := chainHead_congr s s.begin fun _ => rfl
  have ht : s.begin.totalNs = s.totalNs := rfl
  simp only [nextHead, entryWords, hh, ht]

theorem logEntry_eq (s : State) (src : Nat) (r : RegName) (i : Nat) (ign : Bool) (old new : Word) :
    logEntry s src r i ign old new =
      stageEntry (withHead (s.setReg .CLG_SEQ 0 (w64 (s.fld CLG_SEQ.N 0 + 1)))
        (nextHead s (entryWords s src r i ign old new)))
        ⟨s.fld CLG_SEQ.N 0 + 1, entryWords s src r i ign old new⟩ := rfl

/-- An entry extends the chain. -/
theorem chainHead_logEntry (s : State) (src : Nat) (r : RegName) (i : Nat) (ign : Bool) (old new : Word) :
    chainHead (logEntry s src r i ign old new) = nextHead s (entryWords s src r i ign old new) := by
  rw [logEntry_eq, chainHead_congr _ _ fun i => reg_stageEntry_ne _ _ i (by decide) (by decide)]
  exact chainHead_withHead _ _ (length_sha256 _)

/-- An entry counts in CLG_SEQ. -/
theorem seq_logEntry (s : State) (src : Nat) (r : RegName) (i : Nat) (ign : Bool) (old new : Word) :
    (logEntry s src r i ign old new).reg .CLG_SEQ 0 = w64 (s.fld CLG_SEQ.N 0 + 1) := by
  rw [logEntry_eq, reg_stageEntry_ne _ _ _ (by decide) (by decide), reg_withHead_ne _ _ _ (by decide), reg_setReg_same]

/-! ## Writes of whole registers -/

/-- A whole write at the address of a register, if it need not wait, is a write of that register. -/
theorem addrWrite_of_regAt (s : State) (src : BitVec 16) {a : Nat} (v : Word) {r : RegName} {i : Nat}
    (hc : isControlAddr a = true) (ha : a % 8 = 0) (h : regAt (a / 8 * 8) = some (r, i))
    (hw : regWaits s src.toNat r i v = false) : addrWrite s src.toNat a 8 v = regCommand s src r i v := by
  have hal : ctlAligned a 8 = true := by simp [ctlAligned, ha]
  have hwait : ctlWaits s src.toNat a 8 v = false := by
    conv => lhs; fun; fun; fun; fun; fun; delta ctlWaits
    rw [h]
    exact hw
  have hperf : ctlPerform s src.toNat a 8 v false = regWrite s src.toNat r i v := by
    conv => lhs; fun; fun; fun; fun; fun; fun; delta ctlPerform
    rw [h]
    rfl
  simp only [addrWrite, hc, if_true, ctlWrite, hal, hwait, hperf, regCommand, hw, Bool.not_true, Bool.false_eq_true,
    if_false]

/-- Where a write of CST_CLEVQ goes. -/
theorem regAt_clevq : ∀ c : Fin 16, isControlAddr (RegName.CST_CLEVQ.addr c.val) = true ∧
    RegName.CST_CLEVQ.addr c.val % 8 = 0 ∧ RegName.CST_CLEVQ.addr c.val < 2 ^ 40 ∧
    regAt (RegName.CST_CLEVQ.addr c.val / 8 * 8) = some (.CST_CLEVQ, c.val) := by decide +kernel

/-- What a write stores in CST_CLEVQ: its three bits, the others as they were. -/
theorem storedValue_clevq (s : State) (i : Nat) (v : Word) :
    storedValue s .CST_CLEVQ i v = (s.reg .CST_CLEVQ i &&& ~~~7) ||| (v &&& 7) := by
  have hrw : RegName.CST_CLEVQ.accMask [.rw] = 7 := by decide
  have hw1c : RegName.CST_CLEVQ.accMask [.w1c] = 0 := by decide
  have hw1s : RegName.CST_CLEVQ.accMask [.w1s] = 0 := by decide
  have hall : ∀ w : Word, w &&& 0xFFFFFFFFFFFFFFFF#64 = w := fun _ => BitVec.and_allOnes
  simp [storedValue, written, lockedBits, roExtra, forceZero, forceOne, hrw, hw1c, hw1s, hall, BitVec.or_comm]

/-- The three bits that a write puts into CST_CLEVQ. -/
theorem extract_clevq (w v : Word) : (((w &&& ~~~7) ||| (v &&& 7)).extractLsb' 0 3).toNat = v.toNat % 8 := by
  have : ((w &&& ~~~7) ||| (v &&& 7)).extractLsb' 0 3 = v.setWidth 3 := by
    apply BitVec.eq_of_getLsbD_eq
    intro j hj
    have : j = 0 ∨ j = 1 ∨ j = 2 := by omega
    rcases this with rfl | rfl | rfl <;> simp
  rw [this, BitVec.toNat_setWidth]

/-- A write that takes effect and changes CST_CLEVQ appends its entry and stores its bits. -/
theorem regCommand_clevq (s : State) (src : BitVec 16) (i : Nat) (v : Word)
    (ht : taken s src .CST_CLEVQ i v = true) (hch : changes s .CST_CLEVQ i v = true) :
    regCommand s src .CST_CLEVQ i v =
      (logEntry s src.toNat .CST_CLEVQ i false (s.reg .CST_CLEVQ i) (storedValue s .CST_CLEVQ i v)).setReg .CST_CLEVQ i
        (storedValue s .CST_CLEVQ i v) := by
  have hwo : RegName.CST_CLEVQ.accMask [.wo] = 0 := by decide
  have hlog : logTaken s src.toNat .CST_CLEVQ i v =
      logEntry s src.toNat .CST_CLEVQ i false (s.reg .CST_CLEVQ i) (storedValue s .CST_CLEVQ i v) := by
    simp [logTaken, hch, hwo, RegName.info]
  rw [regCommand_taken s src _ i v ht, hlog]
  rfl

/-- The command of a whole write that takes effect at a register and leaves nothing under way. -/
theorem exec_registerWrite_taken (s : State) (src : BitVec 16) {r : RegName} {i : Nat} (v : Word)
    (halive : alive s = true) (hc : isControlAddr (r.addr i) = true) (ha : r.addr i % 8 = 0) (hlt : r.addr i < 2 ^ 40)
    (h : regAt (r.addr i / 8 * 8) = some (r, i)) (ht : taken s.begin src r i v = true)
    (hq : quiet (regCommand s.begin src r i v) = true) :
    exec (.registerWrite src (BitVec.ofNat 40 (r.addr i)) 8 v) s = .next (commit s (regCommand s.begin src r i v)) := by
  have hwait : regWaits s.begin src.toNat r i v = false := by
    simp only [taken, Bool.and_eq_true, Bool.not_eq_true'] at ht
    exact ht.1
  have hbody : addrWrite s.begin src.toNat (BitVec.ofNat 40 (r.addr i)).toNat 8 v = regCommand s.begin src r i v := by
    rw [BitVec.toNat_ofNat, Nat.mod_eq_of_lt hlt, addrWrite_of_regAt _ _ _ hc ha h hwait]
  exact (run_quiet (fun s => addrWrite s src.toNat (BitVec.ofNat 40 (r.addr i)).toNat 8 v) s halive
    ((congrArg quiet hbody).trans hq)).trans (congrArg (fun t => Host.Outcome.next (commit s t)) hbody)

/-- The command that writes CST_CLEVQ of a cluster, with nothing else under way. -/
theorem exec_write_clevq (s : State) (src : BitVec 16) (c : Fin 16) (v : Word) (hst : still s = true)
    (ht : taken s src .CST_CLEVQ c.val v = true) (hch : changes s .CST_CLEVQ c.val v = true) :
    exec (.registerWrite src (BitVec.ofNat 40 (RegName.CST_CLEVQ.addr c.val)) 8 v) s =
      .next (commit s ((logEntry s.begin src.toNat .CST_CLEVQ c.val false (s.reg .CST_CLEVQ c.val)
        (storedValue s .CST_CLEVQ c.val v)).setReg .CST_CLEVQ c.val (storedValue s .CST_CLEVQ c.val v))) := by
  obtain ⟨hctl, hal, hlt, hat⟩ := regAt_clevq c
  simp only [still, Bool.and_eq_true] at hst
  obtain ⟨⟨⟨⟨halive, _⟩, _⟩, _⟩, hquiet⟩ := hst
  have hbody := regCommand_clevq s.begin src c.val v ht hch
  have hq : quiet (regCommand s.begin src .CST_CLEVQ c.val v) = true := by
    rw [hbody, quiet_setReg _ _ _ _ (by decide), (logEntry_step _ _ _ _ _ _ _).quiet]
    exact hquiet
  exact (exec_registerWrite_taken s src v halive hctl hal hlt hat ht hq).trans
    (congrArg (fun t => Host.Outcome.next (commit s t)) hbody)

/-! ## The statement -/

theorem reset_chain : chainHead State.reset = List.replicate 32 0 ∧ State.reset.fld CLG_SEQ.N 0 = 0 := by
  decide +kernel

/-- Settles O6: the write is one entry of the log and then the register's new contents, which the chain does not see. -/
theorem changeLogChainExtends : Obligations.ChangeLogChainExtends := by
  refine ⟨reset_chain, fun s src c v hst ht hch => ⟨_, exec_write_clevq s src c v hst ht hch, ?_, ?_, ?_⟩⟩
  · rw [chainHead_congr (logEntry s.begin src.toNat .CST_CLEVQ c.val false (s.reg .CST_CLEVQ c.val)
      (storedValue s .CST_CLEVQ c.val v)) _ fun i => by rw [commit_reg, reg_setReg_ne _ _ _ _ (by decide)],
      chainHead_logEntry, nextHead_begin, nextHead, entryWords_taken, storedValue_clevq]
  · rw [commit_reg, reg_setReg_ne _ _ _ _ (by decide), seq_logEntry, fld_begin]
  · rw [commit_fld, State.fld, show CST_CLEVQ.EVQ.reg = RegName.CST_CLEVQ from rfl, reg_setReg_same, storedValue_clevq]
    exact extract_clevq _ v

end Sys2Proof.Machine

/-! Memory between commands: every command ends in `commit`, which keeps the canonical form and leaves no update over. -/

namespace Sys2Proof.Machine

/-- A malformed command faults, and every other one ends the command from what its body leaves. -/
theorem exec_ends (c : Instr) (s : State) :
    ∃ u, exec c s = if ! c.wellFormed then .fault .malformedCommand else .next (commit s u) := by
  cases c <;> exact ⟨_, rfl⟩

/-- A state that a command answers is the end of the command. -/
theorem commit_of_exec {c : Instr} {s t : State} (h : exec c s = .next t) : ∃ u, t = commit s u := by
  obtain ⟨u, hu⟩ := exec_ends c s
  rw [hu] at h
  split at h
  · exact absurd h nofun
  · exact ⟨u, (Host.Outcome.next.inj h).symm⟩

/-- The end of a command meets the memory invariant when the state before it did. -/
theorem inv_commit {s : State} (u : State) (h : inv s = true) : inv (commit s u) = true := by
  simp only [inv, Bool.and_eq_true] at h ⊢
  exact ⟨commit_wf s u h.1, rfl⟩

/-- Settles O2: a step idles or is a command, whose end keeps the invariant, and the invariant does not see the queue. -/
theorem stepKeepsMemoryForm : Obligations.StepKeepsMemoryForm := by
  intro s t hinv hstep
  unfold step at hstep
  split at hstep
  · cases hstep
    exact hinv
  · obtain ⟨u, rfl⟩ := commit_of_exec hstep
    exact inv_commit u hinv

end Sys2Proof.Machine

/-! The clocks of the islands and the report of a detection: what each changes, and that the end of a command goes on from
neither. -/

namespace Sys2Proof.Machine

/-- A loop whose every step relates states by a reflexive and transitive relation relates its ends by it. -/
theorem forL_rel {R : State → State → Prop} (hrefl : ∀ s, R s s) (htrans : ∀ {s t u}, R s t → R t u → R s u)
    {f : α → State → State} (hf : ∀ a s, R s (f a s)) (l : List α) (s : State) : R s (forL l f s) := by
  induction l generalizing s with
  | nil => exact hrefl s
  | cons a l ih => exact htrans (hf a s) (ih (f a s))

/-! ## Bits and fields of one register -/

theorem fld_congr {s t : State} {f : Fld} {i : Nat} (h : t.reg f.reg i = s.reg f.reg i) : t.fld f i = s.fld f i := by
  simp only [State.fld, h]

theorem bit_congr {s t : State} {f : Fld} {i : Nat} (h : t.reg f.reg i = s.reg f.reg i) : t.bit f i = s.bit f i := by
  simp only [State.bit, h]

/-- Setting a field leaves every bit outside it alone. -/
theorem bit_setFld_ne (s : State) (f g : Fld) (i j n : Nat) (h : f.lo ≤ f.hi) (b : g.lo < 64)
    (d : g.reg ≠ f.reg ∨ j ≠ i ∨ f.hi < g.lo ∨ g.lo < f.lo) : (s.setFld f i n).bit g j = s.bit g j := by
  simp only [State.bit, State.setFld, reg_setReg]
  split
  · rename_i e
    obtain ⟨e1, e2⟩ := e
    have hout : ¬ (f.lo ≤ g.lo ∧ g.lo ≤ f.hi) := by
      rcases d with d | d | d
      · exact absurd e1 d
      · exact absurd e2 d
      · omega
    rw [getLsbD_putBits _ _ _ _ _ h b, if_neg hout, e1, e2]
  · rfl

theorem islandStops_congr {s t : State} {i : Nat} (h : t.reg .WTM_ISL i = s.reg .WTM_ISL i) :
    islandStops t i = islandStops s i := by
  rw [islandStops, bit_congr (f := WTM_ISL.GATED) h, bit_congr (f := WTM_ISL.INRST) h, islandStops]

/-- Whether an island stops depends on GATED and INRST, not on its clock, its supply or its allowance. -/
theorem islandStops_setFld (s : State) (f : Fld) (i n j : Nat) (h : f.lo ≤ f.hi) (hr : f.hi < 56 ∨ f.reg ≠ .WTM_ISL) :
    islandStops (s.setFld f i n) j = islandStops s j := by
  have hbit : ∀ g : Fld, g.reg = .WTM_ISL → 56 ≤ g.lo → g.lo < 64 → (s.setFld f i n).bit g j = s.bit g j := by
    intro g hg hlo hhi
    refine bit_setFld_ne s f g i j n h hhi ?_
    rcases hr with hr | hr
    · exact .inr (.inr (.inl (by omega)))
    · exact .inl fun e => hr (e ▸ hg)
  rw [islandStops, hbit _ rfl (by decide) (by decide), hbit _ rfl (by decide) (by decide), islandStops]

/-! ## Clock steps (R477-R479) -/

/-- The state differs in clocks, supplies and thermal limits of islands and in the free values used. -/
def Clocked (s t : State) : Prop :=
  (∃ rg n th, t = { s with regs := rg, freeCtr := n, wtm := { s.wtm with therm := th } }) ∧
    (∀ r i, r ≠ .WTM_ISL → t.reg r i = s.reg r i) ∧ ∀ i, islandStops t i = islandStops s i

theorem Clocked.refl (s : State) : Clocked s s := ⟨⟨s.regs, s.freeCtr, s.wtm.therm, rfl⟩, fun _ _ _ => rfl, fun _ => rfl⟩

theorem Clocked.trans {s t u : State} (h : Clocked s t) (h' : Clocked t u) : Clocked s u := by
  obtain ⟨⟨rg, n, th, e⟩, hr, hs⟩ := h
  obtain ⟨⟨rg', n', th', e'⟩, hr', hs'⟩ := h'
  refine ⟨⟨rg', n', th', ?_⟩, fun r i hn => (hr' r i hn).trans (hr r i hn), fun i => (hs' i).trans (hs i)⟩
  rw [e', e]

theorem Clocked.fld {s t : State} (h : Clocked s t) (f : Fld) (i : Nat) (hf : f.reg ≠ .WTM_ISL) : t.fld f i = s.fld f i :=
  fld_congr (h.2.1 _ _ hf)

theorem Clocked.setFld (s : State) (f : Fld) (i n : Nat) (hf : f.reg = .WTM_ISL) (hlo : f.lo ≤ f.hi) (hhi : f.hi < 56) :
    Clocked s (s.setFld f i n) :=
  ⟨⟨_, s.freeCtr, s.wtm.therm, rfl⟩, fun _ _ hr => reg_setFld_ne _ _ _ _ _ (hf ▸ hr),
    fun _ => islandStops_setFld _ _ _ _ _ hlo (.inl hhi)⟩

theorem setClock_clocked (s : State) (i n : Nat) : Clocked s (setClock s i n) := by
  have hnow : Clocked s (s.setFld WTM_ISL.NOW i n) := Clocked.setFld _ _ _ _ rfl (by decide) (by decide)
  have hvolt : ∀ t v, Clocked t (t.setFld WTM_ISL.VOLT i v) := fun t v => Clocked.setFld _ _ _ _ rfl (by decide) (by decide)
  have hfree : ∀ t : State, Clocked t t.useFree := fun t =>
    ⟨⟨t.regs, _, t.wtm.therm, rfl⟩, fun _ _ _ => rfl, fun _ => rfl⟩
  simp only [setClock]
  split
  · exact hnow.trans (hvolt _ _)
  · exact (hnow.trans (hvolt _ _)).trans (hfree _)

theorem stepDown_clocked (s : State) (i : Nat) : Clocked s (stepDown s i) := by
  simp only [stepDown]
  split
  · exact Clocked.refl s
  · split
    · exact setClock_clocked s i _
    · exact Clocked.refl s

theorem setTherm_clocked (s : State) (i n : Nat) : Clocked s (setTherm s i n) :=
  ⟨⟨s.regs, s.freeCtr, _, rfl⟩, fun _ _ _ => rfl, fun _ => rfl⟩

/-! ## What the end of a command does not go on from -/

/-- The registers, but for WTM_ISL, that the end of a command goes by. -/
def pumpRegs : List RegName := [.CLG_RING, .DRD_INJ, .SEC_BOOT, .DRD_CTL, .DRD_SAFE, .DET_STAT]

/-- The state differs in nothing that the end of a command goes on from, but for detections that wait. -/
def Calm (s t : State) : Prop :=
  (∃ rg n w wl o m x rz, t = { s with
    regs := rg, freeCtr := n, wtm := w, wlog := wl, out := o, msix := m, raised := rz, drd := { s.drd with wr := x } }) ∧
    (∀ r ∈ pumpRegs, ∀ i, t.reg r i = s.reg r i) ∧ ∀ i, islandStops t i = islandStops s i

theorem Calm.trans {s t u : State} (h : Calm s t) (h' : Calm t u) : Calm s u := by
  obtain ⟨⟨rg, n, w, wl, o, m, x, rz, e⟩, hr, hs⟩ := h
  obtain ⟨⟨rg', n', w', wl', o', m', x', rz', e'⟩, hr', hs'⟩ := h'
  refine ⟨⟨rg', n', w', wl', o', m', x', rz', ?_⟩, fun r hn i => (hr' r hn i).trans (hr r hn i),
    fun i => (hs' i).trans (hs i)⟩
  rw [e', e]

/-- A calm step from a quiet machine that leaves no detection waiting ends quiet. -/
theorem Calm.quiet {s t : State} (h : Calm s t) (hq : quiet s = true) (hz : t.raised = []) : quiet t = true := by
  obtain ⟨⟨rg, n, w, wl, o, m, x, rz, e⟩, hr, hs⟩ := h
  obtain ⟨_, hbusy, hp0, hp1, hserved, hheld, hclog, hstops, hsafe, hjnl, haes⟩ := (quiet_iff s).1 hq
  have hbit : ∀ (f : Fld) (i : Nat), f.reg ∈ pumpRegs → t.bit f i = s.bit f i := fun f i hf => bit_congr (hr _ hf i)
  have hfld : ∀ (f : Fld) (i : Nat), f.reg ∈ pumpRegs → t.fld f i = s.fld f i := fun f i hf => fld_congr (hr _ hf i)
  have hsettled : safeSettled t = safeSettled s := by
    have hlatched : t.drd.latched = s.drd.latched := by rw [e]
    have hhb : t.drd.hb = s.drd.hb := by rw [e]
    have hboot : t.boot = s.boot := by rw [e]
    simp only [safeSettled, mayLeaveSafe, injectionPassed, inSafe, replaying, safeOk, hlatched, hhb, hboot,
      hbit DRD_INJ.ALL 0 (by decide), hfld DRD_INJ.ROWS 0 (by decide), hbit SEC_BOOT.READY 0 (by decide),
      hbit DRD_CTL.ARM 0 (by decide), hbit DRD_SAFE.STATE 0 (by decide), hbit DRD_SAFE.OKNOW 0 (by decide),
      hbit DET_STAT.REPLAYING 0 (by decide)]
  have hclog' : t.fld CLG_RING.BASE 0 = 0 ∨ t.clog.line ≠ 0 := by
    rw [hfld CLG_RING.BASE 0 (by decide), show t.clog = s.clog by rw [e]]
    exact hclog
  refine (quiet_iff t).2 ⟨hz, ?_, ?_, ?_, ?_, ?_, hclog', fun i hi => (hs i).trans (hstops i hi),
    hsettled.trans hsafe, ?_, ?_⟩
  all_goals (rw [e]; assumption)

theorem Clocked.calm {s t : State} (h : Clocked s t) : Calm s t := by
  obtain ⟨⟨rg, n, th, e⟩, hr, hs⟩ := h
  refine ⟨⟨rg, n, _, s.wlog, s.out, s.msix, s.drd.wr, s.raised, e⟩, fun r hn i => hr r i ?_, hs⟩
  rintro rfl
  exact absurd hn (by decide)

/-- Setting a field of a register that the end of a command does not go by. -/
theorem Calm.setFld (s : State) (f : Fld) (i n : Nat) (h : f.lo ≤ f.hi) (hf : f.reg ∉ pumpRegs) (hw : f.reg ≠ .WTM_ISL) :
    Calm s (s.setFld f i n) :=
  ⟨⟨_, s.freeCtr, s.wtm, s.wlog, s.out, s.msix, s.drd.wr, s.raised, rfl⟩,
    fun _ hr _ => reg_setFld_ne _ _ _ _ _ fun e => hf (e ▸ hr), fun _ => islandStops_setFld _ _ _ _ _ h (.inr hw)⟩

theorem Calm.setWtm (s : State) (w : WtmSt) : Calm s (s.setWtm w) :=
  ⟨⟨s.regs, s.freeCtr, w, s.wlog, s.out, s.msix, s.drd.wr, s.raised, rfl⟩, fun _ _ _ => rfl, fun _ => rfl⟩

/-- Detections come to wait, or are taken up. -/
theorem Calm.setRaised (s : State) (l : List (Nat × Nat)) : Calm s { s with raised := l } :=
  ⟨⟨s.regs, s.freeCtr, s.wtm, s.wlog, s.out, s.msix, s.drd.wr, l, rfl⟩, fun _ _ _ => rfl, fun _ => rfl⟩

theorem Calm.event (s : State) (q code src detail : Nat) : Calm s (event s q code src detail) := by
  obtain ⟨wl, rg, o, m, e, hr⟩ := eventAt_shape s q code src detail s.stamp
  have hw : ∀ r i, r ≠ .CST_EVQ → (Machine.event s q code src detail).reg r i = s.reg r i := hr
  refine ⟨⟨rg, s.freeCtr, s.wtm, wl, o, m, s.drd.wr, s.raised, e⟩, fun r hn i => hw r i ?_,
    fun i => islandStops_congr (hw .WTM_ISL i (by decide))⟩
  rintro rfl
  exact absurd hn (by decide)

/-! ## The inbox and the report of a detection (R411, R413) -/

/-- A record of the inbox changes memory, its write index and DRD_STAT. -/
theorem inboxPut_shape (s : State) (w0 w1 : Word) :
    (∃ wl rg x, inboxPut s w0 w1 = { s with wlog := wl, regs := rg, drd := { s.drd with wr := x } }) ∧
      ∀ r i, r ≠ .DRD_STAT → (inboxPut s w0 w1).reg r i = s.reg r i := by
  simp only [inboxPut]
  split
  · exact ⟨⟨s.wlog, _, s.drd.wr, rfl⟩, fun r i hr => reg_satAdd_ne _ _ _ _ _ hr⟩
  · obtain ⟨w1', e1⟩ := store_shape s (drdBase + 0x3F000 + 16 * (s.drd.wr % 256)) 8 w0.toNat
    rw [e1]
    obtain ⟨w2, e2⟩ := store_shape { s with wlog := w1' } (drdBase + 0x3F000 + 16 * (s.drd.wr % 256) + 8) 8 w1.toNat
    rw [e2]
    exact ⟨⟨w2, _, _, rfl⟩, fun r i hr => reg_setFld_ne _ _ _ _ _ hr⟩

theorem raised_inboxPut (s : State) (w0 w1 : Word) : (inboxPut s w0 w1).raised = s.raised := by
  obtain ⟨⟨wl, rg, x, e⟩, _⟩ := inboxPut_shape s w0 w1
  rw [e]

theorem Calm.inboxPut (s : State) (w0 w1 : Word) : Calm s (inboxPut s w0 w1) := by
  obtain ⟨⟨wl, rg, x, e⟩, hr⟩ := inboxPut_shape s w0 w1
  refine ⟨⟨rg, s.freeCtr, s.wtm, wl, s.out, s.msix, x, s.raised, e⟩, fun r hn i => hr r i ?_,
    fun i => islandStops_congr (hr .WTM_ISL i (by decide))⟩
  rintro rfl
  exact absurd hn (by decide)

/-- The state with one more detection of a class counted. -/
def countedDet (s : State) (k : Nat) : State := (s.satAdd DRD_REACT.TOTAL k 1).satAdd DRD_REACT.COUNT k 1

/-- A detection whose reaction is 1 is counted and reported: an event and a record of the inbox. -/
theorem handleDetection_report (s : State) (k src : Nat) (hk : k < 26) (hr : s.fld DRD_REACT.REACT k = 1) :
    handleDetection s k src =
      inboxEvent (drdEvent (countedDet s k) 0xA003 (k + src * 2 ^ 8)) 0xA003 (k + src * 2 ^ 8) := by
  have hset : (countedDet s k).fld DRD_REACT.REACT k = 1 := by
    rw [countedDet, State.satAdd, fld_setFld_ne _ _ _ _ _ _ (by decide) (by decide) (by decide) (.inr (.inr (.inr (by decide)))),
      State.satAdd, fld_setFld_ne _ _ _ _ _ _ (by decide) (by decide) (by decide) (.inr (.inr (.inr (by decide)))), hr]
  rw [countedDet] at hset ⊢
  simp only [handleDetection, if_neg (Nat.not_le.2 hk), hset, ite_self, Nat.one_ne_zero, if_false, Nat.reduceEqDiff]

/-- One detection that waits is handled when its reaction raises no other. -/
theorem handleRaised_one (n : Nat) (s : State) (k src : Nat) (h : s.raised = [(k, src)])
    (hz : (handleDetection { s with raised := [] } k src).raised = []) :
    handleRaised (n + 2) s = handleDetection { s with raised := [] } k src := by
  simp only [handleRaised, h, firstDet, List.erase_cons_head, hz]

/-- What happens first at the end of a command is all that happens when it leaves a quiet machine. -/
theorem settle_of_work {s t : State} (hw : work s = some t) (hq : quiet t = true) : settle s = t := by
  have hfuel : workFuel s = workFuel s - 1 + 1 := by
    have : 32 ≤ workFuel s := Nat.le_add_right _ _
    omega
  have hN : workN (workFuel s) s = t := by
    rw [hfuel]
    simp only [workN, hw]
    exact workN_quiet _ t hq
  have hs := settle_quiet t hq
  simp only [settle, workN_quiet _ t hq] at hs
  simp only [settle, hN, hs]

/-! ## Events -/

theorem raised_event (s : State) (q code src detail : Nat) : (event s q code src detail).raised = s.raised := by
  obtain ⟨wl, rg, o, m, e, _⟩ := eventAt_shape s q code src detail s.stamp
  rw [event, e]

/-- An event record enters its queue when that has room. -/
theorem told_event (s : State) (q code src detail : Nat) : told s (event s q code src detail) q := by
  intro hroom
  have hval : ∀ t : State, (t.setFld CST_EVQ.WR q ((s.fld CST_EVQ.WR q + 1) % 4096)).fld CST_EVQ.WR q =
      (s.fld CST_EVQ.WR q + 1) % 4096 := fun t =>
    fld_setFld_same _ _ _ _ (by decide) (by decide) (Nat.mod_lt _ (by decide))
  simp only [event, eventAt, if_neg hroom]
  split
  · simp only [State.fld]
    obtain ⟨o, m, e⟩ := sendVec_shape _ _
    rw [e]
    exact hval _
  · exact hval _

/-- An event record moves no read index. -/
theorem rd_event (s : State) (q code src detail : Nat) : (event s q code src detail).fld CST_EVQ.RD q = s.fld CST_EVQ.RD q := by
  have hwr : ∀ (t : State) (n : Nat), (t.setFld CST_EVQ.WR q n).fld CST_EVQ.RD q = t.fld CST_EVQ.RD q := fun t n =>
    fld_setFld_ne _ _ _ _ _ _ (by decide) (by decide) (by decide) (.inr (.inr (.inl (by decide))))
  have hstore : ∀ (t : State) (a v : Nat), (t.store a 8 v).fld CST_EVQ.RD q = t.fld CST_EVQ.RD q := fun t a v =>
    fld_congr (reg_store _ _ _ _ _ _)
  simp only [event, eventAt]
  split
  · exact fld_setFld_ne _ _ _ _ _ _ (by decide) (by decide) (by decide) (.inr (.inr (.inr (by decide))))
  · split
    · simp only [State.fld]
      obtain ⟨o, m, e⟩ := sendVec_shape _ _
      rw [e]
      exact ((hwr _ _).trans (hstore _ _ _)).trans (hstore _ _ _)
    · exact ((hwr _ _).trans (hstore _ _ _)).trans (hstore _ _ _)

/-! ## A reading of a junction (R483) -/

/-- The field that holds a sensor's reading. -/
def dieSensor : DieSensor → Fld
  | .die0 => WTM_THERM.TJ0
  | .die1 => WTM_THERM.TJ1
  | .hub => WTM_THERM.TJH

/-- Every adjustable island goes to its floor. -/
def floored (s : State) : State :=
  forL ((upFrom 0 36).filter isAdjustable) (fun i s =>
    if islandFloor i < s.fld WTM_ISL.NOW i then setClock s i (islandFloor i) else s) s

/-- The islands of a die go one step down and are held there. -/
def dieLowered (s : State) (d : Nat) : State :=
  forL (dieIslands d) (fun i s => setTherm (stepDown s i) i ((stepDown s i).fld WTM_ISL.NOW i)) s

/-- The islands of a die may go one step up. -/
def dieRaised (s : State) (d : Nat) : State :=
  forL (dieIslands d) (fun i s =>
    match stepAbove i (thermCap s i) with
    | some n => setTherm s i n
    | none => setTherm s i (islandMax i)) s

/-- The first reading above CRIT is a detection and sends the islands to their floors. -/
def critStep (s : State) (deg : Int) : State :=
  if (s.fld WTM_THERM.CRIT 0 : Int) < deg ∧ ¬ s.wtm.crit then
    floored (detect (s.setWtm { s.wtm with crit := true }) 11 wtmSrc)
  else s

/-- A reading throttles its die, keeps it throttled, or lets it go. -/
def throttleStep (s : State) (d : Nat) (deg : Int) : State :=
  let thr : Int := s.fld WTM_THERM.THR 0
  let hot := s.wtm.hot.contains d
  if thr < deg ∨ (hot ∧ thr - 2 < deg) then
    dieLowered (if hot then s else wtmEvent (setHot s (s.wtm.hot ++ [d])) 0xB001 d) d
  else if deg ≤ thr - 2 then dieRaised (setHot s (s.wtm.hot.filter fun x => x ≠ d)) d
  else s

/-- A reading is stored, judged against CRIT, then against THR. -/
theorem thermal_eq (s : State) (die : DieSensor) (deg : Int) : thermal s die deg =
    throttleStep (critStep (s.setFld (dieSensor die) 0 (tempBits deg)) deg) (dieNum die) deg := by
  cases die <;> rfl

theorem floored_clocked (s : State) : Clocked s (floored s) := by
  refine forL_rel Clocked.refl Clocked.trans (fun i s => ?_) _ s
  split
  · exact setClock_clocked s i _
  · exact Clocked.refl s

theorem dieLowered_clocked (s : State) (d : Nat) : Clocked s (dieLowered s d) :=
  forL_rel Clocked.refl Clocked.trans (fun i s => (stepDown_clocked s i).trans (setTherm_clocked _ _ _)) _ s

/-- Storing a reading changes neither threshold. -/
theorem thresholds_setFld (s : State) (die : DieSensor) (n : Nat) :
    (s.setFld (dieSensor die) 0 n).fld WTM_THERM.THR 0 = s.fld WTM_THERM.THR 0 ∧
    (s.setFld (dieSensor die) 0 n).fld WTM_THERM.CRIT 0 = s.fld WTM_THERM.CRIT 0 := by
  constructor <;> (apply fld_setFld_ne <;> cases die <;> decide)

/-- What a first reading above CRIT leaves: a detection of class 11 waits, and of the registers only those of the islands
and of the temperatures have changed. -/
structure CritFound (s t : State) : Prop where
  calm : Calm s t
  raised : t.raised = s.raised ++ [(11, wtmSrc)]
  hot : t.wtm.hot = s.wtm.hot
  regs : ∀ r i, r ≠ .WTM_ISL → r ≠ .WTM_THERM → t.reg r i = s.reg r i
  thr : t.fld WTM_THERM.THR 0 = s.fld WTM_THERM.THR 0

theorem critStep_found (s : State) (die : DieSensor) (deg : Int) (hcrit : (s.fld WTM_THERM.CRIT 0 : Int) < deg)
    (hfirst : s.wtm.crit = false) : CritFound s (critStep (s.setFld (dieSensor die) 0 (tempBits deg)) deg) := by
  obtain ⟨hthr, hcrit'⟩ := thresholds_setFld s die (tempBits deg)
  have hreg : (dieSensor die).reg = .WTM_THERM := by cases die <;> rfl
  have hlo : (dieSensor die).lo ≤ (dieSensor die).hi := by cases die <;> decide
  have hif : ((s.setFld (dieSensor die) 0 (tempBits deg)).fld WTM_THERM.CRIT 0 : Int) < deg ∧
      ¬ (s.setFld (dieSensor die) 0 (tempBits deg)).wtm.crit = true := by
    rw [hcrit', State.setFld_wtm, hfirst]
    exact ⟨hcrit, Bool.false_ne_true⟩
  have hstored : Calm s (s.setFld (dieSensor die) 0 (tempBits deg)) :=
    Calm.setFld _ _ _ _ hlo (hreg ▸ by decide) (hreg ▸ by decide)
  rw [critStep, if_pos hif]
  generalize hu : detect _ 11 wtmSrc = u
  have hclk := floored_clocked u
  refine ⟨?_, ?_, ?_, fun r i hi ht => ?_, ?_⟩
  · refine hstored.trans (.trans ?_ hclk.calm)
    rw [← hu]
    exact (Calm.setWtm _ _).trans (Calm.setRaised _ _)
  · obtain ⟨⟨rg, n, th, e⟩, _⟩ := hclk
    rw [e, ← hu]
    rfl
  · obtain ⟨⟨rg, n, th, e⟩, _⟩ := hclk
    rw [e, ← hu]
    rfl
  · rw [hclk.2.1 r i hi, ← hu]
    exact reg_setFld_ne _ _ _ _ _ (hreg ▸ ht)
  · rw [hclk.fld _ _ (by decide), ← hu]
    exact hthr

/-- `told` is about a queue's register alone. -/
theorem told_congr {s s' t t' : State} {q : Nat} (hs : s'.reg .CST_EVQ q = s.reg .CST_EVQ q)
    (ht : t'.reg .CST_EVQ q = t.reg .CST_EVQ q) (h : told s t q) : told s' t' q := by
  rw [told, fld_congr (f := CST_EVQ.WR) hs, fld_congr (f := CST_EVQ.RD) hs, fld_congr (f := CST_EVQ.WR) ht]
  exact h

/-- A first reading above THR and CRIT is told once, and its detection waits. -/
theorem thermal_critical (s : State) (die : DieSensor) (deg : Int) (hthr : (s.fld WTM_THERM.THR 0 : Int) < deg)
    (hcrit : (s.fld WTM_THERM.CRIT 0 : Int) < deg) (hfirst : s.wtm.crit = false) (hhot : s.wtm.hot = [])
    (hraised : s.raised = []) :
    let t := thermal s die deg
    let q := s.fld WTM_CTL.EVQ 0
    Calm s t ∧ t.raised = [(11, wtmSrc)] ∧ (∀ i, t.reg .DRD_REACT i = s.reg .DRD_REACT i) ∧ told s t q ∧
      t.fld CST_EVQ.RD q = s.fld CST_EVQ.RD q := by
  intro t q
  have hfound := critStep_found s die deg hcrit hfirst
  have ht : t = throttleStep (critStep (s.setFld (dieSensor die) 0 (tempBits deg)) deg) (dieNum die) deg := thermal_eq s die deg
  revert hfound ht
  generalize critStep (s.setFld (dieSensor die) 0 (tempBits deg)) deg = u
  intro hfound ht
  generalize hv : setHot u [dieNum die] = v
  have hregv : ∀ r i, r ≠ .WTM_ISL → r ≠ .WTM_THERM → v.reg r i = s.reg r i := fun r i hi hne => by
    rw [← hv, setHot, reg_setBit_ne _ _ _ _ _ hne]
    exact hfound.regs r i hi hne
  have hq : v.fld WTM_CTL.EVQ 0 = q := fld_congr (hregv _ _ (by decide) (by decide))
  have hlow : t = dieLowered (event v q 0xB001 wtmSrc (dieNum die)) (dieNum die) := by
    rw [ht, throttleStep, hfound.thr, hfound.hot, hhot, if_pos (.inl hthr), List.contains_nil, if_neg Bool.false_ne_true,
      List.nil_append, hv, wtmEvent, hq]
  have hclk := dieLowered_clocked (event v q 0xB001 wtmSrc (dieNum die)) (dieNum die)
  rw [← hlow] at hclk
  have hcalmv : Calm u v := by
    rw [← hv]
    exact (Calm.setWtm _ _).trans (Calm.setFld _ _ _ _ (by decide) (by decide) (by decide))
  refine ⟨((hfound.calm.trans hcalmv).trans (Calm.event _ _ _ _ _)).trans hclk.calm, ?_, fun i => ?_, ?_, ?_⟩
  · obtain ⟨⟨rg, n, th, e⟩, _⟩ := hclk
    rw [e]
    show (event v q 0xB001 wtmSrc (dieNum die)).raised = _
    rw [raised_event, ← hv]
    show u.raised = _
    rw [hfound.raised, hraised, List.nil_append]
  · rw [hclk.2.1 _ _ (by decide), reg_event_ne _ _ _ _ _ _ (by decide)]
    exact hregv _ _ (by decide) (by decide)
  · exact told_congr (hregv _ _ (by decide) (by decide)).symm (hclk.2.1 _ _ (by decide)) (told_event v q 0xB001 wtmSrc _)
  · rw [hclk.fld _ _ (by decide), rd_event]
    exact fld_congr (hregv _ _ (by decide) (by decide))

/-- The report of a detection: one event of the Ditch Rider. -/
theorem report_told (s : State) (k src : Nat) (hk : k < 26) (hr : s.fld DRD_REACT.REACT k = 1) :
    Calm s (handleDetection s k src) ∧ (handleDetection s k src).raised = s.raised ∧
      told s (handleDetection s k src) (s.fld DRD_CTL.EVQ 0) := by
  rw [handleDetection_report s k src hk hr]
  have hcount : Calm s (countedDet s k) :=
    (Calm.setFld _ _ _ _ (by decide) (by decide) (by decide)).trans (Calm.setFld _ _ _ _ (by decide) (by decide) (by decide))
  have hreg : ∀ r i, r ≠ .DRD_REACT → (countedDet s k).reg r i = s.reg r i := fun r i hne => by
    rw [countedDet, reg_satAdd_ne _ _ _ _ _ hne, reg_satAdd_ne _ _ _ _ _ hne]
  have hq : (countedDet s k).fld DRD_CTL.EVQ 0 = s.fld DRD_CTL.EVQ 0 := fld_congr (hreg _ _ (by decide))
  rw [drdEvent, hq, inboxEvent]
  refine ⟨(hcount.trans (Calm.event _ _ _ _ _)).trans (Calm.inboxPut _ _ _), ?_, ?_⟩
  · rw [raised_inboxPut, raised_event]
    rfl
  · exact told_congr (hreg _ _ (by decide)).symm ((inboxPut_shape _ _ _).2 _ _ (by decide)) (told_event _ _ _ _ _)

/-- With the Watermaster's events and the Ditch Rider's in one queue, a first reading above THR and CRIT whose detection is
reported puts two records there. -/
theorem exec_thermal_critical (s : State) (die : DieSensor) (deg : Int) (hst : still s = true)
    (hthr : (s.fld WTM_THERM.THR 0 : Int) < deg) (hcrit : (s.fld WTM_THERM.CRIT 0 : Int) < deg)
    (hfirst : s.wtm.crit = false) (hhot : s.wtm.hot = []) (hreact : s.fld DRD_REACT.REACT 11 = 1)
    (hq : s.fld DRD_CTL.EVQ 0 = s.fld WTM_CTL.EVQ 0) :
    ∃ u t, exec (.thermalThrottle die deg) s = .next t ∧ told s u (s.fld WTM_CTL.EVQ 0) ∧ told u t (s.fld WTM_CTL.EVQ 0) ∧
      u.fld CST_EVQ.RD (s.fld WTM_CTL.EVQ 0) = s.fld CST_EVQ.RD (s.fld WTM_CTL.EVQ 0) := by
  simp only [still, Bool.and_eq_true] at hst
  obtain ⟨⟨⟨⟨halive, _⟩, _⟩, _⟩, hquiet⟩ := hst
  obtain ⟨hcalm, hraised, hreg, htold, hrd⟩ :=
    thermal_critical s.begin die deg hthr hcrit hfirst hhot (quiet_raised s hquiet)
  generalize hu : thermal s.begin die deg = u at hcalm hraised hreg htold hrd
  have hreact' : ({ u with raised := [] } : State).fld DRD_REACT.REACT 11 = 1 := (fld_congr (hreg 11)).trans hreact
  have hq' : ({ u with raised := [] } : State).fld DRD_CTL.EVQ 0 = s.fld WTM_CTL.EVQ 0 :=
    (fld_congr (hcalm.2.1 _ (by decide) 0)).trans hq
  obtain ⟨hcalm', hnone, htold'⟩ := report_told { u with raised := [] } 11 wtmSrc (by decide) hreact'
  rw [hq'] at htold'
  have hquiet' : quiet (handleDetection { u with raised := [] } 11 wtmSrc) = true :=
    ((hcalm.trans (Calm.setRaised u [])).trans hcalm').quiet hquiet hnone
  have hwork : work u = some (handleDetection { u with raised := [] } 11 wtmSrc) := by
    rw [work, hraised, List.isEmpty_cons, if_neg Bool.false_ne_true, handleRaised_one 1022 u 11 wtmSrc hraised hnone]
  have hrun : exec (.thermalThrottle die deg) s = .next (commit s (settle (thermal s.begin die deg))) := by
    show run true (fun s => thermal s die deg) s = _
    simp only [run, halive, Bool.not_true, Bool.false_eq_true, if_true, if_false]
  rw [hu, settle_of_work hwork hquiet'] at hrun
  exact ⟨u, _, hrun, htold, htold', hrd⟩

/-- The state after reset with class 11 to be reported only (R413). -/
def criticalReported : State := State.reset.setFld DRD_REACT.REACT 11 1

theorem criticalReported_fields : still criticalReported = true ∧ criticalReported.fld WTM_THERM.THR 0 = 100 ∧
    criticalReported.fld WTM_THERM.CRIT 0 = 115 ∧ criticalReported.fld DRD_REACT.REACT 11 = 1 ∧
    criticalReported.fld DRD_CTL.EVQ 0 = 0 ∧ criticalReported.fld WTM_CTL.EVQ 0 = 0 ∧
    criticalReported.fld CST_EVQ.WR 0 = 0 ∧ criticalReported.fld CST_EVQ.RD 0 = 0 := by decide +kernel

/-- Refutes O57: after reset the Watermaster and the Ditch Rider tell queue 0. The hub's first reading, 120 degrees, is above
THR and CRIT: its event is one record there and the report of the detection of class 11 another, so the queue's write index
is not the one that `told` asks for. -/
theorem not_islandClocksAndPower : ¬ Obligations.IslandClocksAndPower := by
  intro h
  obtain ⟨hst, hthr, hcrit, hreact, hdrd, hwtm, hwr, hrd⟩ := criticalReported_fields
  obtain ⟨_, _, _, _, _, _, _, _, ⟨t, hexec, _, hhot, _⟩, _⟩ := h criticalReported 0 0 0 0 0 0 0 [] .hub 120 0 false hst
  have htold := ((hhot (by rw [hthr]; decide)).1 rfl).2
  obtain ⟨u, t', hexec', hfirst, hsecond, hrd'⟩ := exec_thermal_critical criticalReported .hub 120 hst
    (by rw [hthr]; decide) (by rw [hcrit]; decide) rfl rfl hreact (hdrd.trans hwtm.symm)
  obtain rfl := Host.Outcome.next.inj (hexec.symm.trans hexec')
  rw [hwtm] at htold hfirst hsecond hrd'
  simp only [told, hwr, hrd] at htold hfirst
  have hone := hfirst (by decide)
  simp only [told, hrd', hrd, hone] at hsecond
  exact absurd ((htold (by decide)).symm.trans (hsecond (by decide))) (by decide)

end Sys2Proof.Machine
